-- ==== Sys2Proof/Word.lean ====
section
/-!
DEFINITION. The word types of the Camgan and the small field types that instructions and events name
(spec/00 R6, R7; spec/07 R205, R206, R210; spec/01 R17; spec/05 R149).
-/

namespace Sys2Proof

/-- A 64-bit register or memory word (R210). -/
abbrev Word := BitVec 64

/-- A 512-bit vector register (R210). -/
abbrev VWord := BitVec 512

/-- A byte of memory. -/
abbrev Byte := BitVec 8

/-- An instruction word (R205). -/
abbrev IWord := BitVec 32

/-- A register field of five bits; the form fixes the file it names (R210). -/
abbrev Reg := BitVec 5

/-- A mask-register or accumulator-slot field: bits [4:3] of the five are zero (R205, R209). -/
abbrev KReg := BitVec 3

/-- Scope codes 000 .h, 001 .t, 010 .c, 011 .w, 100 .s (R206). -/
inductive Scope where
  | h | t | c | w | s
deriving DecidableEq, Repr

/-- Ordering codes 00 none, 01 .acq, 10 .rel, 11 .ar (R206). -/
inductive Ord where
  | none | acq | rel | ar
deriving DecidableEq, Repr

/-- Access sizes .B, .H, .W, .D (R205). -/
inductive Size where
  | b | h | w | d
deriving DecidableEq, Repr

/-- Element types of format V (R206, R260). -/
inductive EType where
  | si8 | ui8 | si16 | si32 | si64 | f16 | bf16 | f32 | f64
deriving DecidableEq, Repr

/-- Kinds of FENCE (R254). -/
inductive FenceKind where
  | acq | rel | ar | sc
deriving DecidableEq, Repr

/-- Relations of VCMP (R262). -/
inductive Cond where
  | eq | ne | lt | le | gt | ge
deriving DecidableEq, Repr

/-- Operations of VRED (R265). -/
inductive RedOp where
  | add | min | max
deriving DecidableEq, Repr

/-- A tile of a tableau: tableau identifier and vtile, stage[19:16], gang[15:6], tile[5:0] (R17, R164). -/
structure TileId where
  tab : BitVec 16
  vt  : BitVec 20
deriving DecidableEq, Repr

/-- A hart of a tile (R149). -/
structure HartId where
  tile : TileId
  num  : BitVec 2
deriving DecidableEq, Repr

/-- A gang of a tableau (R159, R162). -/
structure GangId where
  tab   : BitVec 16
  stage : BitVec 4
  gang  : BitVec 10
deriving DecidableEq, Repr

/-- Who writes a device register or makes a firmware call: a hart, physical function 0 of a host port, or a virtual
function of one, which makes no call (R395, R398). -/
inductive Caller where
  | hart (h : HartId)
  | port (p : BitVec 2)
  | vf (p : BitVec 2) (fn : BitVec 8)
deriving DecidableEq, Repr

/-- Which bytes of an 8-byte device register an access names (R48). -/
inductive Half where
  | both | low | high
deriving DecidableEq, Repr

/-- A defect map: the tiles, and the clusters whose engine has a defect (R3, R404). -/
structure DefectMap where
  tiles   : List Nat
  engines : List Nat
deriving DecidableEq, Repr

/-- What a start sets up: the slots that the loft is to have (R105) and the host ports that train as CXL (R395). -/
structure Setup where
  loft : Nat
  cxl  : BitVec 4
deriving DecidableEq, Repr

/-- A rectangle of physical tiles, corners included (R160). -/
structure Rect where
  x0 : Nat
  y0 : Nat
  x1 : Nat
  y1 : Nat
deriving DecidableEq, Repr

/-- A box of gangs: a stage range and a gang range (R352). -/
structure GangBox where
  s0 : Nat
  s1 : Nat
  n0 : Nat
  n1 : Nat
deriving DecidableEq, Repr

/-- The arguments of TBL_CREATE (R399): the extent, SLICEMAX, the carrier size, NLOG, the deadline, the
co-residency sets, the runtime-loop entry, the granted share, and what system software fixes beside
them: the root its page tables have, the park table's VA and DPA. -/
structure TblArgs where
  stages    : Nat
  gangs     : Nat
  tiles     : Nat
  sliceMax  : Nat
  carrier   : Nat
  nlog      : Nat
  pdead     : Nat
  sets      : List GangBox
  loopEntry : Word
  share     : List Rect
  root      : Nat
  parkVa    : Nat
  parkDpa   : Nat
deriving DecidableEq, Repr

/-- What a storage transfer names (R401). -/
structure StoreArgs where
  port   : Nat
  nspace : Nat
  lba    : Nat
  count  : Nat
  tab    : BitVec 16
  va     : Word
  key    : Option (BitVec 4)
deriving DecidableEq, Repr

end Sys2Proof
end

