-- ==== Sys2Proof/Syntax.lean ====
section
/-!
DEFINITION. The instructions and steps of the Camgan: one constructor for each of the 273 rows of spec/opcode_table.json.
The first 161 are the encoded forms of spec/07 R208 with the operand fields of R205; the others are the steps of the
machine that have no encoding (spec/95): what happens at the homes, in the engines, in the front end, at the ostler, in
firmware and at the ports. A step names its subject (an in-flight access and its piece, a tile, a hart, a gang, a queue) and
carries what comes from outside the part.
-/

namespace Sys2Proof

inductive Instr where
  /-- ADD: Writes the 64-bit sum of two scalar registers (R229) -/
  | add (d a b : Reg) (w : Bool)
  /-- SUB: Writes the 64-bit difference of two scalar registers (R229) -/
  | sub (d a b : Reg) (w : Bool)
  /-- AND: Writes the bitwise AND of two scalar registers (R229) -/
  | and (d a b : Reg) (w : Bool)
  /-- OR: Writes the bitwise OR of two scalar registers (R229) -/
  | or (d a b : Reg) (w : Bool)
  /-- XOR: Writes the bitwise XOR of two scalar registers (R229) -/
  | xor (d a b : Reg) (w : Bool)
  /-- ANDN: Writes x AND NOT y (R229) -/
  | andn (d a b : Reg) (w : Bool)
  /-- SHL: Shifts left by the low six bits of the second source (R229) -/
  | shl (d a b : Reg) (w : Bool)
  /-- SHR: Shifts right, shifting in zeros (R229) -/
  | shr (d a b : Reg) (w : Bool)
  /-- SAR: Shifts right arithmetically (R229) -/
  | sar (d a b : Reg) (w : Bool)
  /-- MUL: Writes the low 64 bits of the product (R229) -/
  | mul (d a b : Reg) (w : Bool)
  /-- MULHI: Writes the high 64 bits of the unsigned product (R229) -/
  | mulhi (d a b : Reg) (w : Bool)
  /-- MULHIS: Writes the high 64 bits of the signed product (R229) -/
  | mulhis (d a b : Reg) (w : Bool)
  /-- DIV: Unsigned division with a fixed result for a zero divisor (R230) -/
  | div (d a b : Reg) (w : Bool)
  /-- DIVS: Signed division rounding toward zero, with fixed results for zero and overflow (R230) -/
  | divs (d a b : Reg) (w : Bool)
  /-- REM: Unsigned remainder (R230) -/
  | rem (d a b : Reg) (w : Bool)
  /-- REMS: Signed remainder (R230) -/
  | rems (d a b : Reg) (w : Bool)
  /-- MIN: Writes the unsigned minimum (R229) -/
  | min (d a b : Reg) (w : Bool)
  /-- MINS: Writes the signed minimum (R229) -/
  | mins (d a b : Reg) (w : Bool)
  /-- MAX: Writes the unsigned maximum (R229) -/
  | max (d a b : Reg) (w : Bool)
  /-- MAXS: Writes the signed maximum (R229) -/
  | maxs (d a b : Reg) (w : Bool)
  /-- CMPEQ: Writes 1 if the sources are equal, else 0 (R229) -/
  | cmpeq (d a b : Reg) (w : Bool)
  /-- CMPLT: Writes 1 if x < y unsigned (R229) -/
  | cmplt (d a b : Reg) (w : Bool)
  /-- CMPLTS: Writes 1 if x < y signed (R229) -/
  | cmplts (d a b : Reg) (w : Bool)
  /-- SEL: Writes x if the old destination is nonzero, else y (R229) -/
  | sel (d a b : Reg) (w : Bool)
  /-- CLZ: Counts leading zero bits (R229) -/
  | clz (d a : Reg) (w : Bool)
  /-- CTZ: Counts trailing zero bits (R229) -/
  | ctz (d a : Reg) (w : Bool)
  /-- POPC: Counts one bits (R229) -/
  | popc (d a : Reg) (w : Bool)
  /-- BSWAP: Reverses the byte order (R229) -/
  | bswap (d a : Reg) (w : Bool)
  /-- ADDI: Adds a sign-extended immediate (R231) -/
  | addi (d a : Reg) (w : Bool) (imm : BitVec 15)
  /-- ANDI: ANDs a zero-extended immediate (R231) -/
  | andi (d a : Reg) (w : Bool) (imm : BitVec 15)
  /-- ORI: ORs a zero-extended immediate (R231) -/
  | ori (d a : Reg) (w : Bool) (imm : BitVec 15)
  /-- XORI: XORs a zero-extended immediate (R231) -/
  | xori (d a : Reg) (w : Bool) (imm : BitVec 15)
  /-- SHLI: Shifts left by an immediate amount (R231) -/
  | shli (d a : Reg) (w : Bool) (amt : BitVec 6)
  /-- SHRI: Shifts right logically by an immediate amount (R231) -/
  | shri (d a : Reg) (w : Bool) (amt : BitVec 6)
  /-- SARI: Shifts right arithmetically by an immediate amount (R231) -/
  | sari (d a : Reg) (w : Bool) (amt : BitVec 6)
  /-- CMPLTI: Writes 1 if the register is below a signed immediate (R231) -/
  | cmplti (d a : Reg) (w : Bool) (imm : BitVec 15)
  /-- LIH: Writes a sign-extended 21-bit immediate shifted left by 11 (R232) -/
  | lih (d : Reg) (imm : BitVec 21)
  /-- ADDPC: Writes the instruction's address plus a sign-extended immediate (R232) -/
  | addpc (d : Reg) (imm : BitVec 21)
  /-- EXT: Extracts a zero-extended bit field (R233) -/
  | ext (d a : Reg) (w : Bool) (pos len1 : BitVec 6)
  /-- INS: Inserts a bit field into the destination (R233) -/
  | ins (d a : Reg) (w : Bool) (pos len1 : BitVec 6)
  /-- BEQ: Branches if two registers are equal (R234) -/
  | beq (a b : Reg) (w : Bool) (off : BitVec 15)
  /-- BNE: Branches if two registers differ (R234) -/
  | bne (a b : Reg) (w : Bool) (off : BitVec 15)
  /-- BLT: Branches if less, unsigned (R234) -/
  | blt (a b : Reg) (w : Bool) (off : BitVec 15)
  /-- BGE: Branches if greater or equal, unsigned (R234) -/
  | bge (a b : Reg) (w : Bool) (off : BitVec 15)
  /-- BLTS: Branches if less, signed (R234) -/
  | blts (a b : Reg) (w : Bool) (off : BitVec 15)
  /-- BGES: Branches if greater or equal, signed (R234) -/
  | bges (a b : Reg) (w : Bool) (off : BitVec 15)
  /-- JMP: Jumps PC-relative (R235) -/
  | jmp (off : BitVec 25)
  /-- CALL: Pushes the return address, spilling if needed, and jumps PC-relative (R235) -/
  | call (off : BitVec 25)
  /-- JR: Jumps to the address in a register (R236) -/
  | jr (a : Reg) (w : Bool)
  /-- CALLR: Pushes the return address and jumps to a register address (R236) -/
  | callr (a : Reg) (w : Bool)
  /-- RET: Pops the return stack, refilling from memory if needed, and jumps (R236) -/
  | ret
  /-- LD: Plain load, zero-extended, of 1 to 8 bytes (R241) -/
  | ld (d a : Reg) (w : Bool) (sz : Size) (sc : Scope) (o : Ord) (imm : BitVec 8)
  /-- LDS: Plain load, sign-extended (R241) -/
  | lds (d a : Reg) (w : Bool) (sz : Size) (sc : Scope) (o : Ord) (imm : BitVec 8)
  /-- ST: Plain store of 1 to 8 bytes (R241) -/
  | st (d a : Reg) (w : Bool) (sz : Size) (sc : Scope) (o : Ord) (imm : BitVec 8)
  /-- LD_WAIT: Waiting load of a word that must be FULL, retried at the home (R242) -/
  | ldWait (d a : Reg) (w : Bool) (sc : Scope) (o : Ord) (imm : BitVec 8)
  /-- LD_TAKE: Taking load that reads a FULL word and leaves it EMPTY (R242) -/
  | ldTake (d a : Reg) (w : Bool) (sc : Scope) (o : Ord) (imm : BitVec 8)
  /-- ST_FILL: Filling store to an empty word that leaves it FULL (R242) -/
  | stFill (d a : Reg) (w : Bool) (sc : Scope) (o : Ord) (imm : BitVec 8)
  /-- ST_EMPTY: Emptying store that writes data and sets the word EMPTY (R243) -/
  | stEmpty (d a : Reg) (w : Bool) (sc : Scope) (o : Ord) (imm : BitVec 8)
  /-- TAG_GET: Reads the tags of 32 words into a register (R245) -/
  | tagGet (d a : Reg) (w : Bool) (imm : BitVec 8)
  /-- TAG_SET: Sets the tags of 1 to 64 words one by one (R246) -/
  | tagSet (d a : Reg) (w : Bool) (imm : BitVec 8)
  /-- PARK: Suspends the hart on its recorded full/empty access until it can be performed (R72) -/
  | park
  /-- PREF: Asks for a paged line to be brought into the L1 without trapping (R248) -/
  | pref (a : Reg) (w : Bool) (imm : BitVec 8)
  /-- AMO_ADD: Atomic add at the word's home (R250) -/
  | amoAdd (d a b : Reg) (w dbl : Bool) (sc : Scope) (o : Ord)
  /-- AMO_FADD: Atomic floating add at the word's home (R251) -/
  | amoFadd (d a b : Reg) (w dbl : Bool) (sc : Scope) (o : Ord)
  /-- AMO_AND: Atomic AND (R250) -/
  | amoAnd (d a b : Reg) (w dbl : Bool) (sc : Scope) (o : Ord)
  /-- AMO_OR: Atomic OR (R250) -/
  | amoOr (d a b : Reg) (w dbl : Bool) (sc : Scope) (o : Ord)
  /-- AMO_XOR: Atomic XOR (R250) -/
  | amoXor (d a b : Reg) (w dbl : Bool) (sc : Scope) (o : Ord)
  /-- AMO_MIN: Atomic unsigned minimum (R250) -/
  | amoMin (d a b : Reg) (w dbl : Bool) (sc : Scope) (o : Ord)
  /-- AMO_MINS: Atomic signed minimum (R250) -/
  | amoMins (d a b : Reg) (w dbl : Bool) (sc : Scope) (o : Ord)
  /-- AMO_MAX: Atomic unsigned maximum (R250) -/
  | amoMax (d a b : Reg) (w dbl : Bool) (sc : Scope) (o : Ord)
  /-- AMO_MAXS: Atomic signed maximum (R250) -/
  | amoMaxs (d a b : Reg) (w dbl : Bool) (sc : Scope) (o : Ord)
  /-- AMO_FMAX: Atomic floating maximum (R251) -/
  | amoFmax (d a b : Reg) (w dbl : Bool) (sc : Scope) (o : Ord)
  /-- AMO_SWAP: Atomic swap (R250) -/
  | amoSwap (d a b : Reg) (w dbl : Bool) (sc : Scope) (o : Ord)
  /-- AMO_CAS: Atomic compare and swap (R250) -/
  | amoCas (d a b : Reg) (w dbl : Bool) (sc : Scope) (o : Ord)
  /-- SHIP: Runs a chandler routine on the addressed sector at its home and returns its result (R253) -/
  | ship (d a b : Reg) (w : Bool) (n : BitVec 6) (sc : Scope) (o : Ord)
  /-- FENCE: Orders the hart's events by kind at a scope (R254) -/
  | fence (kind : FenceKind) (sc : Scope)
  /-- VADD: Element-wise vector add (R261) -/
  | vadd (d a b : Reg) (w : Bool) (k : KReg) (t : EType)
  /-- VSUB: Element-wise vector subtract (R261) -/
  | vsub (d a b : Reg) (w : Bool) (k : KReg) (t : EType)
  /-- VMUL: Element-wise vector multiply (R261) -/
  | vmul (d a b : Reg) (w : Bool) (k : KReg) (t : EType)
  /-- VMIN: Element-wise vector minimum (R261) -/
  | vmin (d a b : Reg) (w : Bool) (k : KReg) (t : EType)
  /-- VMAX: Element-wise vector maximum (R261) -/
  | vmax (d a b : Reg) (w : Bool) (k : KReg) (t : EType)
  /-- VABS: Element-wise absolute value (R261) -/
  | vabs (d a : Reg) (w : Bool) (k : KReg) (t : EType)
  /-- VNEG: Element-wise negation (R261) -/
  | vneg (d a : Reg) (w : Bool) (k : KReg) (t : EType)
  /-- VFMA: Element-wise fused multiply-add into the destination (R261) -/
  | vfma (d a b : Reg) (w : Bool) (k : KReg) (t : EType)
  /-- VAND: Element-wise AND (R261) -/
  | vand (d a b : Reg) (w : Bool) (k : KReg) (t : EType)
  /-- VOR: Element-wise OR (R261) -/
  | vor (d a b : Reg) (w : Bool) (k : KReg) (t : EType)
  /-- VXOR: Element-wise XOR (R261) -/
  | vxor (d a b : Reg) (w : Bool) (k : KReg) (t : EType)
  /-- VSHL: Element-wise shift left (R261) -/
  | vshl (d a b : Reg) (w : Bool) (k : KReg) (t : EType)
  /-- VSHR: Element-wise logical shift right (R261) -/
  | vshr (d a b : Reg) (w : Bool) (k : KReg) (t : EType)
  /-- VSAR: Element-wise arithmetic shift right (R261) -/
  | vsar (d a b : Reg) (w : Bool) (k : KReg) (t : EType)
  /-- VCMP: Compares elements and writes a mask register (R262) -/
  | vcmp (d : KReg) (a b : Reg) (w : Bool) (k : KReg) (t : EType) (cond : Cond)
  /-- VSEL: Selects elements of two vectors by a mask (R263) -/
  | vsel (d a b : Reg) (w : Bool) (k : KReg) (t : EType)
  /-- VBCAST: Broadcasts a scalar into every active element (R263) -/
  | vbcast (d a : Reg) (w : Bool) (k : KReg) (t : EType)
  /-- VMOVG: Extracts one element into a scalar register (R263) -/
  | vmovg (d a b : Reg) (w : Bool) (t : EType)
  /-- VPERM: Permutes elements by an index vector (R263) -/
  | vperm (d a b : Reg) (w : Bool) (k : KReg) (t : EType)
  /-- VCVT: Converts elements to a destination format, optionally saturating (R264) -/
  | vcvt (d a : Reg) (fmt : BitVec 5) (w : Bool) (k : KReg) (t : EType) (sat : Bool)
  /-- VRED: Reduces active elements by add, min or max into a scalar (R265) -/
  | vred (d a : Reg) (w : Bool) (k : KReg) (t : EType) (op : RedOp)
  /-- VEXP2: Correctly rounded 2^x per element (R266) -/
  | vexp2 (d a : Reg) (w : Bool) (k : KReg) (t : EType)
  /-- VRCP: Correctly rounded reciprocal per element (R266) -/
  | vrcp (d a : Reg) (w : Bool) (k : KReg) (t : EType)
  /-- VRSQ: Correctly rounded reciprocal square root per element (R266) -/
  | vrsq (d a : Reg) (w : Bool) (k : KReg) (t : EType)
  /-- VSIG: Correctly rounded sigmoid per element (R266) -/
  | vsig (d a : Reg) (w : Bool) (k : KReg) (t : EType)
  /-- VRAND: Encrypts four counter blocks with AES-128 (R267) -/
  | vrand (d a b : Reg) (w : Bool)
  /-- KOP_AND: ANDs two mask registers (R268) -/
  | kopAnd (d a b : KReg)
  /-- KOP_OR: ORs two mask registers (R268) -/
  | kopOr (d a b : KReg)
  /-- KOP_XOR: XORs two mask registers (R268) -/
  | kopXor (d a b : KReg)
  /-- KOP_ANDN: ANDs a mask with the complement of another (R268) -/
  | kopAndn (d a b : KReg)
  /-- KOP_NOT: Complements a mask register (R268) -/
  | kopNot (d a : KReg)
  /-- KOP_FROMG: Copies a scalar register into a mask register (R268) -/
  | kopFromg (d : KReg) (a : Reg)
  /-- KOP_TOG: Copies a mask register into a scalar register (R268) -/
  | kopTog (d : Reg) (a : KReg)
  /-- VLD: Plain vector load of active elements (R269) -/
  | vld (d a : Reg) (w : Bool) (k : KReg) (sc : Scope) (o : Ord) (esz : Size) (imm : BitVec 5)
  /-- VST: Plain vector store of active elements (R269) -/
  | vst (d a : Reg) (w : Bool) (k : KReg) (sc : Scope) (o : Ord) (esz : Size) (imm : BitVec 5)
  /-- VLD_TAKE: Takes a FULL 64-byte line as one action, leaving it empty (R270) -/
  | vldTake (d a : Reg) (w : Bool) (sc : Scope) (o : Ord) (imm : BitVec 5)
  /-- VST_FILL: Fills an empty 64-byte line as one action, leaving it FULL (R270) -/
  | vstFill (d a : Reg) (w : Bool) (sc : Scope) (o : Ord) (imm : BitVec 5)
  /-- VLDS: Strided plain vector load (R271) -/
  | vlds (d a b : Reg) (w : Bool) (k : KReg) (t : EType)
  /-- VGATH: Indexed plain vector gather (R271) -/
  | vgath (d a b : Reg) (w : Bool) (k : KReg) (t : EType)
  /-- VSCAT: Indexed plain vector scatter (R271) -/
  | vscat (d a b : Reg) (w : Bool) (k : KReg) (t : EType)
  /-- MSG_SEND: Sends a 64-byte message with header to a vtile's inbox (R273) -/
  | msgSend (a b : Reg) (w : Bool) (o : Ord) (sc : Scope)
  /-- MSG_RECV: Takes the oldest eligible inbox message, checking NM (R274) -/
  | msgRecv (d b : Reg) (o : Ord) (sc : Scope)
  /-- MSG_POLL: Reports presence, count and header of eligible messages (R275) -/
  | msgPoll (d : Reg)
  /-- MSG_CNT: Returns the count of eligible messages (R275) -/
  | msgCnt (d : Reg)
  /-- BAR_CFG: Changes the hart's membership of a barrier group from its next phase (R278) -/
  | barCfg (a : Reg) (w : Bool) (grp : BitVec 4)
  /-- BAR_ARR: Records an arrival for the next phase as a release (R277) -/
  | barArr (grp : BitVec 4)
  /-- BAR_WAIT: Blocks until the arrival's phase passes, then acquires (R277) -/
  | barWait (grp : BitVec 4)
  /-- BAR_TEST: Reports without blocking whether the arrival's phase has passed (R277) -/
  | barTest (d : Reg) (grp : BitVec 4)
  /-- BAR_SS: Waits for sent messages to be placed, then arrives and waits (R277) -/
  | barSs (grp : BitVec 4)
  /-- CP_COPY: Issues a copy command of words under a tag mode (R282) -/
  | cpCopy (d a b : Reg) (w : Bool) (c : Reg) (mode : BitVec 2) (sc : Scope)
  /-- CP_COPY2: Issues a descriptor copy: 2-D copy or image out or in (R283) -/
  | cpCopy2 (d a b : Reg) (w : Bool) (c : Reg) (mode : BitVec 2) (sc : Scope)
  /-- CP_FILLV: Issues a fill of destination words from a 64-byte pattern (R284) -/
  | cpFillv (d a b : Reg) (w : Bool) (c : Reg) (mode : BitVec 2) (sc : Scope)
  /-- CP_VERIFY: Issues a check of a state image's header and tag (R289) -/
  | cpVerify (d a b : Reg) (w : Bool) (c : Reg) (sc : Scope)
  /-- CP_WAIT: Waits for all earlier copy commands of the hart, then acquires (R290) -/
  | cpWait (sc : Scope)
  /-- MX_CTX: Sets the hart's matrix format context (R296) -/
  | mxCtx (a : Reg) (w : Bool)
  /-- MX_SYNC_BLOCKING: Waits for earlier matrix commands, acquires, and traps on a non-clear error record (R317) -/
  | mxSyncBlocking (sc : Scope)
  /-- MX_SYNC_WORD: Queues a command that fills a completion word once earlier commands complete (R317) -/
  | mxSyncWord (sc : Scope) (w : Bool) (c : Reg)
  /-- MX_OWN: Maps a free accumulator slot to a virtual name, or reports HELD or NONE (R299) -/
  | mxOwn (d : Reg) (n : KReg)
  /-- MX_FREE: Queues unmapping and zeroing of an accumulator slot (R300) -/
  | mxFree (n : KReg)
  /-- MX_PIN: Sets a slot PINNED (R300) -/
  | mxPin (n : KReg)
  /-- MX_UNPIN: Sets a PINNED slot back to OWNED (R300) -/
  | mxUnpin (n : KReg)
  /-- MX_BLD: Queues a load of operand B columns into a B-store granule, or releases a name (R304) -/
  | mxBld (d a b : Reg) (w : Bool)
  /-- MX_ZERO: Sets every element of a slot to +0 (R305) -/
  | mxZero (n : KReg)
  /-- MX_MAC: Queues a matrix multiply-accumulate into a slot (R307) -/
  | mxMac (d a b : Reg) (w : Bool) (n : KReg) (z : Bool)
  /-- MX_MACT: Queues a multiply-accumulate with transposed A (R307) -/
  | mxMact (d a b : Reg) (w : Bool) (n : KReg) (z : Bool)
  /-- MX_RD: Reads and converts a run of a slot row into a vector register (R308) -/
  | mxRd (d a : Reg) (w : Bool) (n : KReg) (hi : Bool)
  /-- MX_WR: Writes or adds vector elements into a slot row (R309) -/
  | mxWr (a b : Reg) (w : Bool) (n : KReg) (add : Bool)
  /-- MX_DELTA: Queues a delta-rule fast-weight update over a chunk of tokens (R311) -/
  | mxDelta (d a b : Reg) (w : Bool) (n : KReg) (bf r : Bool)
  /-- MX_QRY: Queues readout queries of a slot's state (R312) -/
  | mxQry (d a b : Reg) (w : Bool) (n : KReg) (bf : Bool)
  /-- MX_SPILL: Queues writing a slot as a version-1 state image (R315) -/
  | mxSpill (d a b : Reg) (w : Bool) (n : KReg)
  /-- MX_LOAD: Queues checking and committing a state image into a slot (R316) -/
  | mxLoad (d a b : Reg) (w : Bool) (n : KReg)
  /-- TRAP: Raises SYSCALL with a code (R323) -/
  | trap (code : BitVec 11)
  /-- TRET: Returns from a handler, reissuing a recorded access and resuming a repeat (R324) -/
  | tret
  /-- ESC: Passes the trap being handled to the supervisor handler (R325) -/
  | esc
  /-- SYR: Reads a system register (R326) -/
  | syr (d : Reg) (sy : BitVec 11)
  /-- SYW: Writes a system register (R326) -/
  | syw (a : Reg) (w : Bool) (sy : BitVec 11)
  /-- YIELD: Stops the hart if a pre-emption request is pending (R327) -/
  | yield
  /-- WFE: Sleeps until an event latch event or a cycle limit (R329) -/
  | wfe (a : Reg) (w : Bool)
  /-- HALT: Waits for outstanding work, frees owned slots and halts the hart (R328) -/
  | halt
  /-- TLB_INV: Invalidates TLB and walk-cache entries locally or tableau-wide (R330) -/
  | tlbInv (a : Reg) (w : Bool)
  /-- IC_INV: Invalidates decoded-op cache entries locally or tableau-wide (R330) -/
  | icInv (a : Reg) (w : Bool)
  /-- DC_WB: Waits until the hart's buffered stores have reached their homes (R330) -/
  | dcWb (a : Reg) (w : Bool)
  /-- DC_INV: Drains and then drops L1 lines (R330) -/
  | dcInv (a : Reg) (w : Bool)
  /-- BRK: Raises BREAK with a code (R323) -/
  | brk (code : BitVec 11)
  /-- RPT: Checks and repeats a captured body with strided register fields (R218) -/
  | rpt (n1 : BitVec 4) (count : BitVec 8) (sd sa sb : BitVec 2)
  /-- TLB_INV_REMOTE: A tile takes a tableau-wide invalidation on VC3 and acknowledges it (R331) -/
  | tlbInvRemote (op : Nat)
  /-- VECTOR_ISSUE: The vector unit picks a hart by deficit counters and issues one operation (R154) -/
  | vectorIssue (t : TileId)
  /-- STEP: A STEP trap is taken at the boundary after a single-stepped instruction (R364) -/
  | step (h : HartId)
  /-- EMPTY_WAIT: The hart takes EMPTY_WAIT for an exhausted full/empty access (R66) -/
  | emptyWait (h : HartId)
  /-- MSG_LIMIT: The sender takes MSG_LIMIT after a refused message (R171) -/
  | msgLimit (h : HartId)
  /-- INTERRUPT: A pending interrupt is taken at an instruction boundary (R362) -/
  | interrupt (h : HartId)
  /-- WFE_TIMEOUT: A sleeping hart's WFE limit expires and it resumes (R329) -/
  | wfeTimeout (h : HartId)
  /-- ASYNC_REGISTER_WRITE: A load, AMO, SHIP or message value arrives and fills its register, or delivers POISON (R77) -/
  | asyncRegisterWrite (op : Nat)
  /-- SLICE_BANK_ACCESS: A slice bank serves one request with its tag action under the state table (R88) -/
  | sliceBankAccess (op part : Nat)
  /-- CHANDLER_ACCESS: A chandler performs an access, atomic or routine on an HBM or loft word (R104) -/
  | chandlerAccess (op part : Nat)
  /-- HOST_PORT_ACCESS: A host port performs a read, posted write or AtomicOp on host memory (R106) -/
  | hostPortAccess (op part : Nat)
  /-- HOME_RETRY_ATTEMPT: A home retries a waiting, taking or filling access on its schedule (R62) -/
  | homeRetryAttempt (op : Nat)
  /-- STORE_ACK: A home or port acknowledges a store to its NI (R428) -/
  | storeAck (op : Nat)
  /-- WRITE_BUFFER_DRAIN: The write-through buffer sends its oldest line to its home (R147) -/
  | writeBufferDrain (t : TileId)
  /-- L1_LINE_FILL: A line read from its home is filled into the L1 with its tags (R92) -/
  | l1LineFill (op part : Nat)
  /-- L1_LINE_EXPIRY: An L1 line is dropped 65,536 cycles after its fill (R147) -/
  | l1LineExpiry (t : TileId) (line : Nat)
  /-- SEQUENTIAL_PREFETCH: A hart prefetches the next code line within its limits (R50) -/
  | sequentialPrefetch (h : HartId)
  /-- PAGE_WALK_READ: A page-table read returns and the walk continues, completes or faults (R33) -/
  | pageWalkRead (t : TileId) (walk : Nat)
  /-- TILE_MAP_READ: A tile-map entry read returns and the access is routed by its state (R20) -/
  | tileMapRead (t : TileId) (vt : BitVec 20)
  /-- TILE_MAP_REREAD: A holding NI re-reads a SETTLING or FRESH entry every 1,024 cycles and releases held accesses on change (R22) -/
  | tileMapReread (t : TileId) (vt : BitVec 20)
  /-- STALE_REPLY: A sender receives STALE, drops its cached entry and re-reads the map (R24) -/
  | staleReply (op part : Nat)
  /-- DPIT_ANCHOR_LOOKUP: The anchor stack looks up a DPIT entry and forwards the access (R36) -/
  | dpitAnchorLookup (op part : Nat)
  /-- REROUTE: An NI receives REROUTE and re-sends the access through the anchor (R36) -/
  | reroute (op part : Nat)
  /-- PARK_LINK: A bucket home links or relinks a park record in SEQ order (R68) -/
  | parkLink (op : Nat)
  /-- WAKE: A bucket home performs a wake, choosing records and sending wakes or carrier entries (R74) -/
  | wake (op : Nat)
  /-- WAKE_DELIVERY: A wake reaches a parked hart or sets WOKEN (R73) -/
  | wakeDelivery (op : Nat)
  /-- WOKEN_REATTEMPT: A woken access re-executes once at its home and completes or relinks (R72) -/
  | wokenReattempt (h : HartId)
  /-- FILL_WAIT_RETRY: A filling PARK that found the fill-wait table full retries after CAP cycles (R72) -/
  | fillWaitRetry (h : HartId)
  /-- MESSAGE_ARRIVAL: A message reaches the target NI and is placed in an entry or the backlog (R169) -/
  | messageArrival (op : Nat)
  /-- BACKLOG_APPEND: The carrier queue's home appends a message to a backlog or refuses it (R170) -/
  | backlogAppend (op : Nat)
  /-- MESSAGE_ACK: A placement acknowledgement reaches the sender on VC1 (R170) -/
  | messageAck (op : Nat)
  /-- BACKLOG_MOVE: The NI moves the oldest backlog message into a freed entry (R168) -/
  | backlogMove (t : TileId)
  /-- PHASE_PASS: A wired barrier tree releases a phase after the last arrival (R180) -/
  | phasePass (tab : BitVec 16) (grp : BitVec 4)
  /-- EXTENDED_ARRIVAL: An arrival is performed as an atomic on an extended group's record (R181) -/
  | extendedArrival (h : HartId) (grp : BitVec 4)
  /-- EXTENDED_RELEASE: The release of an extended phase reaches a member (R182) -/
  | extendedRelease (h : HartId) (grp : BitVec 4)
  /-- COPY_COMMAND_START: The copy engine starts a command in issue order (R280) -/
  | copyCommandStart (t : TileId)
  /-- COPY_LINE: The copy engine performs the words of one line under its tag mode (R282) -/
  | copyLine (op : Nat)
  /-- MX_COMMAND_START: An engine lane picks a command by weighted deficit and starts it (R294) -/
  | mxCommandStart (cluster : Nat) (lane : BitVec 2)
  /-- MX_MAC_GROUP: The array adds one group of 32 K-elements into the slot (R307) -/
  | mxMacGroup (op : Nat)
  /-- MX_DELTA_TOKEN: The engine updates the state for one token and writes its readout (R311) -/
  | mxDeltaToken (op : Nat)
  /-- MX_QRY_QUERY: The engine computes and writes one query readout (R312) -/
  | mxQryQuery (op : Nat)
  /-- MX_BLD_COLUMN: The B lane reads and writes one column into the granule (R304) -/
  | mxBldColumn (op : Nat)
  /-- MX_SPILL_UNIT: The engine writes one 64-byte unit of a state image (R315) -/
  | mxSpillUnit (op : Nat)
  /-- MX_LOAD_COMMIT: A checked image is committed into the slot (R316) -/
  | mxLoadCommit (op : Nat)
  /-- SLOT_ZERO_DONE: A slot's zeroing ends and it becomes FREE (R300) -/
  | slotZeroDone (cluster slot : Nat)
  /-- MX_SYNC_FILL: A word-form sync completes and fills its word with the error record (R317) -/
  | mxSyncFill (op : Nat)
  /-- OSTLER_PASS: The ostler runs a placing pass over runnable and running gangs (R349) -/
  | ostlerPass
  /-- PASS_TIMER: The 4,000-cycle timer forces an ostler pass (R349) -/
  | passTimer
  /-- SLICE_EXPIRY: A running gang's time slice expires (R353) -/
  | sliceExpiry (gg : GangId)
  /-- LOFT_SLOT_CLEAR: A chandler finishes clearing a new loft slot and the entry is rewritten (R423) -/
  | loftSlotClear (t : TileId)
  /-- PREEMPT_REQUEST: A stop request arrives on VC3 and sets SY.PREQ; blocked harts stop (R367) -/
  | preemptRequest (gg : GangId)
  /-- FORCED_STOP: At DEADLINE every hart not yet stopped is halted (R367) -/
  | forcedStop (gg : GangId)
  /-- SWAP_OUT: Once every hart is halted, freeze, drain, copy, save engines and commit to shadow (R373) -/
  | swapOut (gg : GangId) (perform : Bool)
  /-- LOFT_WRITEBACK: Shadow tile slots are written to the loft and entries become ABSENT (R375) -/
  | loftWriteback (gg : GangId)
  /-- GRANULE_WRITEBACK: A B-store granule is written to a loft frame and freed (R375) -/
  | granuleWriteback (t : TileId) (name : BitVec 6)
  /-- SWAP_IN: A gang's context is restored onto its rectangle and committed RESIDENT (R376) -/
  | swapIn (gg : GangId)
  /-- GRANULE_RESTORE: A granule returns from the loft to the cluster in the background (R376) -/
  | granuleRestore (t : TileId) (name : BitVec 6)
  /-- LAUNCH_ENTRY_READ: The front end reads and checks a ring entry after its doorbell (R338) -/
  | launchEntryRead (q : BitVec 12)
  /-- HEADER_FETCH: A kernel header missing from the header cache is read (R343) -/
  | headerFetch (q : BitVec 12)
  /-- LAUNCH_DISPATCH: The front end sends launch records to every started hart of the targets (R339) -/
  | launchDispatch (q : BitVec 12)
  /-- LAUNCH_DONE: A finished launch gets its completion fill, DONE count and MSI-X (R342) -/
  | launchDone (q : BitVec 12) (launch : Nat)
  /-- GATE_READ: The front end attempts to read a queue's gate word (R400) -/
  | gateRead (q : BitVec 12)
  /-- FRONT_END_WAKE: A wake for a queue's park record re-attempts the gate read (R400) -/
  | frontEndWake (q : BitVec 12)
  /-- QTAIL_WRITE: A write of QTAIL rings the doorbell or sets OVF (R334) -/
  | qtailWrite (q : BitVec 12) (half : Half) (x : Word)
  /-- QSTAT_WRITE: A write of QSTAT clears its W1C bits (R334) -/
  | qstatWrite (q : BitVec 12) (half : Half) (x : Word)
  /-- QCANCEL_WRITE: A cancel request sets RESULT and may cancel a pending launch (R345) -/
  | qcancelWrite (q : BitVec 12) (half : Half) (x : Word)
  /-- TBL_KILL: Kills a tableau: stops its gangs, kills its launches and tears it down (R346) -/
  | tblKill (tab : BitVec 16)
  /-- POWER_MODE_CHANGE: The new power mode takes effect and slices are raised to the new minimum (R408) -/
  | powerModeChange
  /-- MIGRATE_FREEZE: A deferred migration retries its freeze at a fill of the gate word (R409) -/
  | migrateFreeze (q : BitVec 12)
  /-- FW_CALL_STATUS: Firmware finishes a call and writes its status word last (R398) -/
  | fwCallStatus (c : Caller)
  /-- PAGE_MIGRATION: A page is copied, held, committed at the anchor and freed (R42) -/
  | pageMigration (page : Nat)
  /-- PEER_PIECE_RESEND: A peer-copy piece lost to a link failure is re-sent on another plane (R403) -/
  | peerPieceResend (op : Nat) (plane : Option Nat)
  /-- LEASE_RENEW: The head factor renews its lease (R406) -/
  | leaseRenew
  /-- LEASE_LAPSE: A lapsed lease passes to the lowest-numbered live factor (R406) -/
  | leaseLapse
  /-- UNALLOCATED_ENCODING: A fetched word whose major, func or sub-opcode is unallocated raises ILLEGAL with no effect (R209) -/
  | unallocatedEncoding (reason : BitVec 8)
  /-- INSTRUCTION_FETCH_FAULT: A demand fetch of the next instruction faults with PAGE_FAULT or PROTECTION before any instruction is decoded (R12) -/
  | instructionFetchFault (cause reason : BitVec 8) (va : Word)
  /-- MIGRATE_DEADLINE: A deferred migration reaches its deadline with the gate word not FULL and moves the entries to a newly gated queue (R409) -/
  | migrateDeadline (q : BitVec 12)
  /-- LEASE_RENEWAL_TIMEOUT: A head factor that has gone 9 ms without renewal stops every decision (R406) -/
  | leaseRenewalTimeout
  /-- MEM_ALLOC: Allocates a zeroed FULL run of DPA pages (R399) -/
  | memAlloc (c : Caller) (count : Nat)
  /-- MEM_FREE: Frees DPA pages (R399) -/
  | memFree (c : Caller) (page count : Nat)
  /-- MEM_PIN: Sets PIN and export for DPA pages (R399) -/
  | memPin (c : Caller) (page count : Nat) (pin exported : Bool)
  /-- ROUTINE_LOAD: Checks and loads the chandler routine table (R118) -/
  | routineLoad (c : Caller) (addr : Word)
  /-- KEY_LOAD: Unwraps and loads an image key entry (R402) -/
  | keyLoad (c : Caller) (tab : BitVec 16) (entry : BitVec 4) (session : Nat) (wrapped : List Byte)
  /-- ERR_RING: Configures the error ring (R399) -/
  | errRing (c : Caller) (base : Word) (count vector : Nat)
  /-- XLATE_REG: Registers a translated header and releases waiting launches (R392) -/
  | xlateReg (c : Caller) (tab : BitVec 16) (digest : List Byte) (header : Word)
  /-- PEER_SET: Sets or invalidates a peer-table entry (R399) -/
  | peerSet (c : Caller) (tab : BitVec 16) (index port : Nat) (partner : BitVec 16)
  /-- TBL_CREATE: Creates a tableau and returns its identifier (R399) -/
  | tblCreate (c : Caller) (args : TblArgs)
  /-- QUEUE_ASSIGN: Assigns a queue to a port function (R399) -/
  | queueAssign (c : Caller) (q : BitVec 12) (port : BitVec 2) (vf : BitVec 8)
  /-- QUEUE_GATE: Sets or clears a queue's gate word (R400) -/
  | queueGate (c : Caller) (q : BitVec 12) (va : Word)
  /-- MIGRATE: Moves a queue with its entries and gate to another queue (R409) -/
  | migrate (c : Caller) (src dst : BitVec 12) (wafer : Nat) (newGate : Word) (deadline : Nat)
  /-- STORE_READ: Starts a flash read into HBM (R401) -/
  | storeRead (c : Caller) (args : StoreArgs)
  /-- STORE_WRITE: Starts a flash write from memory (R401) -/
  | storeWrite (c : Caller) (args : StoreArgs)
  /-- STORE_TRANSFER_DONE: A storage transfer ends, optionally verifies, and fills its status (R401) -/
  | storeTransferDone (c : Caller) (data : List Byte) (badLba : Option Nat)
  /-- POST_IRQ: Posts an interrupt to a hart of a tableau (R362) -/
  | postIrq (c : Caller) (tab : BitVec 16) (vt : Nat) (hart : Nat) (source : BitVec 16)
  /-- HOST_MEMORY_READ: A host reads device memory as a plain read (R396) -/
  | hostMemoryRead (port : BitVec 2) (dpa : BitVec 42) (len : Nat)
  /-- HOST_MEMORY_WRITE: A host writes device memory as a plain write (R396) -/
  | hostMemoryWrite (port : BitVec 2) (dpa : BitVec 42) (bytes : List Byte)
  /-- DROVER_PERIOD_END: A tracking period ends and the drover chooses pages to migrate (R41) -/
  | droverPeriodEnd (moves : List (Nat × Nat))
  /-- SCRUB_LINE: The patrol scrubber reads and repairs or poisons one line (R90) -/
  | scrubLine (line : Nat) (bad : List Nat)
  /-- DUTY_CHANGE: A field's factor changes the duty D of its tiles (R183) -/
  | dutyChange (field : Nat) (duties : List Nat)
  /-- COLD_START: The part runs all start steps from verification to port enable (R404) -/
  | coldStart (assayerOk factorOk : Bool) (defects : DefectMap) (setup : Setup)
  /-- WARM_START: The part starts, skipping the steps its conditions allow (R404) -/
  | warmStart (assayerOk factorOk hbmNear mapOk : Bool) (defects : DefectMap) (setup : Setup)
  /-- RECOVERY_IMAGE: The host supplies a factor image through the recovery function (R407) -/
  | recoveryImage (port : BitVec 2) (verified complete : Bool)
  /-- SHARE_SHRINK: System software shrinks a tableau's granted share, so the next ostler pass stops gangs outside it (R426) -/
  | shareShrink (tab : BitVec 16) (share : List Rect)
  /-- TRANSLATION_DECLINED: System software declines an EVI translation, and the pending launch ends with BADHEADER (R392) -/
  | translationDeclined (tab : BitVec 16) (digest : List Byte)
  /-- TDISP_REQUEST: A host TDISP message moves a TDI between CONFIG_UNLOCKED and CONFIG_LOCKED (R397) -/
  | tdispRequest (port : BitVec 2) (vf : BitVec 8) (lock : Bool)
  /-- SPDM_REQUEST: A host SPDM 1.3 request for measurements or a secure session is answered by the assayer (R405) -/
  | spdmRequest (port : BitVec 2) (index : Nat)
  /-- TILEMAP_ENTRY_REWRITE: Firmware rewrites a tile-map entry that held an uncorrectable error, letting the held access proceed (R22) -/
  | tilemapEntryRewrite (t : TileId)
  /-- PWR_MODE_WRITE: Selects a power mode (R408) -/
  | pwrModeWrite (half : Half) (x : Word)
  /-- MACHINE_CHECK: An internal error halts the tile's harts and the tableau is killed (R384) -/
  | machineCheck (h : HartId)
  /-- HARDWARE_PREFETCH: The L1 prefetcher fetches a line of a detected stream (R52) -/
  | hardwarePrefetch (h : HartId) (va : Word)
  /-- DEVICE_REGISTER_WRITE: A write to a device register with no behaviour of its own sets its fields (R48) -/
  | deviceRegisterWrite (c : Caller) (off : Word) (half : Half) (x : Word)
  /-- QCFG_WRITE: A queue configuration write reloads the record and checks the mirrors (R336) -/
  | qcfgWrite (q : BitVec 12) (reg : BitVec 2) (half : Half) (x : Word)
deriving DecidableEq, Repr

end Sys2Proof
end

