-- ==== Sys2Proof/WellFormed.lean ====
section
/-!
DEFINITION. Which instruction terms are encodings: the qualifier pairs of R131 and R240, the element types of R260,
the destination formats of R264, and the other field rules of R208, R209 and R284. A term of a step that has no
encoding is not well-formed.
-/

namespace Sys2Proof

/-- Orderings a plain load and MSG.RECV accept: none and .acq (R131, R240). -/
def Ord.loadOk : Ord → Bool
  | .none | .acq => true
  | _ => false

/-- Orderings a plain store, ST.EMPTY and MSG.SEND accept: none and .rel (R131, R240). -/
def Ord.storeOk : Ord → Bool
  | .none | .rel => true
  | _ => false

/-- Orderings LD.WAIT, LD.TAKE and VLD.TAKE accept (R131, R240). -/
def Ord.takeOk : Ord → Bool
  | .rel => false
  | _ => true

/-- Orderings ST.FILL and VST.FILL accept (R131, R240). -/
def Ord.fillOk : Ord → Bool
  | .acq => false
  | _ => true

/-- Integer element types (R208, R260). -/
def EType.isInt : EType → Bool
  | .si8 | .ui8 | .si16 | .si32 | .si64 => true
  | _ => false

/-- Types of the transcendentals (R260). -/
def EType.isTrans : EType → Bool
  | .f16 | .bf16 | .f32 => true
  | _ => false

/-- Types of VGATH and VSCAT (R260). -/
def EType.isGather : EType → Bool
  | .si32 | .f32 | .si64 | .f64 => true
  | _ => false

/-- Destination formats VCVT accepts: every code of R186 but the block codes (R264). -/
def cvtOk (fmt : BitVec 5) : Bool := 0x0E ≤ fmt.toNat && fmt.toNat ≤ 0x1B

/-- SHIP has no .h form (R206, R253). -/
def Scope.shipOk : Scope → Bool
  | .h => false
  | _ => true

/-- The forms that have an encoding: the first 161 rows of the table. -/
def Instr.encoded : Instr → Bool
  | .add _ _ _ _ => true
  | .sub _ _ _ _ => true
  | .and _ _ _ _ => true
  | .or _ _ _ _ => true
  | .xor _ _ _ _ => true
  | .andn _ _ _ _ => true
  | .shl _ _ _ _ => true
  | .shr _ _ _ _ => true
  | .sar _ _ _ _ => true
  | .mul _ _ _ _ => true
  | .mulhi _ _ _ _ => true
  | .mulhis _ _ _ _ => true
  | .div _ _ _ _ => true
  | .divs _ _ _ _ => true
  | .rem _ _ _ _ => true
  | .rems _ _ _ _ => true
  | .min _ _ _ _ => true
  | .mins _ _ _ _ => true
  | .max _ _ _ _ => true
  | .maxs _ _ _ _ => true
  | .cmpeq _ _ _ _ => true
  | .cmplt _ _ _ _ => true
  | .cmplts _ _ _ _ => true
  | .sel _ _ _ _ => true
  | .clz _ _ _ => true
  | .ctz _ _ _ => true
  | .popc _ _ _ => true
  | .bswap _ _ _ => true
  | .addi _ _ _ _ => true
  | .andi _ _ _ _ => true
  | .ori _ _ _ _ => true
  | .xori _ _ _ _ => true
  | .shli _ _ _ _ => true
  | .shri _ _ _ _ => true
  | .sari _ _ _ _ => true
  | .cmplti _ _ _ _ => true
  | .lih _ _ => true
  | .addpc _ _ => true
  | .ext _ _ _ _ _ => true
  | .ins _ _ _ _ _ => true
  | .beq _ _ _ _ => true
  | .bne _ _ _ _ => true
  | .blt _ _ _ _ => true
  | .bge _ _ _ _ => true
  | .blts _ _ _ _ => true
  | .bges _ _ _ _ => true
  | .jmp _ => true
  | .call _ => true
  | .jr _ _ => true
  | .callr _ _ => true
  | .ret => true
  | .ld _ _ _ _ _ _ _ => true
  | .lds _ _ _ _ _ _ _ => true
  | .st _ _ _ _ _ _ _ => true
  | .ldWait _ _ _ _ _ _ => true
  | .ldTake _ _ _ _ _ _ => true
  | .stFill _ _ _ _ _ _ => true
  | .stEmpty _ _ _ _ _ _ => true
  | .tagGet _ _ _ _ => true
  | .tagSet _ _ _ _ => true
  | .park => true
  | .pref _ _ _ => true
  | .amoAdd _ _ _ _ _ _ _ => true
  | .amoFadd _ _ _ _ _ _ _ => true
  | .amoAnd _ _ _ _ _ _ _ => true
  | .amoOr _ _ _ _ _ _ _ => true
  | .amoXor _ _ _ _ _ _ _ => true
  | .amoMin _ _ _ _ _ _ _ => true
  | .amoMins _ _ _ _ _ _ _ => true
  | .amoMax _ _ _ _ _ _ _ => true
  | .amoMaxs _ _ _ _ _ _ _ => true
  | .amoFmax _ _ _ _ _ _ _ => true
  | .amoSwap _ _ _ _ _ _ _ => true
  | .amoCas _ _ _ _ _ _ _ => true
  | .ship _ _ _ _ _ _ _ => true
  | .fence _ _ => true
  | .vadd _ _ _ _ _ _ => true
  | .vsub _ _ _ _ _ _ => true
  | .vmul _ _ _ _ _ _ => true
  | .vmin _ _ _ _ _ _ => true
  | .vmax _ _ _ _ _ _ => true
  | .vabs _ _ _ _ _ => true
  | .vneg _ _ _ _ _ => true
  | .vfma _ _ _ _ _ _ => true
  | .vand _ _ _ _ _ _ => true
  | .vor _ _ _ _ _ _ => true
  | .vxor _ _ _ _ _ _ => true
  | .vshl _ _ _ _ _ _ => true
  | .vshr _ _ _ _ _ _ => true
  | .vsar _ _ _ _ _ _ => true
  | .vcmp _ _ _ _ _ _ _ => true
  | .vsel _ _ _ _ _ _ => true
  | .vbcast _ _ _ _ _ => true
  | .vmovg _ _ _ _ _ => true
  | .vperm _ _ _ _ _ _ => true
  | .vcvt _ _ _ _ _ _ _ => true
  | .vred _ _ _ _ _ _ => true
  | .vexp2 _ _ _ _ _ => true
  | .vrcp _ _ _ _ _ => true
  | .vrsq _ _ _ _ _ => true
  | .vsig _ _ _ _ _ => true
  | .vrand _ _ _ _ => true
  | .kopAnd _ _ _ => true
  | .kopOr _ _ _ => true
  | .kopXor _ _ _ => true
  | .kopAndn _ _ _ => true
  | .kopNot _ _ => true
  | .kopFromg _ _ => true
  | .kopTog _ _ => true
  | .vld _ _ _ _ _ _ _ _ => true
  | .vst _ _ _ _ _ _ _ _ => true
  | .vldTake _ _ _ _ _ _ => true
  | .vstFill _ _ _ _ _ _ => true
  | .vlds _ _ _ _ _ _ => true
  | .vgath _ _ _ _ _ _ => true
  | .vscat _ _ _ _ _ _ => true
  | .msgSend _ _ _ _ _ => true
  | .msgRecv _ _ _ _ => true
  | .msgPoll _ => true
  | .msgCnt _ => true
  | .barCfg _ _ _ => true
  | .barArr _ => true
  | .barWait _ => true
  | .barTest _ _ => true
  | .barSs _ => true
  | .cpCopy _ _ _ _ _ _ _ => true
  | .cpCopy2 _ _ _ _ _ _ _ => true
  | .cpFillv _ _ _ _ _ _ _ => true
  | .cpVerify _ _ _ _ _ _ => true
  | .cpWait _ => true
  | .mxCtx _ _ => true
  | .mxSyncBlocking _ => true
  | .mxSyncWord _ _ _ => true
  | .mxOwn _ _ => true
  | .mxFree _ => true
  | .mxPin _ => true
  | .mxUnpin _ => true
  | .mxBld _ _ _ _ => true
  | .mxZero _ => true
  | .mxMac _ _ _ _ _ _ => true
  | .mxMact _ _ _ _ _ _ => true
  | .mxRd _ _ _ _ _ => true
  | .mxWr _ _ _ _ _ => true
  | .mxDelta _ _ _ _ _ _ _ => true
  | .mxQry _ _ _ _ _ _ => true
  | .mxSpill _ _ _ _ _ => true
  | .mxLoad _ _ _ _ _ => true
  | .trap _ => true
  | .tret => true
  | .esc => true
  | .syr _ _ => true
  | .syw _ _ _ => true
  | .yield => true
  | .wfe _ _ => true
  | .halt => true
  | .tlbInv _ _ => true
  | .icInv _ _ => true
  | .dcWb _ _ => true
  | .dcInv _ _ => true
  | .brk _ => true
  | .rpt _ _ _ _ _ => true
  | .tlbInvRemote _ => false
  | .vectorIssue _ => false
  | .step _ => false
  | .emptyWait _ => false
  | .msgLimit _ => false
  | .interrupt _ => false
  | .wfeTimeout _ => false
  | .asyncRegisterWrite _ => false
  | .sliceBankAccess _ _ => false
  | .chandlerAccess _ _ => false
  | .hostPortAccess _ _ => false
  | .homeRetryAttempt _ => false
  | .storeAck _ => false
  | .writeBufferDrain _ => false
  | .l1LineFill _ _ => false
  | .l1LineExpiry _ _ => false
  | .sequentialPrefetch _ => false
  | .hardwarePrefetch _ _ => false
  | .pageWalkRead _ _ => false
  | .tileMapRead _ _ => false
  | .tileMapReread _ _ => false
  | .staleReply _ _ => false
  | .dpitAnchorLookup _ _ => false
  | .reroute _ _ => false
  | .parkLink _ => false
  | .wake _ => false
  | .wakeDelivery _ => false
  | .wokenReattempt _ => false
  | .fillWaitRetry _ => false
  | .messageArrival _ => false
  | .backlogAppend _ => false
  | .messageAck _ => false
  | .backlogMove _ => false
  | .phasePass _ _ => false
  | .extendedArrival _ _ => false
  | .extendedRelease _ _ => false
  | .copyCommandStart _ => false
  | .copyLine _ => false
  | .mxCommandStart _ _ => false
  | .mxMacGroup _ => false
  | .mxDeltaToken _ => false
  | .mxQryQuery _ => false
  | .mxBldColumn _ => false
  | .mxSpillUnit _ => false
  | .mxLoadCommit _ => false
  | .slotZeroDone _ _ => false
  | .mxSyncFill _ => false
  | .ostlerPass => false
  | .passTimer => false
  | .sliceExpiry _ => false
  | .loftSlotClear _ => false
  | .preemptRequest _ => false
  | .forcedStop _ => false
  | .swapOut _ _ => false
  | .loftWriteback _ => false
  | .granuleWriteback _ _ => false
  | .swapIn _ => false
  | .granuleRestore _ _ => false
  | .launchEntryRead _ => false
  | .headerFetch _ => false
  | .launchDispatch _ => false
  | .launchDone _ _ => false
  | .gateRead _ => false
  | .frontEndWake _ => false
  | .deviceRegisterWrite _ _ _ _ => false
  | .qtailWrite _ _ _ => false
  | .qstatWrite _ _ _ => false
  | .qcancelWrite _ _ _ => false
  | .qcfgWrite _ _ _ _ => false
  | .tblKill _ => false
  | .pwrModeWrite _ _ => false
  | .powerModeChange => false
  | .memAlloc _ _ => false
  | .memFree _ _ _ => false
  | .memPin _ _ _ _ _ => false
  | .routineLoad _ _ => false
  | .keyLoad _ _ _ _ _ => false
  | .errRing _ _ _ _ => false
  | .xlateReg _ _ _ _ => false
  | .peerSet _ _ _ _ _ => false
  | .tblCreate _ _ => false
  | .queueAssign _ _ _ _ => false
  | .queueGate _ _ _ => false
  | .migrate _ _ _ _ _ _ => false
  | .migrateFreeze _ => false
  | .storeRead _ _ => false
  | .storeWrite _ _ => false
  | .storeTransferDone _ _ _ => false
  | .postIrq _ _ _ _ _ => false
  | .fwCallStatus _ => false
  | .hostMemoryRead _ _ _ => false
  | .hostMemoryWrite _ _ _ => false
  | .droverPeriodEnd _ => false
  | .pageMigration _ => false
  | .scrubLine _ _ => false
  | .dutyChange _ _ => false
  | .peerPieceResend _ _ => false
  | .leaseRenew => false
  | .leaseLapse => false
  | .coldStart _ _ _ _ => false
  | .warmStart _ _ _ _ _ _ => false
  | .recoveryImage _ _ _ => false
  | .machineCheck _ => false
  | .unallocatedEncoding _ => false
  | .instructionFetchFault _ _ _ => false
  | .migrateDeadline _ => false
  | .leaseRenewalTimeout => false
  | .shareShrink _ _ => false
  | .translationDeclined _ _ => false
  | .tilemapEntryRewrite _ => false
  | .tdispRequest _ _ _ => false
  | .spdmRequest _ _ => false

/-- The field rules of the encoded forms. -/
def Instr.fieldsOk : Instr → Bool
  | .ld _ _ _ _ _ o _ => o.loadOk
  | .lds _ _ _ sz _ o _ => o == .none && sz != .d
  | .st _ _ _ _ _ o _ => o.storeOk
  | .ldWait _ _ _ _ o _ => o.takeOk
  | .ldTake _ _ _ _ o _ => o.takeOk
  | .stFill _ _ _ _ o _ => o.fillOk
  | .stEmpty _ _ _ _ o _ => o.storeOk
  | .ship _ _ _ _ _ sc _ => sc.shipOk
  | .vand _ _ _ _ _ t => t.isInt
  | .vor _ _ _ _ _ t => t.isInt
  | .vxor _ _ _ _ _ t => t.isInt
  | .vshl _ _ _ _ _ t => t.isInt
  | .vshr _ _ _ _ _ t => t.isInt
  | .vsar _ _ _ _ _ t => t.isInt
  | .vsel _ _ _ _ k _ => k != 0
  | .vcvt _ _ f _ _ _ _ => cvtOk f
  | .vexp2 _ _ _ _ t => t.isTrans
  | .vrcp _ _ _ _ t => t.isTrans
  | .vrsq _ _ _ _ t => t.isTrans
  | .vsig _ _ _ _ t => t.isTrans
  | .vld _ _ _ _ _ o _ _ => o.loadOk
  | .vst _ _ _ _ _ o _ _ => o.storeOk
  | .vldTake _ _ _ _ o _ => o.takeOk
  | .vstFill _ _ _ _ o _ => o.fillOk
  | .vgath _ _ _ _ _ t => t.isGather
  | .vscat _ _ _ _ _ t => t.isGather
  | .msgSend _ _ _ o _ => o.storeOk
  | .msgRecv _ _ o _ => o.loadOk
  | .cpFillv _ _ _ _ _ m _ => m == 0 || m == 3
  | _ => true

/-- A well-formed instruction: an encoded form whose fields are accepted. -/
def Instr.wf (i : Instr) : Bool := i.encoded && i.fieldsOk

end Sys2Proof
end

