-- ==== Sys2Proof/Decode.lean ====
section
/-!
DEFINITION. The decoder of R205-R209 and R260-R284, and the encoder written from the same tables.
`parse` reads the fields of a word under the opcode map (R208); what it cannot read raises ILLEGAL with reason 0x20.
A word it reads whose qualifiers, type, format or tag mode the form does not accept (`Instr.fieldsOk`) raises 0x21.
-/

set_option linter.constructorNameAsVariable false

namespace Sys2Proof

/-- The reasons of an ILLEGAL raised by decoding (R209, R356): 0x20 ENCODING and 0x21 QUALIFIER. -/
inductive Illegal where
  | encoding
  | qualifier
deriving DecidableEq, Repr

/-- The code of SY.EINFO[7:0] for an ILLEGAL (R209). -/
def Illegal.code : Illegal → BitVec 8
  | .encoding => 0x20
  | .qualifier => 0x21

/-- Bits [lo + len - 1 : lo] of a word. -/
abbrev fld (lo len : Nat) (w : IWord) : BitVec len := w.extractLsb' lo len

/-- One bit of a word. -/
abbrev flag (i : Nat) (w : IWord) : Bool := w.getLsbD i

/-! The codes of R206. -/

def Scope.code : Scope → BitVec 3
  | .h => 0 | .t => 1 | .c => 2 | .w => 3 | .s => 4

def Scope.ofCode (c : BitVec 3) : Option Scope :=
  match c.toNat with
  | 0 => some .h | 1 => some .t | 2 => some .c | 3 => some .w | 4 => some .s
  | _ => none

/-- The two-bit scope code of SHIP (R206). -/
def Scope.shipCode : Scope → BitVec 2
  | .h => 0 | .t => 0 | .c => 1 | .w => 2 | .s => 3

def Scope.ofShipCode (c : BitVec 2) : Scope :=
  match c.toNat with
  | 0 => .t | 1 => .c | 2 => .w | _ => .s

def Ord.code : Ord → BitVec 2
  | .none => 0 | .acq => 1 | .rel => 2 | .ar => 3

def Ord.ofCode (c : BitVec 2) : Ord :=
  match c.toNat with
  | 0 => .none | 1 => .acq | 2 => .rel | _ => .ar

def Size.code : Size → BitVec 2
  | .b => 0 | .h => 1 | .w => 2 | .d => 3

def Size.ofCode (c : BitVec 2) : Size :=
  match c.toNat with
  | 0 => .b | 1 => .h | 2 => .w | _ => .d

def EType.code : EType → BitVec 4
  | .si8 => 0 | .ui8 => 1 | .si16 => 2 | .si32 => 3 | .si64 => 4 | .f16 => 5 | .bf16 => 6 | .f32 => 7 | .f64 => 8

def EType.ofCode (c : BitVec 4) : Option EType :=
  match c.toNat with
  | 0 => some .si8 | 1 => some .ui8 | 2 => some .si16 | 3 => some .si32 | 4 => some .si64
  | 5 => some .f16 | 6 => some .bf16 | 7 => some .f32 | 8 => some .f64
  | _ => none

def FenceKind.code : FenceKind → BitVec 2
  | .acq => 0 | .rel => 1 | .ar => 2 | .sc => 3

def FenceKind.ofCode (c : BitVec 2) : FenceKind :=
  match c.toNat with
  | 0 => .acq | 1 => .rel | 2 => .ar | _ => .sc

def Cond.code : Cond → BitVec 3
  | .eq => 0 | .ne => 1 | .lt => 2 | .le => 3 | .gt => 4 | .ge => 5

def Cond.ofCode (c : BitVec 3) : Option Cond :=
  match c.toNat with
  | 0 => some .eq | 1 => some .ne | 2 => some .lt | 3 => some .le | 4 => some .gt | 5 => some .ge
  | _ => none

def RedOp.code : RedOp → BitVec 3
  | .add => 0 | .min => 1 | .max => 2

def RedOp.ofCode (c : BitVec 3) : Option RedOp :=
  match c.toNat with
  | 0 => some .add | 1 => some .min | 2 => some .max
  | _ => none

/-! The field positions of R205. `d`, `a`, `b` are [25:21], [20:16], [15:11]; `c` of format E is [9:5]. -/

abbrev fMajor (w : IWord) : BitVec 6 := fld 26 6 w
abbrev fD (w : IWord) : Reg := fld 21 5 w
abbrev fA (w : IWord) : Reg := fld 16 5 w
abbrev fB (w : IWord) : Reg := fld 11 5 w
abbrev fC (w : IWord) : Reg := fld 5 5 w
/-- The mask, slot or k register in the low three bits of a five-bit field, and the two bits above it (R205). -/
abbrev kD (w : IWord) : KReg := fld 21 3 w
abbrev kA (w : IWord) : KReg := fld 16 3 w
abbrev kB (w : IWord) : KReg := fld 11 3 w
abbrev kC (w : IWord) : KReg := fld 5 3 w
abbrev hiD (w : IWord) : BitVec 2 := fld 24 2 w
abbrev hiA (w : IWord) : BitVec 2 := fld 19 2 w
abbrev hiB (w : IWord) : BitVec 2 := fld 14 2 w
abbrev hiC (w : IWord) : BitVec 2 := fld 8 2 w

/-! One reader per row of the opcode map (R208). -/

/-- Major 0x00. -/
def parseAlu (w : IWord) : Option Instr :=
  let d := fD w; let a := fA w; let b := fB w; let e := flag 10 w
  match (fld 0 10 w).toNat with
  | 1 => some (.add d a b e)
  | 2 => some (.sub d a b e)
  | 3 => some (.and d a b e)
  | 4 => some (.or d a b e)
  | 5 => some (.xor d a b e)
  | 6 => some (.andn d a b e)
  | 7 => some (.shl d a b e)
  | 8 => some (.shr d a b e)
  | 9 => some (.sar d a b e)
  | 10 => some (.mul d a b e)
  | 11 => some (.mulhi d a b e)
  | 12 => some (.mulhis d a b e)
  | 13 => some (.div d a b e)
  | 14 => some (.divs d a b e)
  | 15 => some (.rem d a b e)
  | 16 => some (.rems d a b e)
  | 17 => some (.min d a b e)
  | 18 => some (.mins d a b e)
  | 19 => some (.max d a b e)
  | 20 => some (.maxs d a b e)
  | 21 => some (.cmpeq d a b e)
  | 22 => some (.cmplt d a b e)
  | 23 => some (.cmplts d a b e)
  | 24 => some (.sel d a b e)
  | 25 => if b = 0 then some (.clz d a e) else none
  | 26 => if b = 0 then some (.ctz d a e) else none
  | 27 => if b = 0 then some (.popc d a e) else none
  | 28 => if b = 0 then some (.bswap d a e) else none
  | _ => none

/-- Majors 0x05 to 0x07: imm15[14:6] is zero (R207). -/
def parseShift (f : Reg → Reg → Bool → BitVec 6 → Instr) (w : IWord) : Option Instr :=
  if fld 6 9 w = 0 then some (f (fD w) (fA w) (flag 15 w) (fld 0 6 w)) else none

/-- Majors 0x0B and 0x0C: imm15[14:12] is zero (R207). -/
def parseField (f : Reg → Reg → Bool → BitVec 6 → BitVec 6 → Instr) (w : IWord) : Option Instr :=
  if fld 12 3 w = 0 then some (f (fD w) (fA w) (flag 15 w) (fld 6 6 w) (fld 0 6 w)) else none

/-- Major 0x17. -/
def parseJump (w : IWord) : Option Instr :=
  if fD w = 0 ∧ fB w = 0 then
    match (fld 0 10 w).toNat with
    | 0 => some (.jr (fA w) (flag 10 w))
    | 1 => some (.callr (fA w) (flag 10 w))
    | 2 => if fA w = 0 ∧ flag 10 w = false then some .ret else none
    | _ => none
  else none

/-- Majors 0x18 to 0x1A, scalar layout of format M. -/
def parseLoad (f : Reg → Reg → Bool → Size → Scope → Ord → BitVec 8 → Instr) (w : IWord) : Option Instr :=
  match Scope.ofCode (fld 10 3 w) with
  | some sc => some (f (fD w) (fA w) (flag 15 w) (Size.ofCode (fld 13 2 w)) sc (Ord.ofCode (fld 8 2 w)) (fld 0 8 w))
  | none => none

/-- Major 0x1B: the sz field is a sub-opcode. -/
def parseFullEmpty (w : IWord) : Option Instr :=
  match Scope.ofCode (fld 10 3 w) with
  | none => none
  | some sc =>
    let d := fD w; let a := fA w; let e := flag 15 w; let o := Ord.ofCode (fld 8 2 w); let i := fld 0 8 w
    match (fld 13 2 w).toNat with
    | 0 => some (.ldWait d a e sc o i)
    | 1 => some (.ldTake d a e sc o i)
    | 2 => some (.stFill d a e sc o i)
    | _ => some (.stEmpty d a e sc o i)

/-- Major 0x1C: scope and ord are zero. -/
def parseTag (w : IWord) : Option Instr :=
  if fld 8 5 w = 0 then
    let d := fD w; let a := fA w; let e := flag 15 w; let i := fld 0 8 w
    match (fld 13 2 w).toNat with
    | 0 => some (.tagGet d a e i)
    | 1 => some (.tagSet d a e i)
    | 2 => if d = 0 ∧ a = 0 ∧ e = false ∧ i = 0 then some .park else none
    | _ => if d = 0 then some (.pref a e i) else none
  else none

/-- Major 0x1D. -/
def parseAmo (w : IWord) : Option Instr :=
  match Scope.ofCode (fld 6 3 w) with
  | none => none
  | some sc =>
    let d := fD w; let a := fA w; let b := fB w; let e := flag 10 w; let z := flag 9 w; let o := Ord.ofCode (fld 4 2 w)
    match (fld 0 4 w).toNat with
    | 0 => some (.amoAdd d a b e z sc o)
    | 1 => some (.amoFadd d a b e z sc o)
    | 2 => some (.amoAnd d a b e z sc o)
    | 3 => some (.amoOr d a b e z sc o)
    | 4 => some (.amoXor d a b e z sc o)
    | 5 => some (.amoMin d a b e z sc o)
    | 6 => some (.amoMins d a b e z sc o)
    | 7 => some (.amoMax d a b e z sc o)
    | 8 => some (.amoMaxs d a b e z sc o)
    | 9 => some (.amoFmax d a b e z sc o)
    | 10 => some (.amoSwap d a b e z sc o)
    | 11 => some (.amoCas d a b e z sc o)
    | _ => none

/-- Major 0x1F. -/
def parseFence (w : IWord) : Option Instr :=
  if fld 5 21 w = 0 then
    match Scope.ofCode (fld 2 3 w) with
    | some sc => some (.fence (FenceKind.ofCode (fld 0 2 w)) sc)
    | none => none
  else none

/-- The two-source forms of format V. -/
def parseV3 (f : Reg → Reg → Reg → Bool → KReg → EType → Instr) (w : IWord) : Option Instr :=
  match EType.ofCode (fld 3 4 w) with
  | some t => some (f (fD w) (fA w) (fB w) (flag 10 w) (fld 7 3 w) t)
  | none => none

/-- The one-source forms of format V: b is zero. -/
def parseV2 (f : Reg → Reg → Bool → KReg → EType → Instr) (w : IWord) : Option Instr :=
  if fB w = 0 then
    match EType.ofCode (fld 3 4 w) with
    | some t => some (f (fD w) (fA w) (flag 10 w) (fld 7 3 w) t)
    | none => none
  else none

/-- Major 0x20. -/
def parseVArith (w : IWord) : Option Instr :=
  match (fld 0 3 w).toNat with
  | 0 => parseV3 .vadd w
  | 1 => parseV3 .vsub w
  | 2 => parseV3 .vmul w
  | 3 => parseV3 .vmin w
  | 4 => parseV3 .vmax w
  | 5 => parseV2 .vabs w
  | 6 => parseV2 .vneg w
  | _ => parseV3 .vfma w

/-- Major 0x21. -/
def parseVLogic (w : IWord) : Option Instr :=
  match (fld 0 3 w).toNat with
  | 0 => parseV3 .vand w
  | 1 => parseV3 .vor w
  | 2 => parseV3 .vxor w
  | 3 => parseV3 .vshl w
  | 4 => parseV3 .vshr w
  | 5 => parseV3 .vsar w
  | _ => none

/-- Major 0x22: d names a k register (R262). -/
def parseVCmp (w : IWord) : Option Instr :=
  if hiD w = 0 then
    match EType.ofCode (fld 3 4 w), Cond.ofCode (fld 0 3 w) with
    | some t, some c => some (.vcmp (kD w) (fA w) (fB w) (flag 10 w) (fld 7 3 w) t c)
    | _, _ => none
  else none

/-- Major 0x23: VSEL needs a mask and VMOVG takes none (R263). -/
def parseVMove (w : IWord) : Option Instr :=
  match (fld 0 3 w).toNat with
  | 0 => if fld 7 3 w = 0 then none else parseV3 .vsel w
  | 1 => parseV2 .vbcast w
  | 2 =>
    if fld 7 3 w = 0 then
      match EType.ofCode (fld 3 4 w) with
      | some t => some (.vmovg (fD w) (fA w) (fB w) (flag 10 w) t)
      | none => none
    else none
  | 3 => parseV3 .vperm w
  | _ => none

/-- Major 0x24: b is the destination format code (R264). -/
def parseVCvt (w : IWord) : Option Instr :=
  if fld 1 2 w = 0 then
    match EType.ofCode (fld 3 4 w) with
    | some t => some (.vcvt (fD w) (fA w) (fB w) (flag 10 w) (fld 7 3 w) t (flag 0 w))
    | none => none
  else none

/-- Major 0x25. -/
def parseVRed (w : IWord) : Option Instr :=
  if fB w = 0 then
    match EType.ofCode (fld 3 4 w), RedOp.ofCode (fld 0 3 w) with
    | some t, some o => some (.vred (fD w) (fA w) (flag 10 w) (fld 7 3 w) t o)
    | _, _ => none
  else none

/-- Major 0x26. -/
def parseVTrans (w : IWord) : Option Instr :=
  match (fld 0 3 w).toNat with
  | 0 => parseV2 .vexp2 w
  | 1 => parseV2 .vrcp w
  | 2 => parseV2 .vrsq w
  | 3 => parseV2 .vsig w
  | _ => none

/-- Major 0x27: type, k and op are zero (R267). -/
def parseVRand (w : IWord) : Option Instr :=
  if fld 0 10 w = 0 then some (.vrand (fD w) (fA w) (fB w) (flag 10 w)) else none

/-- Major 0x28: type and k are zero; the w bit is that of R268's table. -/
def parseKop (w : IWord) : Option Instr :=
  if fld 3 7 w = 0 then
    match (fld 0 3 w).toNat with
    | 0 => three .kopAnd
    | 1 => three .kopOr
    | 2 => three .kopXor
    | 3 => three .kopAndn
    | 4 => if hiD w = 0 ∧ hiA w = 0 ∧ fB w = 0 ∧ flag 10 w = false then some (.kopNot (kD w) (kA w)) else none
    | 5 => if hiD w = 0 ∧ fB w = 0 ∧ flag 10 w = true then some (.kopFromg (kD w) (fA w)) else none
    | 6 => if hiA w = 0 ∧ fB w = 0 ∧ flag 10 w = false then some (.kopTog (fD w) (kA w)) else none
    | _ => none
  else none
where
  three (f : KReg → KReg → KReg → Instr) : Option Instr :=
    if hiD w = 0 ∧ hiA w = 0 ∧ hiB w = 0 ∧ flag 10 w = false then some (f (kD w) (kA w) (kB w)) else none

/-- Majors 0x29 and 0x2A, vector layout of format M. -/
def parseVLoad (f : Reg → Reg → Bool → KReg → Scope → Ord → Size → BitVec 5 → Instr) (w : IWord) : Option Instr :=
  match Scope.ofCode (fld 9 3 w) with
  | some sc => some (f (fD w) (fA w) (flag 15 w) (fld 12 3 w) sc (Ord.ofCode (fld 7 2 w)) (Size.ofCode (fld 5 2 w)) (fld 0 5 w))
  | none => none

/-- Majors 0x2B and 0x2C: k and esz are zero. -/
def parseVLine (f : Reg → Reg → Bool → Scope → Ord → BitVec 5 → Instr) (w : IWord) : Option Instr :=
  if fld 12 3 w = 0 ∧ fld 5 2 w = 0 then
    match Scope.ofCode (fld 9 3 w) with
    | some sc => some (f (fD w) (fA w) (flag 15 w) sc (Ord.ofCode (fld 7 2 w)) (fld 0 5 w))
    | none => none
  else none

/-- Major 0x2D. -/
def parseVGather (w : IWord) : Option Instr :=
  match (fld 0 3 w).toNat with
  | 0 => parseV3 .vlds w
  | 1 => parseV3 .vgath w
  | 2 => parseV3 .vscat w
  | _ => none

/-- Major 0x30. -/
def parseSend (w : IWord) : Option Instr :=
  if fD w = 0 ∧ fld 0 5 w = 0 then
    match Scope.ofCode (fld 5 3 w) with
    | some sc => some (.msgSend (fA w) (fB w) (flag 10 w) (Ord.ofCode (fld 8 2 w)) sc)
    | none => none
  else none

/-- Major 0x31: the forms read no g or v register; MSG.POLL and MSG.CNT carry no ordering and no scope. -/
def parseRecv (w : IWord) : Option Instr :=
  if fA w = 0 ∧ flag 10 w = false ∧ fld 2 3 w = 0 then
    match (fld 0 2 w).toNat with
    | 0 =>
      match Scope.ofCode (fld 5 3 w) with
      | some sc => some (.msgRecv (fD w) (fB w) (Ord.ofCode (fld 8 2 w)) sc)
      | none => none
    | 1 => if fB w = 0 ∧ fld 5 5 w = 0 then some (.msgPoll (fD w)) else none
    | 2 => if fB w = 0 ∧ fld 5 5 w = 0 then some (.msgCnt (fD w)) else none
    | _ => none
  else none

/-- Major 0x32. -/
def parseBarrier (w : IWord) : Option Instr :=
  if fB w = 0 ∧ fld 3 3 w = 0 then
    let g := fld 6 4 w
    match (fld 0 3 w).toNat with
    | 0 => if fD w = 0 then some (.barCfg (fA w) (flag 10 w) g) else none
    | 1 => if fD w = 0 ∧ fA w = 0 ∧ flag 10 w = false then some (.barArr g) else none
    | 2 => if fD w = 0 ∧ fA w = 0 ∧ flag 10 w = false then some (.barWait g) else none
    | 3 => if fA w = 0 ∧ flag 10 w = false then some (.barTest (fD w) g) else none
    | 4 => if fD w = 0 ∧ fA w = 0 ∧ flag 10 w = false then some (.barSs g) else none
    | _ => none
  else none

/-- Majors 0x34 to 0x36. -/
def parseCopy (f : Reg → Reg → Reg → Bool → Reg → BitVec 2 → Scope → Instr) (w : IWord) : Option Instr :=
  match Scope.ofCode (fld 0 3 w) with
  | some sc => some (f (fD w) (fA w) (fB w) (flag 10 w) (fC w) (fld 3 2 w) sc)
  | none => none

/-- Major 0x37. -/
def parseVerify (w : IWord) : Option Instr :=
  match Scope.ofCode (fld 0 3 w) with
  | none => none
  | some sc =>
    match (fld 3 2 w).toNat with
    | 0 => some (.cpVerify (fD w) (fA w) (fB w) (flag 10 w) (fC w) sc)
    | 1 => if fld 5 21 w = 0 then some (.cpWait sc) else none
    | _ => none

/-- Major 0x38 (R296-R300, R317). -/
def parseMxSystem (w : IWord) : Option Instr :=
  match (fld 2 3 w).toNat with
  | 0 => if fld 0 2 w = 0 ∧ fD w = 0 ∧ fB w = 0 ∧ fC w = 0 then some (.mxCtx (fA w) (flag 10 w)) else none
  | 1 =>
    if fD w = 0 ∧ fA w = 0 ∧ hiB w = 0 then
      match Scope.ofCode (kB w) with
      | none => none
      | some sc =>
        match (fld 0 2 w).toNat with
        | 0 => if flag 10 w = false ∧ fC w = 0 then some (.mxSyncBlocking sc) else none
        | 1 => some (.mxSyncWord sc (flag 10 w) (fC w))
        | _ => none
    else none
  | 2 => if fld 0 2 w = 0 ∧ fA w = 0 ∧ fB w = 0 ∧ flag 10 w = false ∧ hiC w = 0 then some (.mxOwn (fD w) (kC w)) else none
  | 3 => slot .mxFree
  | 4 => slot .mxPin
  | 5 => slot .mxUnpin
  | _ => none
where
  slot (f : KReg → Instr) : Option Instr :=
    if fld 0 2 w = 0 ∧ fD w = 0 ∧ fA w = 0 ∧ fB w = 0 ∧ flag 10 w = false ∧ hiC w = 0 then some (f (kC w)) else none

/-- Major 0x39 (R304). -/
def parseMxBld (w : IWord) : Option Instr :=
  if fld 0 10 w = 0 then some (.mxBld (fD w) (fA w) (fB w) (flag 10 w)) else none

/-- Major 0x3A (R305, R307). -/
def parseMxMac (w : IWord) : Option Instr :=
  if hiC w = 0 ∧ flag 1 w = false then
    match (fld 2 3 w).toNat with
    | 0 => if fD w = 0 ∧ fA w = 0 ∧ fB w = 0 ∧ flag 10 w = false ∧ flag 0 w = false then some (.mxZero (kC w)) else none
    | 1 => some (.mxMac (fD w) (fA w) (fB w) (flag 10 w) (kC w) (flag 0 w))
    | 2 => some (.mxMact (fD w) (fA w) (fB w) (flag 10 w) (kC w) (flag 0 w))
    | _ => none
  else none

/-- Major 0x3B (R308, R309). -/
def parseMxRow (w : IWord) : Option Instr :=
  if hiC w = 0 ∧ flag 1 w = false then
    match (fld 2 3 w).toNat with
    | 0 => if fB w = 0 then some (.mxRd (fD w) (fA w) (flag 10 w) (kC w) (flag 0 w)) else none
    | 1 => if fD w = 0 then some (.mxWr (fA w) (fB w) (flag 10 w) (kC w) (flag 0 w)) else none
    | _ => none
  else none

/-- Major 0x3C (R311, R312). -/
def parseMxDelta (w : IWord) : Option Instr :=
  if hiC w = 0 then
    match (fld 2 3 w).toNat with
    | 0 => some (.mxDelta (fD w) (fA w) (fB w) (flag 10 w) (kC w) (flag 1 w) (flag 0 w))
    | 1 => if flag 0 w = false then some (.mxQry (fD w) (fA w) (fB w) (flag 10 w) (kC w) (flag 1 w)) else none
    | _ => none
  else none

/-- Major 0x3D (R315, R316). -/
def parseMxImage (w : IWord) : Option Instr :=
  if hiC w = 0 ∧ fld 0 2 w = 0 then
    match (fld 2 3 w).toNat with
    | 0 => some (.mxSpill (fD w) (fA w) (fB w) (flag 10 w) (kC w))
    | 1 => some (.mxLoad (fD w) (fA w) (fB w) (flag 10 w) (kC w))
    | _ => none
  else none

/-- Major 0x3E. -/
def parseSystem (w : IWord) : Option Instr :=
  let i := fld 4 11 w
  match (fld 0 4 w).toNat with
  | 0 => if fld 15 11 w = 0 then some (.trap i) else none
  | 1 => if fld 4 22 w = 0 then some .tret else none
  | 2 => if fld 4 22 w = 0 then some .esc else none
  | 3 => if fA w = 0 ∧ flag 15 w = false then some (.syr (fD w) i) else none
  | 4 => if fD w = 0 then some (.syw (fA w) (flag 15 w) i) else none
  | 5 => if fld 4 22 w = 0 then some .yield else none
  | 6 => if fD w = 0 ∧ i = 0 then some (.wfe (fA w) (flag 15 w)) else none
  | 7 => if fld 4 22 w = 0 then some .halt else none
  | 8 => if fD w = 0 ∧ i = 0 then some (.tlbInv (fA w) (flag 15 w)) else none
  | 9 => if fD w = 0 ∧ i = 0 then some (.icInv (fA w) (flag 15 w)) else none
  | 10 => if fD w = 0 ∧ i = 0 then some (.dcWb (fA w) (flag 15 w)) else none
  | 11 => if fD w = 0 ∧ i = 0 then some (.dcInv (fA w) (flag 15 w)) else none
  | 12 => if fld 15 11 w = 0 then some (.brk i) else none
  | _ => none

/-- Major 0x3F (R216). -/
def parseRpt (w : IWord) : Option Instr :=
  if fld 0 8 w = 0 then some (.rpt (fld 22 4 w) (fld 14 8 w) (fld 12 2 w) (fld 10 2 w) (fld 8 2 w)) else none

/-- The 64 majors (R208). (DEDUCED: log entry 19.) -/
def parse (w : IWord) : Option Instr :=
  match (fMajor w).toNat with
  | 0x00 => parseAlu w
  | 0x01 => some (.addi (fD w) (fA w) (flag 15 w) (fld 0 15 w))
  | 0x02 => some (.andi (fD w) (fA w) (flag 15 w) (fld 0 15 w))
  | 0x03 => some (.ori (fD w) (fA w) (flag 15 w) (fld 0 15 w))
  | 0x04 => some (.xori (fD w) (fA w) (flag 15 w) (fld 0 15 w))
  | 0x05 => parseShift .shli w
  | 0x06 => parseShift .shri w
  | 0x07 => parseShift .sari w
  | 0x08 => some (.cmplti (fD w) (fA w) (flag 15 w) (fld 0 15 w))
  | 0x09 => some (.lih (fD w) (fld 0 21 w))
  | 0x0A => some (.addpc (fD w) (fld 0 21 w))
  | 0x0B => parseField .ext w
  | 0x0C => parseField .ins w
  | 0x10 => some (.beq (fD w) (fA w) (flag 15 w) (fld 0 15 w))
  | 0x11 => some (.bne (fD w) (fA w) (flag 15 w) (fld 0 15 w))
  | 0x12 => some (.blt (fD w) (fA w) (flag 15 w) (fld 0 15 w))
  | 0x13 => some (.bge (fD w) (fA w) (flag 15 w) (fld 0 15 w))
  | 0x14 => some (.blts (fD w) (fA w) (flag 15 w) (fld 0 15 w))
  | 0x15 => some (.bges (fD w) (fA w) (flag 15 w) (fld 0 15 w))
  | 0x16 => if flag 25 w then some (.call (fld 0 25 w)) else some (.jmp (fld 0 25 w))
  | 0x17 => parseJump w
  | 0x18 => parseLoad .ld w
  | 0x19 => if fld 13 2 w = 3 then none else parseLoad .lds w
  | 0x1A => parseLoad .st w
  | 0x1B => parseFullEmpty w
  | 0x1C => parseTag w
  | 0x1D => parseAmo w
  | 0x1E => some (.ship (fD w) (fA w) (fB w) (flag 10 w) (fld 4 6 w) (Scope.ofShipCode (fld 2 2 w)) (Ord.ofCode (fld 0 2 w)))
  | 0x1F => parseFence w
  | 0x20 => parseVArith w
  | 0x21 => parseVLogic w
  | 0x22 => parseVCmp w
  | 0x23 => parseVMove w
  | 0x24 => parseVCvt w
  | 0x25 => parseVRed w
  | 0x26 => parseVTrans w
  | 0x27 => parseVRand w
  | 0x28 => parseKop w
  | 0x29 => parseVLoad .vld w
  | 0x2A => parseVLoad .vst w
  | 0x2B => parseVLine .vldTake w
  | 0x2C => parseVLine .vstFill w
  | 0x2D => parseVGather w
  | 0x30 => parseSend w
  | 0x31 => parseRecv w
  | 0x32 => parseBarrier w
  | 0x34 => parseCopy .cpCopy w
  | 0x35 => parseCopy .cpCopy2 w
  | 0x36 => parseCopy .cpFillv w
  | 0x37 => parseVerify w
  | 0x38 => parseMxSystem w
  | 0x39 => parseMxBld w
  | 0x3A => parseMxMac w
  | 0x3B => parseMxRow w
  | 0x3C => parseMxDelta w
  | 0x3D => parseMxImage w
  | 0x3E => parseSystem w
  | 0x3F => parseRpt w
  | _ => none

/-- A word of VRAND or KOP but for its type, which is not zero: R260 names the reason of a type that the form does not accept. -/
def typeRefused (w : IWord) : Bool :=
  (fMajor w == 0x27 || fMajor w == 0x28) && fld 3 4 w != 0 && (EType.ofCode (fld 3 4 w)).isSome && (parse (w &&& 0xFFFFFF87)).isSome

/-- The decoder: a word is an instruction or raises ILLEGAL with a reason (R209, R260). (DEDUCED: log entry 19.) A word that no
form has raises 0x20 though a qualifier of it is also reserved: R209 gives no order of its cases (DEDUCED, log entry 64). -/
def decode (w : IWord) : Except Illegal Instr :=
  match parse w with
  | none => .error (if typeRefused w then .qualifier else .encoding)
  | some i => if i.fieldsOk then .ok i else .error .qualifier

/-- The word of four bytes in memory order (R6). -/
def wordOfBytes (b0 b1 b2 b3 : Byte) : IWord := b3 ++ b2 ++ b1 ++ b0

/-- The decoder on bytes: the instruction and the bytes after it; fewer than four bytes are no instruction. -/
def decodeBytes : List Byte → Option (Except Illegal Instr × List Byte)
  | b0 :: b1 :: b2 :: b3 :: rest => some (decode (wordOfBytes b0 b1 b2 b3), rest)
  | _ => none

/-- The instruction this decoder reads from a word numbered as the opcode table numbers it. Every instruction is one word. -/
def decodeTableWord (nbits w : Nat) : Option Instr :=
  if nbits ≤ 32 then
    match decode (BitVec.ofNat 32 (w % 2 ^ nbits)) with
    | .ok i => some i
    | .error _ => none
  else none

/-! The encoder. One layout per format (R205). -/

/-- Format A. -/
def encA (major : BitVec 6) (d a b : Reg) (w : Bool) (func : BitVec 10) : IWord :=
  major ++ d ++ a ++ b ++ BitVec.ofBool w ++ func

/-- Format I, short layout; format B has the same shape with a and b in its first two fields. -/
def encI (major : BitVec 6) (d a : Reg) (w : Bool) (imm : BitVec 15) : IWord :=
  major ++ d ++ a ++ BitVec.ofBool w ++ imm

/-- Format I, long layout. -/
def encL (major : BitVec 6) (d : Reg) (imm : BitVec 21) : IWord := major ++ d ++ imm

/-- Format J. -/
def encJ (l : Bool) (off : BitVec 25) : IWord := (0x16 : BitVec 6) ++ BitVec.ofBool l ++ off

/-- Format M, scalar layout. -/
def encM (major : BitVec 6) (d a : Reg) (w : Bool) (sz : BitVec 2) (sc : BitVec 3) (o : BitVec 2) (imm : BitVec 8) : IWord :=
  major ++ d ++ a ++ BitVec.ofBool w ++ sz ++ sc ++ o ++ imm

/-- Format M, vector layout. -/
def encMV (major : BitVec 6) (d a : Reg) (w : Bool) (k : KReg) (sc : BitVec 3) (o esz : BitVec 2) (imm : BitVec 5) : IWord :=
  major ++ d ++ a ++ BitVec.ofBool w ++ k ++ sc ++ o ++ esz ++ imm

/-- Format V. -/
def encV (major : BitVec 6) (d a b : Reg) (w : Bool) (k : KReg) (t : BitVec 4) (op : BitVec 3) : IWord :=
  major ++ d ++ a ++ b ++ BitVec.ofBool w ++ k ++ t ++ op

/-- Format E. -/
def encE (major : BitVec 6) (d a b : Reg) (w : Bool) (c : Reg) (hi : BitVec 2) (lo : BitVec 3) : IWord :=
  major ++ d ++ a ++ b ++ BitVec.ofBool w ++ c ++ hi ++ lo

/-- Format E of the matrix majors: operation in func[4:2], flags in func[1:0]. -/
def encX (major : BitVec 6) (d a b : Reg) (w : Bool) (c : Reg) (op : BitVec 3) (f1 f0 : Bool) : IWord :=
  major ++ d ++ a ++ b ++ BitVec.ofBool w ++ c ++ op ++ BitVec.ofBool f1 ++ BitVec.ofBool f0

/-- Format S, system layout. -/
def encS (d a : Reg) (w : Bool) (imm : BitVec 11) (op : BitVec 4) : IWord :=
  (0x3E : BitVec 6) ++ d ++ a ++ BitVec.ofBool w ++ imm ++ op

/-- A k register or slot in a five-bit field: bits [4:3] are zero (R205). -/
def reg5 (k : KReg) : Reg := (0 : BitVec 2) ++ k

/-- The word of an encoded form; a step of the machine has none. -/
def encode : Instr → Option IWord
  | .add d a b w => some (encA 0x00 d a b w 1)
  | .sub d a b w => some (encA 0x00 d a b w 2)
  | .and d a b w => some (encA 0x00 d a b w 3)
  | .or d a b w => some (encA 0x00 d a b w 4)
  | .xor d a b w => some (encA 0x00 d a b w 5)
  | .andn d a b w => some (encA 0x00 d a b w 6)
  | .shl d a b w => some (encA 0x00 d a b w 7)
  | .shr d a b w => some (encA 0x00 d a b w 8)
  | .sar d a b w => some (encA 0x00 d a b w 9)
  | .mul d a b w => some (encA 0x00 d a b w 10)
  | .mulhi d a b w => some (encA 0x00 d a b w 11)
  | .mulhis d a b w => some (encA 0x00 d a b w 12)
  | .div d a b w => some (encA 0x00 d a b w 13)
  | .divs d a b w => some (encA 0x00 d a b w 14)
  | .rem d a b w => some (encA 0x00 d a b w 15)
  | .rems d a b w => some (encA 0x00 d a b w 16)
  | .min d a b w => some (encA 0x00 d a b w 17)
  | .mins d a b w => some (encA 0x00 d a b w 18)
  | .max d a b w => some (encA 0x00 d a b w 19)
  | .maxs d a b w => some (encA 0x00 d a b w 20)
  | .cmpeq d a b w => some (encA 0x00 d a b w 21)
  | .cmplt d a b w => some (encA 0x00 d a b w 22)
  | .cmplts d a b w => some (encA 0x00 d a b w 23)
  | .sel d a b w => some (encA 0x00 d a b w 24)
  | .clz d a w => some (encA 0x00 d a 0 w 25)
  | .ctz d a w => some (encA 0x00 d a 0 w 26)
  | .popc d a w => some (encA 0x00 d a 0 w 27)
  | .bswap d a w => some (encA 0x00 d a 0 w 28)
  | .addi d a w i => some (encI 0x01 d a w i)
  | .andi d a w i => some (encI 0x02 d a w i)
  | .ori d a w i => some (encI 0x03 d a w i)
  | .xori d a w i => some (encI 0x04 d a w i)
  | .shli d a w s => some (encI 0x05 d a w ((0 : BitVec 9) ++ s))
  | .shri d a w s => some (encI 0x06 d a w ((0 : BitVec 9) ++ s))
  | .sari d a w s => some (encI 0x07 d a w ((0 : BitVec 9) ++ s))
  | .cmplti d a w i => some (encI 0x08 d a w i)
  | .lih d i => some (encL 0x09 d i)
  | .addpc d i => some (encL 0x0A d i)
  | .ext d a w p l => some (encI 0x0B d a w ((0 : BitVec 3) ++ p ++ l))
  | .ins d a w p l => some (encI 0x0C d a w ((0 : BitVec 3) ++ p ++ l))
  | .beq a b w o => some (encI 0x10 a b w o)
  | .bne a b w o => some (encI 0x11 a b w o)
  | .blt a b w o => some (encI 0x12 a b w o)
  | .bge a b w o => some (encI 0x13 a b w o)
  | .blts a b w o => some (encI 0x14 a b w o)
  | .bges a b w o => some (encI 0x15 a b w o)
  | .jmp o => some (encJ false o)
  | .call o => some (encJ true o)
  | .jr a w => some (encA 0x17 0 a 0 w 0)
  | .callr a w => some (encA 0x17 0 a 0 w 1)
  | .ret => some (encA 0x17 0 0 0 false 2)
  | .ld d a w z s o i => some (encM 0x18 d a w z.code s.code o.code i)
  | .lds d a w z s o i => some (encM 0x19 d a w z.code s.code o.code i)
  | .st d a w z s o i => some (encM 0x1A d a w z.code s.code o.code i)
  | .ldWait d a w s o i => some (encM 0x1B d a w 0 s.code o.code i)
  | .ldTake d a w s o i => some (encM 0x1B d a w 1 s.code o.code i)
  | .stFill d a w s o i => some (encM 0x1B d a w 2 s.code o.code i)
  | .stEmpty d a w s o i => some (encM 0x1B d a w 3 s.code o.code i)
  | .tagGet d a w i => some (encM 0x1C d a w 0 0 0 i)
  | .tagSet d a w i => some (encM 0x1C d a w 1 0 0 i)
  | .park => some (encM 0x1C 0 0 false 2 0 0 0)
  | .pref a w i => some (encM 0x1C 0 a w 3 0 0 i)
  | .amoAdd d a b w z s o => some (amo d a b w z s o 0)
  | .amoFadd d a b w z s o => some (amo d a b w z s o 1)
  | .amoAnd d a b w z s o => some (amo d a b w z s o 2)
  | .amoOr d a b w z s o => some (amo d a b w z s o 3)
  | .amoXor d a b w z s o => some (amo d a b w z s o 4)
  | .amoMin d a b w z s o => some (amo d a b w z s o 5)
  | .amoMins d a b w z s o => some (amo d a b w z s o 6)
  | .amoMax d a b w z s o => some (amo d a b w z s o 7)
  | .amoMaxs d a b w z s o => some (amo d a b w z s o 8)
  | .amoFmax d a b w z s o => some (amo d a b w z s o 9)
  | .amoSwap d a b w z s o => some (amo d a b w z s o 10)
  | .amoCas d a b w z s o => some (amo d a b w z s o 11)
  | .ship d a b w n s o => some (encA 0x1E d a b w (n ++ s.shipCode ++ o.code))
  | .fence k s => some (encA 0x1F 0 0 0 false ((0 : BitVec 5) ++ s.code ++ k.code))
  | .vadd d a b w k t => some (encV 0x20 d a b w k t.code 0)
  | .vsub d a b w k t => some (encV 0x20 d a b w k t.code 1)
  | .vmul d a b w k t => some (encV 0x20 d a b w k t.code 2)
  | .vmin d a b w k t => some (encV 0x20 d a b w k t.code 3)
  | .vmax d a b w k t => some (encV 0x20 d a b w k t.code 4)
  | .vabs d a w k t => some (encV 0x20 d a 0 w k t.code 5)
  | .vneg d a w k t => some (encV 0x20 d a 0 w k t.code 6)
  | .vfma d a b w k t => some (encV 0x20 d a b w k t.code 7)
  | .vand d a b w k t => some (encV 0x21 d a b w k t.code 0)
  | .vor d a b w k t => some (encV 0x21 d a b w k t.code 1)
  | .vxor d a b w k t => some (encV 0x21 d a b w k t.code 2)
  | .vshl d a b w k t => some (encV 0x21 d a b w k t.code 3)
  | .vshr d a b w k t => some (encV 0x21 d a b w k t.code 4)
  | .vsar d a b w k t => some (encV 0x21 d a b w k t.code 5)
  | .vcmp d a b w k t c => some (encV 0x22 (reg5 d) a b w k t.code c.code)
  | .vsel d a b w k t => some (encV 0x23 d a b w k t.code 0)
  | .vbcast d a w k t => some (encV 0x23 d a 0 w k t.code 1)
  | .vmovg d a b w t => some (encV 0x23 d a b w 0 t.code 2)
  | .vperm d a b w k t => some (encV 0x23 d a b w k t.code 3)
  | .vcvt d a f w k t s => some (encV 0x24 d a f w k t.code ((0 : BitVec 2) ++ BitVec.ofBool s))
  | .vred d a w k t o => some (encV 0x25 d a 0 w k t.code o.code)
  | .vexp2 d a w k t => some (encV 0x26 d a 0 w k t.code 0)
  | .vrcp d a w k t => some (encV 0x26 d a 0 w k t.code 1)
  | .vrsq d a w k t => some (encV 0x26 d a 0 w k t.code 2)
  | .vsig d a w k t => some (encV 0x26 d a 0 w k t.code 3)
  | .vrand d a b w => some (encV 0x27 d a b w 0 0 0)
  | .kopAnd d a b => some (encV 0x28 (reg5 d) (reg5 a) (reg5 b) false 0 0 0)
  | .kopOr d a b => some (encV 0x28 (reg5 d) (reg5 a) (reg5 b) false 0 0 1)
  | .kopXor d a b => some (encV 0x28 (reg5 d) (reg5 a) (reg5 b) false 0 0 2)
  | .kopAndn d a b => some (encV 0x28 (reg5 d) (reg5 a) (reg5 b) false 0 0 3)
  | .kopNot d a => some (encV 0x28 (reg5 d) (reg5 a) 0 false 0 0 4)
  | .kopFromg d a => some (encV 0x28 (reg5 d) a 0 true 0 0 5)
  | .kopTog d a => some (encV 0x28 d (reg5 a) 0 false 0 0 6)
  | .vld d a w k s o z i => some (encMV 0x29 d a w k s.code o.code z.code i)
  | .vst d a w k s o z i => some (encMV 0x2A d a w k s.code o.code z.code i)
  | .vldTake d a w s o i => some (encMV 0x2B d a w 0 s.code o.code 0 i)
  | .vstFill d a w s o i => some (encMV 0x2C d a w 0 s.code o.code 0 i)
  | .vlds d a b w k t => some (encV 0x2D d a b w k t.code 0)
  | .vgath d a b w k t => some (encV 0x2D d a b w k t.code 1)
  | .vscat d a b w k t => some (encV 0x2D d a b w k t.code 2)
  | .msgSend a b w o s => some (encA 0x30 0 a b w (o.code ++ s.code ++ (0 : BitVec 5)))
  | .msgRecv d b o s => some (encA 0x31 d 0 b false (o.code ++ s.code ++ (0 : BitVec 5)))
  | .msgPoll d => some (encA 0x31 d 0 0 false 1)
  | .msgCnt d => some (encA 0x31 d 0 0 false 2)
  | .barCfg a w g => some (encA 0x32 0 a 0 w (g ++ (0 : BitVec 6)))
  | .barArr g => some (encA 0x32 0 0 0 false (g ++ (1 : BitVec 6)))
  | .barWait g => some (encA 0x32 0 0 0 false (g ++ (2 : BitVec 6)))
  | .barTest d g => some (encA 0x32 d 0 0 false (g ++ (3 : BitVec 6)))
  | .barSs g => some (encA 0x32 0 0 0 false (g ++ (4 : BitVec 6)))
  | .cpCopy d a b w c m s => some (encE 0x34 d a b w c m s.code)
  | .cpCopy2 d a b w c m s => some (encE 0x35 d a b w c m s.code)
  | .cpFillv d a b w c m s => some (encE 0x36 d a b w c m s.code)
  | .cpVerify d a b w c s => some (encE 0x37 d a b w c 0 s.code)
  | .cpWait s => some (encE 0x37 0 0 0 false 0 1 s.code)
  | .mxCtx a w => some (encX 0x38 0 a 0 w 0 0 false false)
  | .mxSyncBlocking s => some (encX 0x38 0 0 (reg5 s.code) false 0 1 false false)
  | .mxSyncWord s w c => some (encX 0x38 0 0 (reg5 s.code) w c 1 false true)
  | .mxOwn d n => some (encX 0x38 d 0 0 false (reg5 n) 2 false false)
  | .mxFree n => some (encX 0x38 0 0 0 false (reg5 n) 3 false false)
  | .mxPin n => some (encX 0x38 0 0 0 false (reg5 n) 4 false false)
  | .mxUnpin n => some (encX 0x38 0 0 0 false (reg5 n) 5 false false)
  | .mxBld d a b w => some (encX 0x39 d a b w 0 0 false false)
  | .mxZero n => some (encX 0x3A 0 0 0 false (reg5 n) 0 false false)
  | .mxMac d a b w n z => some (encX 0x3A d a b w (reg5 n) 1 false z)
  | .mxMact d a b w n z => some (encX 0x3A d a b w (reg5 n) 2 false z)
  | .mxRd d a w n h => some (encX 0x3B d a 0 w (reg5 n) 0 false h)
  | .mxWr a b w n x => some (encX 0x3B 0 a b w (reg5 n) 1 false x)
  | .mxDelta d a b w n f r => some (encX 0x3C d a b w (reg5 n) 0 f r)
  | .mxQry d a b w n f => some (encX 0x3C d a b w (reg5 n) 1 f false)
  | .mxSpill d a b w n => some (encX 0x3D d a b w (reg5 n) 0 false false)
  | .mxLoad d a b w n => some (encX 0x3D d a b w (reg5 n) 1 false false)
  | .trap i => some (encS 0 0 false i 0)
  | .tret => some (encS 0 0 false 0 1)
  | .esc => some (encS 0 0 false 0 2)
  | .syr d i => some (encS d 0 false i 3)
  | .syw a w i => some (encS 0 a w i 4)
  | .yield => some (encS 0 0 false 0 5)
  | .wfe a w => some (encS 0 a w 0 6)
  | .halt => some (encS 0 0 false 0 7)
  | .tlbInv a w => some (encS 0 a w 0 8)
  | .icInv a w => some (encS 0 a w 0 9)
  | .dcWb a w => some (encS 0 a w 0 10)
  | .dcInv a w => some (encS 0 a w 0 11)
  | .brk i => some (encS 0 0 false i 12)
  | .rpt n c sd sa sb => some ((0x3F : BitVec 6) ++ n ++ c ++ sd ++ sa ++ sb ++ (0 : BitVec 8))
  | _ => none
where
  amo (d a b : Reg) (w z : Bool) (s : Scope) (o : Ord) (op : BitVec 4) : IWord :=
    encA 0x1D d a b w (BitVec.ofBool z ++ s.code ++ o.code ++ op)

end Sys2Proof
end

