-- ==== Sys2Proof/Config.lean ====
section
/-!
DEFINITION. What the spec leaves open, as constants with no body: nothing can be proved of a value of theirs beyond its
type. Each is named in a log entry (notes/assumptions).
-/

namespace Sys2Proof.Config

/-- Cycles that pass in step number n (DESIGN CHOICE, log entry 5). -/
opaque stepCycles : Nat → Nat

/-- What SY.TIME shows at a cycle count: the time base that firmware keeps aligned with the host's (R363; DESIGN CHOICE, log entry 6). -/
opaque time : Nat → BitVec 64

/-- What a wrapped key unwraps to under the data key of a session with a tableau and an entry as additional data: none when the
AES-256-GCM tag does not verify (R402; DESIGN CHOICE, log entry 7). -/
opaque unwrap : Nat → BitVec 16 → BitVec 4 → List (BitVec 8) → Option (List (BitVec 8))

/-- The digest of a measured content, by the measurement's index, and the device key's signature over a report, by step number (R405; DESIGN
CHOICE, log entry 7). -/
opaque digest : Nat → List Nat → List (BitVec 8)
opaque sign : List (BitVec 8) → Nat → List (BitVec 8)

/-- A byte that a peer wafer's memory holds, by wafer, address and step (R45, R46; DESIGN CHOICE, log entry 8). -/
opaque peerByte : Nat → Nat → Nat → BitVec 8

/-- The tag code of a peer wafer's word, by wafer, address and step (R81; DESIGN CHOICE, log entry 8). -/
opaque peerTag : Nat → Nat → Nat → BitVec 2

/-- Whether the peer wafer's homes and pages let a word's access succeed (R46; DESIGN CHOICE, log entry 8). -/
opaque peerOk : Nat → Nat → Nat → Bool

/-- Which of the pieces at work of a peer copy goes on, by step number (R403; DESIGN CHOICE, log entry 68). -/
opaque freePiece : Nat → Nat

/-- An element that a command reads when the slot it names has been freed before it starts, by step number (DESIGN CHOICE, log entry 9). -/
opaque freeElem : Nat → Nat → Nat → BitVec 40

/-- The GEN that an MX.SPILL of such a slot writes, and whether it writes it as PINNED, by step number (DESIGN CHOICE, log entry 9). -/
opaque freeGen : Nat → BitVec 16
opaque freePinned : Nat → Bool

/-- A tableau's own image key, by the number of the step that generates it (R314; DESIGN CHOICE, log entry 9). -/
opaque freeKey : Nat → BitVec 256

/-- The pair of XTS keys of a tableau, by the number of the step that generates it (R100; DESIGN CHOICE, log entry 9). -/
opaque freeXts : Nat → BitVec 512

/-- A byte of the parts of a saved context that each revision encodes in its own way, by step number and offset (R378, R379; DESIGN
CHOICE, log entry 9). -/
opaque areaByte : Nat → Nat → BitVec 8

/-- The rim quadrant in which the drover counts an access, by where it comes from: a tile's number, or 12,544 and a port's (R103; DESIGN
CHOICE, log entry 50). -/
opaque quadrantOf : Nat → BitVec 2

/-- Whether a word at or behind the block that failed holds the new value, by step number and word (R401; DESIGN CHOICE, log entry 9). -/
opaque freeNew : Nat → Nat → Bool

end Sys2Proof.Config
end

