-- ==== Sys2Proof/Machine/State.lean ====
section
/-!
DEFINITION. The state of the machine as plain data: everything spec/ gives it (INVENTORY.md, State), and State.reset.

Contexts are kept under the names programs use (tableau, vtile, hart), because a swap moves a context and changes
nothing in it (R145, R377); where a context stands is the tile-map entry's and the gang's matter (R19, R25, R162).
Keyed collections are lists of pairs; Machine/Ops.lean holds the one lookup and the one update of them.
-/

namespace Sys2Proof.Machine

/-- Why the machine stops. -/
inductive Fault where
  /-- Raised by `step` when the start has stopped at a verification failure (R404) or waits for the recovery
  function (R407), and no event is pending: nothing runs. Safe: the part does nothing there either. -/
  | notStarted
deriving DecidableEq, Repr

/-- Why the model has no meaning for what it should execute. -/
inductive Refusal where
  /-- The arm of an instruction that has no meaning yet. Safe: nothing is claimed of it. -/
  | notModelled (mnemonic : String)
deriving DecidableEq, Repr

/-- A list of pairs read as a finite map: the first pair of a key counts. -/
abbrev Map (κ α : Type) := List (κ × α)

/-- The 2-bit tag of an aligned 8-byte word: EMPTY 00, FULL 01, PARKED 10, POISON 11 (R9, R53). -/
inductive Tag where
  | empty | full | parked | poison
deriving DecidableEq, Repr

/-- Memory: bytes and tags, each a canonical list (rising keys, no entry equal to what an unlisted key reads as):
an unlisted byte reads zero and an unlisted word is FULL (R54). Keys are those of `Home.key`. -/
structure Store where
  cells : List Host.Cell
  tags  : List (Nat × Tag)
deriving DecidableEq, Repr

/-- The place where a byte is served (R9 Home, R25, R87): a slice, HBM by device-physical address, a host port,
or a device register. -/
inductive Home where
  | slice (t : TileId) (off : Nat)
  | hbm (dpa : Nat)
  | host (port : Nat) (hpa : Nat)
  | dev (off : Nat)
deriving DecidableEq, Repr

/-- The three register files whose registers an instruction's result can name (R210). -/
inductive File where
  | g | v | k
deriving DecidableEq, Repr

/-- Operations of the AMO forms (R208, R250). -/
inductive AmoOp where
  | add | fadd | and | or | xor | min | mins | max | maxs | fmax | swap | cas
deriving DecidableEq, Repr

/-- What an in-flight access does at its home (R56). -/
inductive OpKind where
  /-- LD, LDS: n bytes, sign-extended or not (R241). -/
  | load (n : Nat) (sgn : Bool)
  /-- VLD, VLDS, VGATH (R269, R271). -/
  | vload
  /-- ST, VST, VSCAT and drained lines of the write-through buffer (R241, R92). -/
  | store
  /-- An AMO form on 4 or 8 bytes (R250). -/
  | amo (f : AmoOp) (dbl : Bool)
  /-- SHIP of a routine (R253). -/
  | ship (n : Nat)
  /-- TAG.GET (R245). -/
  | tagGet
  /-- TAG.SET to a tag (R246). -/
  | tagSet (x : Tag)
  /-- ST.EMPTY (R243). -/
  | stEmpty
  /-- LD.WAIT, LD.TAKE, ST.FILL, VLD.TAKE, VST.FILL by the KIND code of R65. -/
  | fe (kind : Nat)
  /-- A load from the device-register window (R228). -/
  | device
  /-- The zero-length read by which a release at .s follows host writes (R106). -/
  | flush
deriving DecidableEq, Repr

/-- Where a piece of an in-flight access stands (R21-R24, R36, R62, R92). -/
inductive Route where
  /-- Waits for the map read of its vtile (R20, R24). -/
  | mapRead
  /-- On its way to a resident tile with the GEN it was routed by (R24). -/
  | sent (gen : Nat)
  /-- Answered STALE (R24). -/
  | stale
  /-- Held at the requesting NI (R21, R22). -/
  | held
  /-- On its way to the loft chandler (R21, R84). -/
  | loft
  /-- Waits for the line fill it joined (R92). -/
  | l1
  /-- Waits for buffered stores to its bytes (R92). -/
  | buffered
  /-- On its way to the anchor stack (R36). -/
  | anchor
  /-- On its way to a stack, by the frame the NI or the anchor named (R36). -/
  | stack (stk frame : Nat)
  /-- Answered REROUTE (R36). -/
  | reroute
  /-- On its way to a host port (R106). -/
  | port
  /-- At its home between attempts: the number of the next attempt and when it is due (R62). -/
  | retry (k due : Nat)
  /-- Performed. -/
  | done
  /-- Met POISON at this virtual address (R60). -/
  | poison (va : Word)
deriving DecidableEq, Repr

/-- One write inside a piece: byte offset of a word in the piece, its bytes as a number, which bytes (bit i for byte i),
and whether it is a whole-word write (R56, R57). -/
structure WItem where
  off   : Nat
  mask  : Nat
  data  : Nat
  whole : Bool
deriving DecidableEq, Repr

/-- Bytes a piece reads: offset in the piece, byte position in the access's value, count. -/
structure RItem where
  off : Nat
  pos : Nat
  len : Nat
deriving DecidableEq, Repr

/-- A piece of an access: what it does in one single-copy atomic unit (R107, R110, R126). -/
structure Part where
  /-- First byte of the unit. -/
  home   : Home
  /-- The address the access used for that byte. -/
  va     : Word
  reads  : List RItem
  writes : List WItem
  route  : Route
deriving DecidableEq, Repr

/-- An in-flight access. -/
structure MemOp where
  id    : Nat
  hart  : HartId
  kind  : OpKind
  rel   : Bool
  /-- Register the result goes to. -/
  dest  : Option (File × Reg)
  /-- The value gathered so far, or the data to write. -/
  val   : VWord
  /-- First and second operand (AMO y and e; SHIP c1 and c2). -/
  x     : Word
  y     : Word
  parts : List Part
  /-- Retry schedule captured at issue: BASE, CAP, BUDGET (R62). -/
  sched : Nat × Nat × Nat
  /-- The harts and numbers of the stores a drained line holds (R92). -/
  who   : List (HartId × Nat)
deriving DecidableEq, Repr

/-- A reason for which later accesses of a hart wait (R132, R134): the accesses numbered below `upto` (or only
number `upto - 1`) whose reads must have returned, or whose writes must have been acknowledged, and what is held. -/
structure Hold where
  upto    : Nat
  single  : Bool
  reads   : Bool
  writes  : Bool
  stops   : Bool
  stopsWr : Bool
  drop    : Bool
deriving DecidableEq, Repr

/-- A result queued in the vector unit (R154, R256, R257): what it writes when the unit issues it, and its cost. -/
structure VOp where
  cost : Nat
  dest : Option (File × Reg)
  val  : VWord
  /-- The access whose result this entry also waits for, for the vector memory forms (R256). -/
  op   : Option Nat
deriving DecidableEq, Repr

/-- The repeat sequencer at work (R218, R219). -/
structure RptSeq where
  body  : Word
  words : List IWord
  n1    : Nat
  count : Nat
  pass  : Nat
  pos   : Nat
  sd    : Nat
  sa    : Nat
  sb    : Nat
deriving DecidableEq, Repr

/-- States of a hart (R152). -/
inductive RunState where
  | running | blocked | parked | sleeping | halted
deriving DecidableEq, Repr

/-- A trap that waits for the hart's next instruction boundary (R60, R66, R171). -/
structure Posted where
  cause : Nat
  info  : Word
  addr  : Option Word
deriving DecidableEq, Repr

/-- The system registers that hold a value of their own (R211); the others are views (Operands.lean). -/
structure Sys where
  status   : Word
  cause    : Word
  epc      : Word
  einfo    : Word
  faddr    : Word
  utvec    : Word
  stvec    : Word
  scratch  : Word
  sepc     : Word
  scause   : Word
  seinfo   : Word
  sfaddr   : Word
  sscratch : Word
  retry    : Word
  ferec    : Word
  parkbase : Word
  rptstate : Word
  rspill   : Word
  ptile    : Word
  preq     : Word
  pdead    : Word
  msgmax   : Word
  vshare   : Word
  ptbase   : Word
  flimit   : Word
deriving DecidableEq, Repr

/-- A hart's part in a barrier group (R276): membership, the phase of its last arrival, PASSED, whether that
arrival is recorded, and the last phase whose release has reached the hart. -/
structure HartBar where
  member : Bool
  phase  : BitVec 32
  passed : Bool
  sent   : Bool
  seen   : BitVec 32
  /-- The absent gangs for which the block on this arrival has raised its tile fault (R174). -/
  faulted : List GangId
deriving DecidableEq, Repr

/-- An entry of the slot map (R298). -/
structure SlotRef where
  cluster : Nat
  slot    : Nat
  gen     : BitVec 16
deriving DecidableEq, Repr

/-- What a matrix command does (R294). -/
inductive MxKind where
  | zero | mac (transposed z : Bool) | rd (hi : Bool) (d : Reg) | wr (add : Bool) | delta (bf r : Bool) | qry (bf : Bool)
  | spill | load | bld | free | sync (scope : Scope)
deriving DecidableEq, Repr

/-- A name of a tile's B map (R302). -/
structure BName where
  fmt  : BitVec 5
  k    : Nat
  n    : Nat
  gid  : Nat
deriving DecidableEq, Repr

/-- A matrix command in a hart's request queue (R293, R320, R421). -/
structure MxCmd where
  id       : Nat
  hart     : HartId
  kind     : MxKind
  /-- Virtual slot name. -/
  n        : KReg
  /-- Format context at issue (R296). -/
  ctx      : Word
  /-- Operand words g[d], g[a], g[b]. -/
  wd       : Word
  wa       : Word
  wb       : Word
  /-- Vector operand (MX.WR). -/
  vv       : VWord
  /-- Granule name (MX.BLD, MX.MAC, MX.MACT). -/
  name     : Option (BitVec 6)
  /-- The granule an MX.BLD loads or releases. -/
  gid      : Nat
  /-- The entry of the B map that the name of an MX.MAC or MX.MACT had at issue (R304, R306). -/
  entry    : Option BName
  /-- Index for FIRST (R318). -/
  index    : Nat
  started  : Bool
  progress : Nat
  /-- Mode at issue and root. -/
  user     : Bool
  root     : Nat
  /-- Translations kept until the command completes: 64 KiB page of the VA, with bit 0 set for a destination, and its home (R421). -/
  pages    : List (Word × Home)
deriving DecidableEq, Repr

/-- The error record of a hart's matrix commands (R318). -/
structure MxErr where
  reason : Nat
  nerr   : Nat
  first  : Nat
  count  : Nat
deriving DecidableEq, Repr

/-- The forms of the copy engine (R279). -/
inductive CpKind where
  | copy | rows | imageOut | imageIn | fill | verify
deriving DecidableEq, Repr

/-- A piece at work of a peer copy (R403): its next word and the word after its last, in the command's word order, and its switch plane. -/
structure CpPiece where
  next  : Nat
  last  : Nat
  plane : Nat
deriving DecidableEq, Repr

/-- A copy command (R279-R290). -/
structure CpCmd where
  id      : Nat
  hart    : HartId
  kind    : CpKind
  mode    : Nat
  scope   : Scope
  dst     : Word
  src     : Word
  /-- Bytes moved (copy, fill), bytes per row (rows), length limit (verify). -/
  count   : Nat
  rows    : Nat
  sstride : Word
  dstride : Word
  pattern : VWord
  key     : BitVec 4
  cwHome  : Home
  /-- Mode and root at issue, under which later pages are translated (R286). -/
  user    : Bool
  root    : Nat
  started : Bool
  /-- Next word in the command's word order. -/
  next    : Nat
  nerr    : Nat
  firstBad : Option Nat
  reason  : Nat
  stopped : Option Nat
  /-- Tag bits gathered for the image of a page (R82). -/
  tags    : Nat
  /-- Length found by CP.VERIFY (R285). -/
  length  : Nat
  /-- Pages translated: the page's VA, with bit 0 set for a destination, and its home. -/
  pages   : List (Word × Home)
  /-- The pieces at work of a peer copy (R403); `next` is then the first word of none of them yet. -/
  pieces  : List CpPiece
  /-- What CP.VERIFY has read of its image (R280, R289). -/
  read    : List Byte
deriving DecidableEq, Repr

/-- An entry of a TLB: the root it was walked from, the first VA of its page, log2 of the page size, and the leaf
(R29, R32). -/
structure TlbEntry where
  root : Nat
  base : Nat
  bits : Nat
  leaf : Word
deriving DecidableEq, Repr

/-- A page walk (R28, R33): who missed, the page's VA, the level it is at, the table it reads, and the prefetches that wait for it
(R248). -/
structure Walk where
  id    : Nat
  root  : Nat
  va    : Nat
  level : Nat
  table : Nat
  harts : List HartId
  prefs : List (HartId × Word)
deriving DecidableEq, Repr

/-- A translation miss of the instruction at a hart's program counter: the walk that it waits for, the page, and the reason and the
level of the fault that the walk has ended in (R33). -/
structure Miss where
  walk  : Nat
  page  : Nat
  fault : Option (Nat × Nat)
deriving DecidableEq, Repr

/-- A line of the decoded-op cache (R424, R394). -/
structure OpLine where
  root  : Nat
  block : Nat
  major : BitVec 8
  minor : BitVec 8
  words : List IWord
deriving DecidableEq, Repr

/-- A message (R167). -/
structure Msg where
  header  : Word
  payload : VWord
deriving DecidableEq, Repr

/-- Where a message that is not placed stands (R169-R171). -/
inductive MsgRoute where
  /-- On its way to the target's NI, by the GEN it was routed by (R24). -/
  | sent (gen : Nat)
  /-- Held by the sender, the hart's NI or the front end, until it can read the map entry of the target (R22). -/
  | mapRead
  /-- On its way to the carrier queue's home, from the target NI or the sender's. -/
  | append
  /-- Refused by a full carrier queue (R171). -/
  | refused
  /-- Placed, its acknowledgement on the way (R170). -/
  | placed
deriving DecidableEq, Repr

/-- A tile fault that the ostler has logged under QUEUE_ONLY (R175, R176): the absent gang, the faulting vtile, whether it is a MESSAGE
fault, and the faults its record counts. -/
structure FaultRec where
  gang  : GangId
  vt    : BitVec 20
  isMsg : Bool
  count : Nat
deriving DecidableEq, Repr

/-- A message sent and not yet acknowledged. The sender is a hart, or the front end for a launch record. -/
structure Sent where
  id    : Nat
  src   : Option HartId
  queue : BitVec 12
  dst   : TileId
  msg   : Msg
  route : MsgRoute
deriving DecidableEq, Repr

/-- States of an accumulator slot (R297); `zeroing` marks a slot on its way to FREE (R300, R321). -/
inductive SlotState where
  | free | owned | pinned | evicted
deriving DecidableEq, Repr

/-- A physical accumulator slot and its entry of the ownership table (R297): elements (i, j) at 256 i + j, canonical
(rising keys, no +0). -/
structure AccSlot where
  st      : SlotState
  owner   : HartId
  gen     : BitVec 16
  acc     : List (Nat × BitVec 40)
  zeroing : Bool
deriving DecidableEq, Repr

/-- The context of a hart (R149, R372). -/
structure Hart where
  pc      : Word
  g       : Vector Word 32
  v       : Vector VWord 32
  k       : Vector Word 8
  gFull   : BitVec 32
  vFull   : BitVec 32
  run     : RunState
  sy      : Sys
  rbufVa  : Word
  rbufVal : VWord
  /-- A wake that carried MORE has arrived (R74). -/
  more    : Bool
  /-- When a filling PARK that found the fill-wait table full tries again (R72). -/
  parkDue : Option Nat
  rpt     : Option RptSeq
  /-- A repeat state still to be resumed before the next instruction (R221, R368). -/
  resume  : Option Word
  rstack  : List Word
  liveSet : BitVec 4
  latch   : Bool
  wfeDue  : Option Nat
  irqs    : List (BitVec 16)
  posted  : List Posted
  stepPend : Option Bool
  vq      : List VOp
  bars    : Map (BitVec 4) HartBar
  ctx     : Word
  slots   : Map KReg SlotRef
  /-- Slots saved at swap-out, by name (R321). -/
  saved   : Map KReg AccSlot
  mxq     : List MxCmd
  mxErr   : MxErr
  cps     : List CpCmd
  holds   : List Hold
  tlb     : List TlbEntry
  /-- The misses of the instruction at the program counter; one that retires, or is left by a trap, leaves none (R15, R33). -/
  misses : List Miss
  ops     : List OpLine
  major   : BitVec 8
  minor   : BitVec 8
  stopped : Bool
  stoppc  : Word
  stoprpt : Word
  live    : Bool
  /-- The launch whose record the hart has taken and not yet ended by HALT (R342). -/
  launch  : Option Nat
  /-- The number of the outstanding full/empty access, which its reissue after a swap keeps; none for the reissue of a TRET, which is
  an access of that moment (R67, R79, R132). -/
  feId    : Option Nat
  /-- Host ports that the hart has written through since its last flushing read there (R106). -/
  hostWrote : List Nat
deriving DecidableEq, Repr

/-- A line of the L1 data cache (R91): its home, data, tags, when it was filled, and whether its parity has failed (R95). -/
structure L1Line where
  line   : Nat
  home   : Home
  data   : VWord
  tags   : List Tag
  filled : Nat
  bad    : Bool
deriving DecidableEq, Repr

/-- A line of the write-through buffer (R92, R147): its home, the writes merged into it with the hart and the
number of each, and whether a release keeps later stores out of it (R134). -/
structure WbLine where
  va     : Word
  home   : Home
  writes : List (HartId × Nat × WItem)
  closed : Bool
  /-- A release store whose conditions hold the line back (R134). -/
  rel    : Bool
deriving DecidableEq, Repr

/-- The states of a tile-map entry (R19). -/
inductive MapState where
  | invalid | resident | settling | absent
deriving DecidableEq, Repr

/-- A tile-map entry (R19); `bad` marks an uncorrectable error in it (R22). -/
structure MapEntry where
  lslot : Option Nat
  gen   : Nat
  ptile : Nat
  fresh : Bool
  dirIn : Bool
  st    : MapState
  bad   : Bool
deriving DecidableEq, Repr

/-- The context of a tile (R153, R372). -/
structure Tile where
  inbox   : List Msg
  backlog : List Msg
  fillWait : List Nat
  bmap    : Map (BitVec 6) BName
  dc      : Vector Int 4
  opened  : Vector Bool 4
  turn    : BitVec 2
  tlb2    : List TlbEntry
  walkCache : List (Nat × Nat × Nat × Nat)
  walks   : List Walk
  l1      : List L1Line
  wbuf    : List WbLine
  mapCache : List (BitVec 20 × MapEntry)
  mapWants : List (BitVec 20)
  dpit    : List (Nat × Nat × Nat)
  /-- Claimed granules: the command, and a range of home keys (R139). -/
  claims  : List (Nat × Nat × Nat)
  entry   : MapEntry
  slotClearing : Bool
  /-- The lines with NC = 0 that demand accesses of the tile have touched, which the prefetcher's streams follow (R52). -/
  streams : List Nat
  /-- Parity errors that hits in the L1 have met (R95). -/
  parityErrs : Nat
deriving DecidableEq, Repr

/-- A lane of an engine (R294): counters of the 16 harts, turn pointer, and the command it runs. -/
structure Lane where
  dc  : Map HartId Int
  ptr : Nat
  run : Option (HartId × Nat)
deriving DecidableEq, Repr

/-- A key slot (R99): the tableau and its pair of XTS keys. -/
structure KeySlot where
  tab : BitVec 16
  k1  : BitVec 256
  k2  : BitVec 256
deriving DecidableEq, Repr

/-- A cluster (R158): its slots, lanes and four key slots. -/
structure Cluster where
  slots : Vector AccSlot 8
  array : Lane
  slot  : Lane
  bload : Lane
  keys  : Vector (Option KeySlot) 4
deriving DecidableEq, Repr

/-- A granule that is HELD (R97, R303), under its GID: its owner, the key-slot number, the cluster that holds it or none for the loft,
and its 64-byte units as ciphertext (R98), unit u of column j at 16 j + u. A unit not listed is that of 64 zero bytes. -/
structure Granule where
  tab     : BitVec 16
  key     : BitVec 2
  cluster : Option Nat
  /-- The K and N that it is loaded with (R302, R307): both 0 when it is zeroed. -/
  k       : Nat
  n       : Nat
  units   : Map Nat VWord
deriving DecidableEq, Repr

/-- The states of a gang (R162). -/
inductive GangState where
  | absent | settlingIn | resident | settlingOut
deriving DecidableEq, Repr

/-- The scheduling states of a gang (R347). -/
inductive SchedState where
  | idle | runnable | placing | running | stopping | saving
deriving DecidableEq, Repr

/-- A gang (R159-R162, R347-R348, R174-R175). -/
structure Gang where
  st      : GangState
  sched   : SchedState
  x0      : Nat
  y0      : Nat
  orient  : Bool
  prio    : Nat
  readyAt : Nat
  placedAt : Nat
  /-- T0 of the stop request (R367). -/
  raisedAt : Nat
  /-- Unanswered tile fault: the faulting vtile, whether it is a MESSAGE fault, and the faults counted (R175). -/
  fault   : Option (BitVec 20 × Bool × Nat)
  /-- The context stands in the shadow of the gang's last tiles, not in the loft (R373, R375). -/
  inShadow : Bool
  placed  : Bool
  expired : Bool
deriving DecidableEq, Repr

/-- A declared barrier group (R178, R386). -/
structure GroupDecl where
  grp   : BitVec 4
  s0    : Nat
  s1    : Nat
  n0    : Nat
  n1    : Nat
  t0    : Nat
  t1    : Nat
  hmask : BitVec 4
deriving DecidableEq, Repr

/-- A barrier group at work (R177-R182): the current phase, and the plane it runs on when wired. -/
structure Group where
  phase : BitVec 32
  plane : Option (BitVec 3)
deriving DecidableEq, Repr

/-- A wake held for an absent gang (R76). -/
structure HeldWake where
  hart : HartId
  more : Bool
deriving DecidableEq, Repr

/-- A tableau (R164, R399). -/
structure Tableau where
  args    : TblArgs
  shape   : Option (Nat × Nat)
  alive   : Bool
  queueOnly : Bool
  groups  : Map (BitVec 4) GroupDecl
  state   : Map (BitVec 4) Group
  keys    : List (BitVec 4 × List Byte)
  peers   : Map Nat (Nat × BitVec 16)
  xlate   : List (List Byte × Word)
  wakes   : List HeldWake
  lastPrio : Nat
  /-- SY.PARKBASE as it names the tableau's park table (R69). -/
  parkbase : Word
  /-- DPA of the tile map (R19). -/
  mapBase : Nat
  /-- The pair of XTS keys (R98, R100). -/
  xts     : BitVec 256 × BitVec 256
deriving DecidableEq, Repr

/-- A park record (R70): its park key, sequence number, kind, and whether it is linked or woken; the waiter is a hart
or the front end for a queue's gate word. -/
structure ParkRec where
  tab   : BitVec 16
  key   : Nat
  seq   : Nat
  kind  : Nat
  hart  : Option HartId
  queue : BitVec 12
  woken : Bool
  more  : Bool
deriving DecidableEq, Repr

/-- List work sent to the home of a bucket (R68): link a record, or wake for the loads and takers, or for the fillers, of the words
that one action changed; the words of a line share a bucket (R70). -/
inductive ParkReq where
  | link (r : ParkRec)
  | loads (tab : BitVec 16) (keys : List Nat)
  | filler (tab : BitVec 16) (keys : List Nat)
deriving DecidableEq, Repr

/-- A wake on its way to a waiter (R74). -/
structure WakeMsg where
  id    : Nat
  tab   : BitVec 16
  hart  : Option HartId
  queue : BitVec 12
  more  : Bool
deriving DecidableEq, Repr

/-- States of a launch (R344). -/
inductive LaunchState where
  | pending | dispatched | done | cancelled | killed
deriving DecidableEq, Repr

/-- The kernel header's fields the machine uses (R385-R388). -/
structure Header where
  queueOnly : Bool
  stages  : Nat
  gw      : Nat
  gh      : Nat
  entry   : Word
  cend    : Word
  slice   : Nat
  /-- One more than the highest g and v register that the image names. -/
  ng      : Nat
  nv      : Nat
  major   : BitVec 8
  minor   : BitVec 8
  groups  : List GroupDecl
deriving DecidableEq, Repr

/-- A launch (R337-R346): its entry as eight words, its state, and the header selected for it. -/
structure Launch where
  id     : Nat
  index  : Nat
  words  : List Word
  state  : LaunchState
  header : Option Header
  status : Nat
  readable : Bool
  /-- The completion fill of the launch is still to be made (R342). -/
  fill   : Bool
  /-- Waits for a translation of the EVI image with this digest (R392). -/
  waits  : Option (List Byte)
  /-- MSI-X vector in force at its dispatch (R333). -/
  vector : Nat
  /-- Started harts that have not yet ended their part (R342). -/
  left   : List HartId
  /-- Those that have, each with the number after its last access: the fill follows them all (R342). -/
  ended  : List (HartId × Nat)
deriving DecidableEq, Repr

/-- What the front end keeps for a queue's gate word (R400). -/
structure Gate where
  va     : Word
  /-- The attempt to come and when it is due (R62). -/
  tries  : Nat
  due    : Nat
  /-- The home of the word when the record was linked under its key. -/
  linked : Option Home
  /-- A wake has come for the record, and no attempt since has relinked it. -/
  woken  : Bool
  /-- The launch for which the word was found FULL: the next to be dispatched. -/
  full   : Option Nat
deriving DecidableEq, Repr

/-- A MIGRATE waiting for its freeze (R409). -/
structure Migration where
  caller   : Caller
  dst      : BitVec 12
  wafer    : Nat
  newGate  : Word
  deadline : Nat
deriving DecidableEq, Repr

/-- A hardware queue (R333-R346, R395, R400). -/
structure Queue where
  cfg0    : Word
  cfg1    : Word
  cfg2    : Word
  /-- The mirrors last written: copies of QCFG0, QCFG1 and QCFG2 (R336). -/
  mirrors : Option (Word × Word × Word)
  tail    : BitVec 32
  head    : BitVec 32
  mismatch : Nat
  cwerr   : Bool
  ovf     : Bool
  killed  : Bool
  cancelSeq : BitVec 32
  result  : Nat
  done    : Word
  badSeq  : Word
  badCount : Word
  qcbLogged : Bool
  launches : List Launch
  gate    : Option Gate
  port    : BitVec 2
  vf      : BitVec 8
  migration : Option Migration
deriving DecidableEq, Repr

/-- A firmware call in progress (R398): the call, the block and, once known, the status word. -/
structure FwCall where
  busy   : Bool
  reg    : Word
  block  : Option Home
  status : Option Word
  outs   : List (Nat × Word)
  started : Bool
deriving DecidableEq, Repr

/-- A storage transfer running (R401). -/
structure Transfer where
  caller : Caller
  write  : Bool
  args   : StoreArgs
deriving DecidableEq, Repr

/-- A DPIT entry (R35) with the export flag of MEM_PIN (R396, R399). -/
structure DpitEntry where
  pin    : Bool
  valid  : Bool
  frame  : Nat
  stk    : Nat
  exported : Bool
deriving DecidableEq, Repr

/-- The drover: DRV.CTL (R40), the start of the tracking period, pages moved in it and their count, and the pages chosen with
the stack each goes to (R41), and the accesses to each page in this period and in the one before. -/
structure Drover where
  ctl   : Word
  since : Nat
  moved : List Nat
  moves : List (Nat × Nat)
  used  : Nat
  counts : Map Nat Nat
  seen   : Map Nat Nat
deriving DecidableEq, Repr

/-- The ostler's registers and timers (R347-R353): OST.CFG, OST.SLICE0, OST.SLICE1, and whether a pass is due. -/
structure Ostler where
  cfg    : Word
  slice0 : Word
  slice1 : Word
  due    : Bool
  lastPass : Nat
deriving DecidableEq, Repr

/-- Power (R408): the mode in force and a mode written and not yet in effect. -/
structure Power where
  mode : BitVec 2
  next : Option (BitVec 2)
deriving DecidableEq, Repr

/-- The head factor's lease and the start (R404, R406, R407). -/
structure Factors where
  head     : Nat
  live     : Vector Bool 64
  deciding : Bool
  renewed  : Nat
  started  : Bool
  failedAt : Nat
  recovery : Bool
  /-- The factor image that the flash holds: its number, and that its write was not interrupted (R407). -/
  image    : Nat
  whole    : Bool
deriving DecidableEq, Repr

/-- An error record (R381). -/
structure ErrRec where
  kind   : Nat
  source : Nat
  fatal  : Bool
  count  : Nat
  time   : Nat
  tab    : BitVec 16
  vt     : BitVec 20
  hart   : BitVec 2
  va     : Word
  dpa    : Nat
  detail : Word
deriving DecidableEq, Repr

/-- The error ring's configuration (R399): who configured it and whether BASE is an address behind its port, the entries, the
MSI-X vector, and how many records there were before. -/
structure ErrRing where
  caller : Caller
  host   : Bool
  base   : Word
  count  : Nat
  vector : Nat
  first  : Nat
deriving DecidableEq, Repr

/-- An answer of the part to an outside party (R342, R396, R405), a notice to system software that an EVI image has no translation
(R392), or the blocks that a STORE_WRITE sends to flash (R401). -/
inductive Answer where
  | untranslated (tab : BitVec 16) (digest : List Byte)
  | flash (args : StoreArgs) (data : List Byte)
  | msix (vector : Nat)
  | read (port : BitVec 2) (dpa : Nat) (value : Option (List Byte))
  | spdm (port : BitVec 2) (index : Nat) (value : List Byte)
deriving DecidableEq, Repr

/-- A tableau-wide invalidation on VC3 (R331): the tile it goes to, the form (TLB.INV or IC.INV), the kind, the
address, the hart that waits for its acknowledgement, and whether it has come. -/
structure InvMsg where
  id    : Nat
  tile  : TileId
  tlb   : Bool
  kind  : Nat
  addr  : Word
  src   : HartId
  acked : Bool
deriving DecidableEq, Repr

/-- The machine. -/
structure State where
  agenda   : List Instr
  focus    : HartId
  turns    : List HartId
  tick     : Nat
  nextId   : Nat
  now      : Nat
  harts    : Map HartId Hart
  tiles    : Map TileId Tile
  mem      : Store
  ops      : List MemOp
  msgs     : List Sent
  parks    : List ParkRec
  buckets  : Map (BitVec 16 × Nat) Nat
  hbmFill  : List Nat
  parkReqs : List (Nat × ParkReq)
  wakes    : List WakeMsg
  invs     : List InvMsg
  clusters : Map Nat Cluster
  granules : Map Nat Granule
  nextGid  : BitVec 32
  tabs     : Map (BitVec 16) Tableau
  gangs    : Map GangId Gang
  queues   : Map (BitVec 12) Queue
  headers  : List ((BitVec 16 × Word) × Option Header)
  routines : Map Nat (List Word)
  dpit     : Map Nat DpitEntry
  loftSize : Nat
  loftUsed : List Nat
  loftFrames : List (TileId × Nat)
  retired  : List Nat
  latentUE : List Nat
  calls    : Map Caller FwCall
  transfer : List Transfer
  drover   : Drover
  ostler   : Ostler
  power    : Power
  factors  : Factors
  duty     : Map Nat (List Nat)
  tdis     : List (BitVec 2 × BitVec 8)
  /-- The MSI-X tables of the host functions: by port, function and word (R397). -/
  msixTable : Map ((BitVec 2 × BitVec 8) × Nat) Word
  cxlPorts : BitVec 4
  errors   : List ErrRec
  errRing  : Option ErrRing
  faultLog : List FaultRec
  answers  : List Answer
deriving DecidableEq, Repr

/-- Reset values of the system registers (R16, R29, R49, R63, R65, R69, R156, R173, R215, R220, R358-R366). -/
def Sys.reset : Sys :=
  { status := 0, cause := 0, epc := 0, einfo := 0, faddr := 0, utvec := 0, stvec := 0, scratch := 0, sepc := 0,
    scause := 0, seinfo := 0, sfaddr := 0, sscratch := 0, retry := 0x4000800040, ferec := 0, parkbase := 0,
    rptstate := 0, rspill := 0, ptile := 0, preq := 0, pdead := 40000, msgmax := 4, vshare := 1, ptbase := 0,
    flimit := 0 }

/-- A hart at reset (R77, R152, R276, R296). Registers the spec gives no reset value hold zero: DESIGN CHOICE, log entry 2. -/
def Hart.reset : Hart :=
  { pc := 0, g := Vector.replicate 32 0, v := Vector.replicate 32 0, k := Vector.replicate 8 0,
    gFull := 0xFFFFFFFF, vFull := 0xFFFFFFFF, run := .halted, sy := Sys.reset, rbufVa := 0, rbufVal := 0, more := false,
    parkDue := none, rpt := none, resume := none, rstack := [], liveSet := 0, latch := false, wfeDue := none, irqs := [], posted := [],
    stepPend := none, vq := [], bars := [], ctx := 0x111111, slots := [], saved := [], mxq := [],
    mxErr := { reason := 0, nerr := 0, first := 0, count := 0 }, cps := [], holds := [], tlb := [], misses := [],
    ops := [], major := 1, minor := 0, stopped := false, stoppc := 0, stoprpt := 0, live := false, launch := none,
    feId := none, hostWrote := [] }

/-- A tile-map entry before its tableau is created: ST INVALID (R19). -/
def MapEntry.reset : MapEntry :=
  { lslot := none, gen := 0, ptile := 0, fresh := false, dirIn := false, st := .invalid, bad := false }

/-- A tile context at reset (R54, R154, R163). -/
def Tile.reset : Tile :=
  { inbox := [], backlog := [], fillWait := [], bmap := [], dc := Vector.replicate 4 0,
    opened := Vector.replicate 4 false, turn := 0, tlb2 := [], walkCache := [], walks := [], l1 := [], wbuf := [],
    mapCache := [], mapWants := [], dpit := [], claims := [], entry := MapEntry.reset, slotClearing := false,
    streams := [], parityErrs := 0 }

/-- A barrier membership at reset: no member, PASSED = 1 (R276). -/
def HartBar.reset : HartBar := 
  { member := false, phase := 0, passed := true, sent := true, seen := 0, faulted := [] }

/-- An accumulator slot at reset: FREE, every element +0 (R297). -/
def AccSlot.reset : AccSlot :=
  { st := .free, owner := { tile := { tab := 0, vt := 0 }, num := 0 }, gen := 0, acc := [], zeroing := false }

/-- A lane at reset: counters and pointer 0 (R294). -/
def Lane.reset : Lane := { dc := [], ptr := 0, run := none }

/-- A cluster at reset. -/
def Cluster.reset : Cluster :=
  { slots := Vector.replicate 8 AccSlot.reset, array := Lane.reset, slot := Lane.reset, bload := Lane.reset,
    keys := Vector.replicate 4 none }

/-- A gang before its first placement: ABSENT and IDLE (R23, R347). -/
def Gang.reset : Gang :=
  { st := .absent, sched := .idle, x0 := 0, y0 := 0, orient := false, prio := 0, readyAt := 0, placedAt := 0, raisedAt := 0,
    fault := none, inShadow := false, placed := false, expired := false }

/-- A queue at reset: every register zero, DISABLED (R333, R334). -/
def Queue.reset : Queue :=
  { cfg0 := 0, cfg1 := 0, cfg2 := 0, mirrors := none, tail := 0, head := 0, mismatch := 0,
    cwerr := false, ovf := false, killed := false, cancelSeq := 0, result := 0, done := 0, badSeq := 0, badCount := 0,
    qcbLogged := false, launches := [], gate := none, port := 0, vf := 0, migration := none }

/-- No firmware call (R398). -/
def FwCall.reset : FwCall :=
  { busy := false, reg := 0, block := none, status := none, outs := [], started := false }

/-- A DPIT entry at reset: not VALID (R35). -/
def DpitEntry.reset : DpitEntry := { pin := false, valid := false, frame := 0, stk := 0, exported := false }

/-- A barrier group at reset: no phase has passed, so the first is current; extended (R276, R181). (DEDUCED: log entry 29.) -/
def Group.reset : Group := { phase := 1, plane := none }

/-- The machine right after its start (R404 step 7): no tableau, no queue enabled, SY.CYCLE zero, every register at
the value its map states (R40, R353, R408). What the spec leaves open is named in log entries 1 to 4. (DESIGN CHOICE: log entry 4.) -/
def State.reset : State :=
  { agenda := [], focus := { tile := { tab := 0, vt := 0 }, num := 0 }, turns := [], tick := 0, nextId := 0, now := 0,
    harts := [], tiles := [], mem := { cells := [], tags := [] }, ops := [], msgs := [], parks := [], buckets := [], hbmFill := [],
    parkReqs := [], wakes := [], invs := [], clusters := [], granules := [], nextGid := 0, tabs := [],
    gangs := [], queues := [], headers := [], routines := [], dpit := [], loftSize := 16384, loftUsed := [],
    loftFrames := [], retired := [], latentUE := [], calls := [], transfer := [],
    drover := { ctl := 0x1000191, since := 0, moved := [], moves := [], used := 0, counts := [], seen := [] },
    ostler := { cfg := 0x40064, slice0 := 0x03E803E803E803E8, slice1 := 0x03E803E803E803E8, due := false, lastPass := 0 },
    power := { mode := 0, next := none },
    factors := { head := 0, live := Vector.replicate 64 true, deciding := true, renewed := 0, started := true,
                 failedAt := 0, recovery := false, image := 0, whole := true },
    duty := [], tdis := [], msixTable := [], cxlPorts := 0, errors := [], errRing := none, faultLog := [], answers := [] }

end Sys2Proof.Machine
end

