-- ==== Sys2Proof/Machine/Ops.lean ====
section
/-!
DEFINITION. The named operations that the meanings share: finite maps and canonical lists, bit fields, the parts of
State, memory by home (R25, R87), the address ranges of R11, registers (R210), the clock, error records (R381), taking a
trap and returning from one (R355-R364), stopping (R367, R368), and the end of an instruction.
-/

namespace Sys2Proof

/-- The gang of a tile (R17). -/
def TileId.gang (t : TileId) : GangId :=
  { tab := t.tab, stage := t.vt.extractLsb' 16 4, gang := t.vt.extractLsb' 6 10 }

/-- A tile's number in its gang (R17). -/
def TileId.inGang (t : TileId) : Nat := t.vt.toNat % 64

/-- The tile of a vtile number. -/
def tileId (tab : BitVec 16) (stage gang tile : Nat) : TileId :=
  { tab := tab, vt := BitVec.ofNat 20 (stage * 65536 + gang % 1024 * 64 + tile % 64) }

/-- The four harts of a tile. -/
def TileId.harts (t : TileId) : List HartId := [⟨t, 0⟩, ⟨t, 1⟩, ⟨t, 2⟩, ⟨t, 3⟩]

/-- The tiles of a gang, in order. -/
def GangId.tiles (g : GangId) (n : Nat) : List TileId := (List.range n).map (tileId g.tab g.stage.toNat g.gang.toNat)

end Sys2Proof

namespace Sys2Proof.Machine

/-- Inserts by an order. -/
def insertBy {α : Type} (lt : α → α → Bool) (x : α) : List α → List α
  | [] => [x]
  | y :: ys => if lt y x then y :: insertBy lt x ys else x :: y :: ys

def sortBy {α : Type} (lt : α → α → Bool) (xs : List α) : List α := xs.foldr (insertBy lt) []

/-- What a step answers. -/
abbrev Out := Host.Outcome State Fault Refusal

/-! ## Finite maps and canonical lists -/

/-- The value of a key. -/
def find {κ α : Type} [DecidableEq κ] (k : κ) : Map κ α → Option α
  | [] => none
  | (k', v) :: m => if k' = k then some v else find k m

/-- The value of a key, or a default. -/
def findD {κ α : Type} [DecidableEq κ] (k : κ) (m : Map κ α) (d : α) : α := (find k m).getD d

/-- Sets the value of a key. -/
def put {κ α : Type} [DecidableEq κ] (k : κ) (v : α) : Map κ α → Map κ α
  | [] => [(k, v)]
  | (k', v') :: m => if k' = k then (k, v) :: m else (k', v') :: put k v m

/-- Removes a key. -/
def del {κ α : Type} [DecidableEq κ] (k : κ) (m : Map κ α) : Map κ α := m.filter fun p => p.1 ≠ k

/-- The entry of a canonical list, or what an unlisted key reads as. -/
def look {α : Type} (d : α) (k : Nat) : List (Nat × α) → α
  | [] => d
  | (k', v) :: m => if k' = k then v else look d k m

/-- Sets an entry of a canonical list, keeping the keys rising and listing no default. -/
def store {α : Type} [DecidableEq α] (d : α) (k : Nat) (v : α) : List (Nat × α) → List (Nat × α)
  | [] => if v = d then [] else [(k, v)]
  | (k', v') :: m =>
    if k < k' then (if v = d then (k', v') :: m else (k, v) :: (k', v') :: m)
    else if k = k' then (if v = d then m else (k, v) :: m)
    else (k', v') :: store d k v m

/-- Drops the entries of keys in [lo, hi): they read as the default. -/
def wipe {α : Type} (lo hi : Nat) (m : List (Nat × α)) : List (Nat × α) := m.filter fun p => p.1 < lo || hi ≤ p.1

/-- The keys above `lo` rise and no entry is the default. -/
def canonFrom {α : Type} [DecidableEq α] (d : α) : Option Nat → List (Nat × α) → Bool
  | _, [] => true
  | lo, (k, v) :: m => (match lo with | none => true | some l => decide (l < k)) && decide (v ≠ d) && canonFrom d (some k) m

/-- A canonical list: keys strictly rising, no entry equal to the default. -/
def canon {α : Type} [DecidableEq α] (d : α) (m : List (Nat × α)) : Bool := canonFrom d none m

/-! ## Bit fields and byte order (R6) -/

/-- Bits [lo + len - 1 : lo] as a number. -/
def bits (w : Word) (lo len : Nat) : Nat := (w.toNat >>> lo) % 2 ^ len

/-- Replaces bits [lo + len - 1 : lo]. -/
def setBits (w : Word) (lo len : Nat) (v : Nat) : Word :=
  let mask : Word := BitVec.ofNat 64 ((2 ^ len - 1) <<< lo)
  (w &&& ~~~mask) ||| (BitVec.ofNat 64 ((v % 2 ^ len) <<< lo))

/-- A word with v in bits [lo + len - 1 : lo] and zero elsewhere. -/
def atBits (lo len : Nat) (v : Nat) : Word := BitVec.ofNat 64 ((v % 2 ^ len) <<< lo)

/-- Sign extension from bit n - 1. -/
def sext (n : Nat) (v : Nat) : Word := (BitVec.ofNat n v).signExtend 64

/-- The truth value of a bit. -/
def b2n (b : Bool) : Nat := if b then 1 else 0

/-- A little-endian number of bytes. -/
def leNat : List Byte → Nat
  | [] => 0
  | b :: bs => b.toNat + 256 * leNat bs

/-- The n bytes of a number, lowest first. -/
def leBytes : Nat → Nat → List Byte
  | 0, _ => []
  | n + 1, v => BitVec.ofNat 8 v :: leBytes n (v / 256)

/-- Bytes of a value where a mask has its bit, as a number: byte i of `data` for bit i, else byte i of `old`. -/
def mergeBytes : Nat → Nat → Nat → Nat → Nat
  | 0, _, _, _ => 0
  | n + 1, mask, data, old =>
    (if mask % 2 = 1 then data % 256 else old % 256) + 256 * mergeBytes n (mask / 2) (data / 256) (old / 256)

/-! ## Parts of the state -/

def State.hartOf (s : State) (h : HartId) : Hart := findD h s.harts Hart.reset
def State.setHart (h : HartId) (x : Hart) (s : State) : State := { s with harts := put h x s.harts }
def State.modHart (h : HartId) (f : Hart → Hart) (s : State) : State := s.setHart h (f (s.hartOf h))

/-- The hart in focus: the one whose instruction an encoded form is. -/
def State.hart (s : State) : Hart := s.hartOf s.focus
def State.mod (f : Hart → Hart) (s : State) : State := s.modHart s.focus f

def State.tile (s : State) (t : TileId) : Tile := findD t s.tiles Tile.reset
def State.setTile (t : TileId) (x : Tile) (s : State) : State := { s with tiles := put t x s.tiles }
def State.modTile (t : TileId) (f : Tile → Tile) (s : State) : State := s.setTile t (f (s.tile t))

def State.cluster (s : State) (c : Nat) : Cluster := findD c s.clusters Cluster.reset
def State.modCluster (c : Nat) (f : Cluster → Cluster) (s : State) : State :=
  { s with clusters := put c (f (s.cluster c)) s.clusters }

def State.tab? (s : State) (t : BitVec 16) : Option Tableau := find t s.tabs
def State.modTab (t : BitVec 16) (f : Tableau → Tableau) (s : State) : State :=
  match find t s.tabs with
  | some x => { s with tabs := put t (f x) s.tabs }
  | none => s

def State.gang (s : State) (g : GangId) : Gang := findD g s.gangs Gang.reset
def State.modGang (g : GangId) (f : Gang → Gang) (s : State) : State := { s with gangs := put g (f (s.gang g)) s.gangs }

def State.queue (s : State) (q : BitVec 12) : Queue := findD q s.queues Queue.reset
def State.modQueue (q : BitVec 12) (f : Queue → Queue) (s : State) : State := { s with queues := put q (f (s.queue q)) s.queues }

/-- Tiles per gang of a tableau (R17). -/
def State.tilesPer (s : State) (t : BitVec 16) : Nat :=
  match s.tab? t with
  | some x => x.args.tiles
  | none => 0

def State.gangTiles (s : State) (g : GangId) : List TileId := g.tiles (s.tilesPer g.tab)
def State.gangHarts (s : State) (g : GangId) : List HartId := (s.gangTiles g).flatMap TileId.harts

/-- A vtile is valid in its tableau (R17). -/
def State.validVt (s : State) (t : TileId) : Bool :=
  match s.tab? t.tab with
  | some x => decide (t.vt.toNat / 65536 < x.args.stages) && decide (t.vt.toNat / 64 % 1024 < x.args.gangs) &&
      decide (t.vt.toNat % 64 < x.args.tiles)
  | none => false

/-- The dense index of a vtile (R19, R70). -/
def State.dense (s : State) (t : TileId) : Nat :=
  match s.tab? t.tab with
  | some x => (t.vt.toNat / 65536 * x.args.gangs + t.vt.toNat / 64 % 1024) * x.args.tiles + t.vt.toNat % 64
  | none => 0

/-- Every gang of a tableau. -/
def State.gangsOf (s : State) (t : BitVec 16) : List GangId :=
  match s.tab? t with
  | some x => (List.range x.args.stages).flatMap fun st => (List.range x.args.gangs).map fun g =>
      { tab := t, stage := BitVec.ofNat 4 st, gang := BitVec.ofNat 10 g }
  | none => []

/-- The state of a gang's tile-map entries (R162). -/
def State.resident (s : State) (t : TileId) : Bool := (s.tile t).entry.st = .resident

/-- A fresh identifier. -/
def State.fresh (s : State) : State := { s with nextId := s.nextId + 1 }

/-- Takes the next number for a free value. -/
def State.ticked (s : State) : State := { s with tick := s.tick + 1 }

/-- Brings the clock to a time at which an event is due. -/
def State.reach (due : Nat) (s : State) : State := { s with now := Nat.max s.now due }

/-! ## Memory (R6, R25, R54, R87) -/

/-- A byte of host memory. -/
def Home.isHost : Home → Bool
  | .host _ _ => true
  | _ => false

/-- Keys of the stored bytes: HBM by DPA, then the slices, then the host ports (DESIGN CHOICE, log entry 3). -/
def Home.key : Home → Nat
  | .hbm dpa => dpa
  | .slice t off => 2 ^ 62 + t.tab.toNat * 2 ^ 42 + t.vt.toNat * 2 ^ 22 + off
  | .host p hpa => 2 ^ 63 + p * 2 ^ 52 + hpa
  | .dev off => 2 ^ 64 + off

/-- The home n bytes on. -/
def Home.plus (n : Nat) : Home → Home
  | .hbm dpa => .hbm (dpa + n)
  | .slice t off => .slice t (off + n)
  | .host p hpa => .host p (hpa + n)
  | .dev off => .dev (off + n)

/-- The first byte of the aligned word, sector or line that holds a home. -/
def Home.align (n : Nat) : Home → Home
  | .hbm dpa => .hbm (dpa / n * n)
  | .slice t off => .slice t (off / n * n)
  | .host p hpa => .host p (hpa / n * n)
  | .dev off => .dev (off / n * n)

/-- The atomicity unit of a level (R87). -/
def Home.unit : Home → Nat
  | .slice _ _ => 64
  | .hbm _ => 32
  | _ => 8

/-- Only slices and HBM carry tags (R53). -/
def Home.tagged : Home → Bool
  | .slice _ _ => true
  | .hbm _ => true
  | _ => false

/-- Every stored byte and tag in canonical form. -/
def Store.wf (m : Store) : Bool := canon (0 : Byte) m.cells && canon Tag.full m.tags

/-- One byte: an unlisted one reads zero (R54; DESIGN CHOICE, log entry 3). -/
def Store.byte (m : Store) (a : Nat) : Byte := look 0 a m.cells
def Store.setByte (a : Nat) (b : Byte) (m : Store) : Store := { m with cells := store 0 a b m.cells }

/-- n bytes at consecutive keys, lowest first (R6). -/
def Store.read (m : Store) (a n : Nat) : List Byte := (List.range n).map fun i => m.byte (a + i)

/-- Writes bytes at consecutive keys. -/
def Store.write (a : Nat) : List Byte → Store → Store
  | [], m => m
  | b :: bs, m => Store.write (a + 1) bs (m.setByte a b)

/-- The tag of the word at a word-aligned key: an unlisted one is FULL (R54). -/
def Store.tag (m : Store) (a : Nat) : Tag := look .full a m.tags
def Store.setTag (a : Nat) (t : Tag) (m : Store) : Store := { m with tags := store .full a t m.tags }

/-- Sets a range of keys to zero with every tag FULL (R54). -/
def Store.clear (a n : Nat) (m : Store) : Store :=
  { cells := wipe a (a + n) m.cells, tags := wipe a (a + n) m.tags }

/-- A canonical store and a value at a home, as numbers. -/
def State.readNat (s : State) (h : Home) (n : Nat) : Nat := leNat (s.mem.read h.key n)
def State.readWord (s : State) (h : Home) : Word := BitVec.ofNat 64 (s.readNat h 8)
def State.writeNat (h : Home) (n v : Nat) (s : State) : State := { s with mem := s.mem.write h.key (leBytes n v) }
def State.writeWord (h : Home) (v : Word) (s : State) : State := s.writeNat h 8 v.toNat
def State.tagOf (s : State) (h : Home) : Tag := if h.tagged then s.mem.tag (h.align 8).key else .full
def State.setTag (h : Home) (t : Tag) (s : State) : State :=
  if h.tagged then { s with mem := s.mem.setTag (h.align 8).key t } else s

def Tag.code : Tag → Nat
  | .empty => 0 | .full => 1 | .parked => 2 | .poison => 3

def Tag.ofCode (n : Nat) : Tag :=
  match n % 4 with
  | 0 => .empty | 1 => .full | 2 => .parked | _ => .poison

/-- A tag that counts as empty (R57, R125). -/
def Tag.isEmpty : Tag → Bool
  | .empty | .parked => true
  | _ => false

/-! ## The virtual map (R11) -/

inductive Range where
  | paged
  | slice (vt : BitVec 20) (off : Nat)
  | own (off : Nat)
  | peer (wafer : Nat) (va : Nat)
  | dev (off : Nat)
  | none
deriving DecidableEq, Repr

/-- The range of an address (R11, R45, R47). -/
def range (va : Word) : Range :=
  let a := va.toNat
  if a < 2 ^ 48 then .paged
  else if 0x1000000000000000 ≤ a ∧ a < 0x1000040000000000 then
    .slice (BitVec.ofNat 20 (a / 2 ^ 22)) (a % 2 ^ 22)
  else if 0x1F00000000000000 ≤ a ∧ a < 0x1F00000000400000 then .own (a % 2 ^ 22)
  else if 0x2000000000000000 ≤ a ∧ a < 0x2400000000000000 then .peer (a / 2 ^ 48 % 1024) (a % 2 ^ 48)
  else if 0x3000000000000000 ≤ a ∧ a < 0x3001000000000000 then .dev (a % 2 ^ 48)
  else .none

/-! ## Registers (R210) -/

/-- g[r]; g0 reads zero. -/
def Hart.gr (h : Hart) (r : Reg) : Word := if r = 0 then 0 else h.g.getD r.toNat 0
/-- Writes g[r]; g0 discards writes. -/
def Hart.setG (r : Reg) (v : Word) (h : Hart) : Hart := if r = 0 then h else { h with g := h.g.setIfInBounds r.toNat v }
def Hart.vr (h : Hart) (r : Reg) : VWord := h.v.getD r.toNat 0
def Hart.setV (r : Reg) (v : VWord) (h : Hart) : Hart := { h with v := h.v.setIfInBounds r.toNat v }
def Hart.kr (h : Hart) (r : KReg) : Word := h.k.getD r.toNat 0
def Hart.setK (r : KReg) (v : Word) (h : Hart) : Hart := { h with k := h.k.setIfInBounds r.toNat v }

/-- The register's full/empty bit; g0 is always FULL (R77). -/
def Hart.full (h : Hart) : File → Reg → Bool
  | .g, r => decide (r = 0) || h.gFull.getLsbD r.toNat
  | .v, r => h.vFull.getLsbD r.toNat
  | .k, _ => true

def setBit (b : BitVec 32) (i : Nat) (v : Bool) : BitVec 32 :=
  if v then b ||| BitVec.ofNat 32 (2 ^ i) else b &&& ~~~(BitVec.ofNat 32 (2 ^ i))

/-- Sets a register's full/empty bit. -/
def Hart.setFull (f : File) (r : Reg) (v : Bool) (h : Hart) : Hart :=
  match f with
  | .g => if r = 0 then h else { h with gFull := setBit h.gFull r.toNat v }
  | .v => { h with vFull := setBit h.vFull r.toNat v }
  | .k => h

/-- Writes a result into the file it goes to. -/
def Hart.writeReg (f : File) (r : Reg) (v : VWord) (h : Hart) : Hart :=
  match f with
  | .g => h.setG r (v.setWidth 64)
  | .v => h.setV r v
  | .k => h.setK (r.setWidth 3) (v.setWidth 64)

/-- A queued vector result still to be written to a register (R257). -/
def Hart.vqPending (h : Hart) (f : File) (r : Reg) : Bool :=
  h.vq.any fun o => match o.dest with
    | some (f', r') => decide (f' = f) && decide (r' = r) && o.op.isNone && !(decide (f = .g) && decide (r = 0))
    | none => false

/-! ## Status fields (R358) -/

def Hart.mode (h : Hart) : Nat := bits h.sy.status 0 2
def Hart.uin (h : Hart) : Bool := h.sy.status.getLsbD 2
def Hart.sie (h : Hart) : Bool := h.sy.status.getLsbD 4
def Hart.stepOn (h : Hart) : Bool := h.sy.status.getLsbD 8
def Hart.nm (h : Hart) : Bool := h.sy.status.getLsbD 23
def Hart.loop (h : Hart) : Bool := h.sy.status.getLsbD 12
def Hart.nmskip (h : Hart) : Bool := h.sy.status.getLsbD 9
def Hart.isU (h : Hart) : Bool := h.mode == 0
def Hart.isS (h : Hart) : Bool := h.mode == 1
def Hart.isM (h : Hart) : Bool := h.mode == 3

def Hart.modSy (f : Sys → Sys) (h : Hart) : Hart := { h with sy := f h.sy }
def Hart.setStatus (f : Word → Word) (h : Hart) : Hart := h.modSy fun y => { y with status := f y.status }

/-! ## The fields of SY.FEREC (R65) -/

def Hart.feV (h : Hart) : Bool := h.sy.ferec.getLsbD 63
def Hart.fePend (h : Hart) : Bool := h.sy.ferec.getLsbD 62
def Hart.feKind (h : Hart) : Nat := bits h.sy.ferec 59 3
def Hart.feScope (h : Hart) : Nat := bits h.sy.ferec 56 3
def Hart.feOrd (h : Hart) : Nat := bits h.sy.ferec 54 2
def Hart.feReg (h : Hart) : Reg := BitVec.ofNat 5 (bits h.sy.ferec 49 5)
def Hart.feLinked (h : Hart) : Bool := h.sy.ferec.getLsbD 48
def Hart.feWoken (h : Hart) : Bool := h.sy.ferec.getLsbD 47
def Hart.setFe (lo len v : Nat) (h : Hart) : Hart := h.modSy fun y => { y with ferec := setBits y.ferec lo len v }

/-! ## Sleep, the event latch (R329) -/

/-- A latch event: a sleeping hart leaves SLEEPING with its latch clear; another has its latch set. -/
def Hart.latchEvent (h : Hart) : Hart :=
  if h.run = .sleeping then { h with run := .running, wfeDue := none, latch := false } else { h with latch := true }

/-! ## Error records (R381) -/

/-- 1 ms in cycles: the window in which records of one kind at one location are merged. -/
def mergeWindow : Nat := 4000000

/-- Logs a record, merging it with one of the same kind and location within 1 ms (R381; what one location is: DESIGN CHOICE, log entry 47). -/
def State.log (r : ErrRec) (s : State) : State :=
  if s.errors.any (same r) then
    { s with errors := s.errors.map fun e => if same r e then { e with count := Nat.min (e.count + 1) 0xFFFFFFFF, fatal := e.fatal || r.fatal } else e }
  else { s with errors := s.errors ++ [r] }
where
  same (r e : ErrRec) : Bool :=
    e.kind == r.kind && e.source == r.source && e.tab == r.tab && e.vt == r.vt && e.hart == r.hart && e.va == r.va &&
      e.dpa == r.dpa && e.detail == r.detail && decide (r.time < e.time + mergeWindow)

/-- A record of a kind about a hart. -/
def State.logHart (kind : Nat) (fatal : Bool) (h : HartId) (va : Word) (dpa : Nat) (detail : Word) (s : State) : State :=
  s.log { kind := kind, source := 0, fatal := fatal, count := 1, time := s.now, tab := h.tile.tab, vt := h.tile.vt,
          hart := h.num, va := va, dpa := dpa, detail := detail }

/-- Latent errors outside n keys from k: those inside have been overwritten. -/
def errorsOutside (k n : Nat) (us : List Nat) : List Nat := us.filter fun u => decide (u < k) || decide (k + n ≤ u)

/-- An uncorrectable error in unit u of a granule in bonded SRAM (R101): units are named above the keys of homes. (DESIGN CHOICE: log entry
49.) -/
def bondKey (gid u : Nat) : Nat := 2 ^ 80 + gid * 4096 + u

/-- Units of a granule from u on are written, so no error that stood in them is left (R101). -/
def State.bondWritten (gid u n : Nat) (s : State) : State := { s with latentUE := errorsOutside (bondKey gid u) n s.latentUE }

/-- Names, above the keys of homes, of the 64-byte units of a tile's saved tags and of its saved areas (R378, R383). -/
def tagUnitKey (t : TileId) (u : Nat) : Nat := 2 ^ 82 + (t.tab.toNat * 2 ^ 20 + t.vt.toNat) * 2 ^ 11 + u
def areaKey (t : TileId) : Nat := 2 ^ 84 + t.tab.toNat * 2 ^ 20 + t.vt.toNat

/-- A slice is cleared before it is given out: zero, with every word FULL, and no error of what stood there before is left (R54). -/
def State.clearSlice (t : TileId) (s : State) : State :=
  let k := (Home.slice t 0).key
  { s with mem := s.mem.clear k (2 ^ 22),
           latentUE := (errorsOutside k (2 ^ 22) (errorsOutside (tagUnitKey t 0) (2 ^ 11) s.latentUE)).filter (· ≠ areaKey t) }

/-- The DPIT entry of a page of the loft: page i of slot n is one of the 128 frames that chandler n / 64 of stack n mod 64 keeps for
the slot (R105; DESIGN CHOICE, log entry 55). -/
def loftEntry (page : Nat) : DpitEntry :=
  let slot := page / 128
  { pin := true, valid := true, frame := 2 ^ 20 - 512 * (slot / 256 + 1) + 4 * (page % 128) + slot / 64 % 4, stk := slot % 64,
    exported := false }

/-- The first DPA of the loft: it ends the DPA space (R19, R105; DESIGN CHOICE, log entry 55). -/
def State.loftBase (s : State) : Nat := 2 ^ 42 - s.loftSize * 2 ^ 23

/-- The DPA of a byte of a tile's loft slot: loft base + LSLOT · 8 MiB (R19). -/
def State.loftDpa (s : State) (t : TileId) (off : Nat) : Nat := s.loftBase + ((s.tile t).entry.lslot.getD 0) * 2 ^ 23 + off

/-- The loft's chandler is the home of a tile's slice words (R25, R105). -/
def State.inLoft (s : State) (t : TileId) : Bool := (s.tile t).entry.st == .absent && !(s.tile t).entry.fresh

/-- A record of a kind about a place in memory: SOURCE 1 and the PTILE for a slice bank, 2 and the DPA for a chandler, which also
serves the slices of the loft (R105, R381). -/
def State.logHome (kind : Nat) (h : Home) (s : State) : State :=
  match h with
  | .slice t off => s.log { kind := kind, source := if s.inLoft t then 2 else 1, fatal := false, count := 1, time := s.now,
                            tab := t.tab, vt := t.vt, hart := 0,
                            va := BitVec.ofNat 64 (0x1000000000000000 + t.vt.toNat * 2 ^ 22 + off),
                            dpa := if s.inLoft t then s.loftDpa t off else (s.tile t).entry.ptile, detail := 0 }
  | .hbm dpa => s.log { kind := kind, source := 2, fatal := false, count := 1, time := s.now, tab := 0, vt := 0, hart := 0,
                        va := 0, dpa := dpa, detail := 0 }
  | _ => s

/-! ## Tracking (R40, R41, R103) -/

/-- Where an access comes from: a physical tile by its number, or a host port behind them (R2, R103). -/
def State.fromTile (s : State) (t : TileId) : Nat := (s.tile t).entry.ptile
def fromPort (port : BitVec 2) : Nat := 12544 + port.toNat

/-- The key of a page's count of the accesses from a rim quadrant. -/
def quadKey (page : Nat) (q : BitVec 2) : Nat := 4 * page + q.toNat

/-- The drover tracks the access to a page of HBM by page and by rim quadrant (R40, R103; DESIGN CHOICE, log entry 50). -/
def State.track (src : Nat) (h : Home) (s : State) : State :=
  match h with
  | .hbm dpa =>
    if s.drover.ctl.getLsbD 0 then
      let k := quadKey (dpa / 65536) (Config.quadrantOf src)
      { s with drover := { s.drover with counts := put k (findD k s.drover.counts 0 + 1) s.drover.counts } }
    else s
  | _ => s

/-! ## Stops (R367-R369) -/

/-- The repeat state at a boundary, in the layout of SY.RPTSTATE (R219, R220). -/
def RptSeq.word (r : RptSeq) : Word :=
  atBits 63 1 1 ||| atBits 32 8 r.pass ||| atBits 28 4 r.pos ||| atBits 22 4 r.n1 ||| atBits 14 8 r.count |||
    atBits 12 2 r.sd ||| atBits 10 2 r.sa ||| atBits 8 2 r.sb

def Hart.rptWord (h : Hart) : Word :=
  match h.rpt with
  | some r => r.word
  | none => h.resume.getD 0

/-- A block in BAR.WAIT or BAR.SS ends: its tile faults are forgotten (R174). -/
def Hart.leaveBlock (h : Hart) : Hart := { h with bars := h.bars.map fun p => (p.1, { p.2 with faulted := [] }) }

/-- Stops a hart at its boundary: no architectural register is written (R368). -/
def Hart.stop (h : Hart) : Hart :=
  if h.run = .halted then h
  else
    { h.leaveBlock with
      run := .halted, stopped := true, live := true, stoppc := h.pc, stoprpt := h.rptWord, rpt := none, resume := none, wfeDue := none }

def Hart.preqPend (h : Hart) : Bool := h.sy.preq.getLsbD 0

/-- A hart that enters BLOCKED, PARKED or SLEEPING while a request is pending stops there (R367). -/
def Hart.enter (r : RunState) (h : Hart) : Hart :=
  if h.preqPend then ({ h with run := r } : Hart).stop else { h with run := r }

/-- An instruction that cannot proceed waits at issue: nothing but the run state changes (R152). -/
def waitAt (s : State) : Out := .next (s.mod (·.enter .blocked))

/-! ## Killing a tableau (R346) -/

/-- Firmware is to kill a tableau: its TBL_KILL comes next (R346, R357, R384). -/
def State.askKill (t : BitVec 16) (s : State) : State := { s with agenda := s.agenda ++ [.tblKill t] }

/-! ## Traps (R355-R361) -/

/-- Causes of R360. -/
def cILLEGAL : Nat := 0x01
def cPRIV : Nat := 0x02
def cALIGN : Nat := 0x03
def cPAGE : Nat := 0x04
def cPROT : Nat := 0x05
def cEMPTYREG : Nat := 0x06
def cOVERWRITE : Nat := 0x07
def cEMPTYWAIT : Nat := 0x08
def cPOISON : Nat := 0x09
def cFE : Nat := 0x0A
def cNAN : Nat := 0x0B
def cRPTRANGE : Nat := 0x0C
def cACCOWNER : Nat := 0x0D
def cMSGLIMIT : Nat := 0x0E
def cSTEP : Nat := 0x0F
def cBREAK : Nat := 0x10
def cSYSCALL : Nat := 0x11
def cENGINE : Nat := 0x12
def cINTERRUPT : Nat := 0x13

/-- A trap with a cause and SY.EINFO, on no address. -/
def mkTrap (cause info : Nat) : Posted := { cause := cause, info := BitVec.ofNat 64 info, addr := none }

/-- A trap on an address. -/
def mkTrapAt (cause info : Nat) (va : Word) : Posted := { cause := cause, info := BitVec.ofNat 64 info, addr := some va }

/-- The repeat state that trap entry writes (R219). -/
def Hart.leaveRpt (h : Hart) : Hart :=
  match h.rpt with
  | some r => { h with rpt := none }.modSy fun y => { y with rptstate := r.word }
  | none =>
    match h.resume with
    | some w => { h with resume := none }.modSy fun y => { y with rptstate := w }
    | none => h

/-- Entry to the user handler (R356). -/
def Hart.enterU (t : Posted) (epc : Word) (h : Hart) : Hart :=
  { (h.modSy fun y =>
      { y with epc := epc, cause := BitVec.ofNat 64 t.cause, einfo := t.info, faddr := t.addr.getD y.faddr,
               status := setBits y.status 2 1 1 }) with
    pc := atBits 2 46 (bits h.sy.utvec 2 46), run := .running, wfeDue := none }

/-- What every entry to S mode does to the status and the program counter (R357). -/
def Hart.toS (h : Hart) : Hart :=
  { (h.setStatus fun w =>
      setBits (setBits (setBits (setBits (setBits (setBits w 6 2 (bits w 0 2)) 5 1 (bits w 4 1)) 4 1 0) 10 1 (bits w 8 1)) 8 1 0) 0 2 1) with
    pc := atBits 2 46 (bits h.sy.stvec 2 46), run := .running, wfeDue := none }

/-- Direct entry to the supervisor handler (R357); NESTED for a trap raised while UIN = 1 (R355). -/
def Hart.enterS (t : Posted) (epc : Word) (h : Hart) : Hart :=
  (h.modSy fun y =>
      { y with sepc := epc, scause := BitVec.ofNat 64 (t.cause + (if h.uin then 2 ^ 62 else 0)), seinfo := t.info,
               sfaddr := t.addr.getD y.sfaddr }).toS

/-- ESC: the trap of the U-level registers goes to the supervisor handler (R325, R357). -/
def Hart.escape (h : Hart) : Hart :=
  ((h.modSy fun y =>
      { y with sepc := y.epc, scause := y.cause ||| atBits 63 1 1, seinfo := y.einfo, sfaddr := y.faddr }).toS).setStatus
    fun w => setBits (setBits w 2 1 0) 6 2 0

/-- A trap bound for S mode with no handler halts the hart and kills the tableau (R357). -/
def State.noHandler (h : HartId) (epc : Word) (s : State) : State :=
  ((s.modHart h fun x => { x with run := .halted, rpt := none }).logHart 0x0A true h epc 0 0).askKill h.tile.tab

/-- A trap in M mode is a machine check (R384). -/
def State.machineTrap (h : HartId) (t : Posted) (epc : Word) (s : State) : State :=
  (s.modHart h fun x => { x with run := .halted, rpt := none }).logHart 0x0B false h epc 0 (BitVec.ofNat 64 (t.cause % 256))

/-- A load whose instruction itself takes the value: the refill of a RET, the descriptor of a CP.COPY2 (R214, R283). -/
def MemOp.isRefill (o : MemOp) : Bool := (o.kind == .load 8 false || o.kind == .vload) && o.dest.isNone

/-- Takes a trap on a hart: the one shared operation of R355-R357. A tableau-wide invalidation or an
instruction's own load that it interrupts is made again when the instruction re-executes. -/
def State.takeTrap (h : HartId) (t : Posted) (epc : Word) (s : State) : State :=
  let x := s.hartOf h
  let s := { s with invs := s.invs.filter (fun m => m.src ≠ h), ops := s.ops.filter fun o => !(decide (o.hart = h) && o.isRefill) }
  if x.isM then s.machineTrap h t epc
  else
    let y : Hart := { x.leaveRpt.leaveBlock with misses := [] }
    if x.isU && !x.uin && decide (t.cause ≠ cINTERRUPT) then
      if x.sy.utvec.getLsbD 0 then s.setHart h (y.enterU t epc)
      else if x.sy.stvec.getLsbD 0 then s.setHart h (y.enterU t epc).escape
      else s.noHandler h epc
    else if x.sy.stvec.getLsbD 0 then s.setHart h (y.enterS t epc)
    else s.noHandler h epc

/-- A precise trap of the focused hart's instruction: it has no effect, and SY.EPC is its address (R14, R360). -/
def trap (t : Posted) (s : State) : Out := .next (s.takeTrap s.focus t s.hart.pc)

/-! ## The end of an instruction -/

/-- The next instruction: the word after it, or the next captured execution of a repeat (R218, R219). -/
def Hart.advance (h : Hart) : Hart :=
  match h.rpt with
  | none => { h with pc := h.pc + 4, run := .running, misses := [] }
  | some r =>
    if r.pos < r.n1 then { h with pc := h.pc + 4, rpt := some { r with pos := r.pos + 1 }, run := .running, misses := [] }
    else if r.pass + 1 < r.count then
      { h with pc := r.body, rpt := some { r with pos := 0, pass := r.pass + 1 }, run := .running, misses := [] }
    else
      { (h.modSy fun y => { y with rptstate := setBits y.rptstate 63 1 0 }) with
        pc := h.pc + 4, rpt := none, run := .running, misses := [] }

/-- A completed instruction is followed by a STEP trap where R364 calls for it; `was` is the hart before it, whose STEP and mode count where
the instruction changes them (DESIGN CHOICE, log entry 85). -/
def Hart.stepMark (h was : Hart) (pa : Bool) : Hart :=
  if was.stepOn && ((was.isU && !was.uin) || was.isS) then { h with stepPend := some pa } else h

/-- Completes an instruction of the focused hart. -/
def retire (s : State) : State := s.mod fun h => h.advance.stepMark h false

/-- Completes an instruction that issued a command or a launch (R364). -/
def retireCmd (s : State) : State := s.mod fun h => h.advance.stepMark h true

/-- Completes a jump to an address. -/
def retireTo (pc : Word) (s : State) : State :=
  s.mod fun h => ({ h with pc := pc, run := .running, misses := [] } : Hart).stepMark h false

end Sys2Proof.Machine
end

