-- ==== Sys2Proof/Machine/Flags.lean ====
section
/-!
DEFINITION. The full/empty flags of words: the state table of R57, the copy rows of R80, completion fills (R85), park
keys (R71) and the wakes that a change of tag causes (R68, R74, R75); and the truth values that comparisons write.
-/

namespace Sys2Proof.Machine

/-- A comparison's result (R229). -/
def flagWord (b : Bool) : Word := if b then 1 else 0

/-- The kinds of R56 as rows of the state table R57. -/
inductive TagAct where
  | read | write | partWrite | atomic | waiting | taking | filling | emptying | get | set (x : Tag)
deriving DecidableEq, Repr

/-- An outcome of the state table: fault, wait, or the next tag with the wakes, and whether the data is written. -/
structure TagRow where
  fault  : Bool
  wait   : Bool
  next   : Tag
  loads  : Bool
  filler : Bool
  /-- The action's data is written. -/
  writes : Bool
  /-- The word's data becomes zero. -/
  zero   : Bool
deriving DecidableEq, Repr

def TagRow.stay (t : Tag) : TagRow :=
  { fault := false, wait := false, next := t, loads := false, filler := false, writes := false, zero := false }
def TagRow.faults : TagRow := { TagRow.stay .poison with fault := true }
def TagRow.waits (t : Tag) : TagRow := { TagRow.stay t with wait := true }

/-- The state table (R57). -/
def tagRow : TagAct → Tag → TagRow
  | .read, .poison => .faults
  | .read, t => .stay t
  | .write, .parked => { TagRow.stay .full with loads := true, writes := true }
  | .write, _ => { TagRow.stay .full with writes := true }
  | .partWrite, .poison => .stay .poison
  | .partWrite, .parked => { TagRow.stay .full with loads := true, writes := true }
  | .partWrite, _ => { TagRow.stay .full with writes := true }
  | .atomic, .poison => .faults
  | .atomic, .parked => { TagRow.stay .full with loads := true, writes := true }
  | .atomic, _ => { TagRow.stay .full with writes := true }
  | .waiting, .full => .stay .full
  | .waiting, .poison => .faults
  | .waiting, t => .waits t
  | .taking, .full => { TagRow.stay .empty with filler := true }
  | .taking, .poison => .faults
  | .taking, t => .waits t
  | .filling, .empty => { TagRow.stay .full with writes := true }
  | .filling, .full => .waits .full
  | .filling, .parked => { TagRow.stay .full with loads := true, writes := true }
  | .filling, .poison => .faults
  | .emptying, .full => { TagRow.stay .empty with filler := true, writes := true }
  | .emptying, .parked => { TagRow.stay .parked with writes := true }
  | .emptying, _ => { TagRow.stay .empty with writes := true }
  | .get, t => .stay t
  | .set .full, .parked => { TagRow.stay .full with loads := true }
  | .set .full, .poison => { TagRow.stay .full with zero := true }
  | .set .full, _ => .stay .full
  | .set .empty, .full => { TagRow.stay .empty with filler := true }
  | .set .empty, .parked => .stay .parked
  | .set .empty, .poison => { TagRow.stay .empty with zero := true }
  | .set .empty, .empty => .stay .empty
  | .set .poison, .parked => { TagRow.stay .poison with loads := true }
  | .set .poison, _ => .stay .poison
  | .set .parked, t => .stay t

/-- The park key of a word (R71). -/
def parkKey : Home → Nat
  | .slice t off => 0x1000000000000000 + t.vt.toNat * 2 ^ 22 + off / 8 * 8
  | .hbm dpa => 0x8000000000000000 + dpa / 8 * 8
  | _ => 0

/-- The park key of the first word of the word's line (R71). -/
def lineKey (k : Nat) : Nat := k / 64 * 64

/-- The tableau whose park table names a word: a slice's own, or for HBM the tableau of the record. -/
def State.parkTabs (s : State) (h : Home) : List (BitVec 16) :=
  match h with
  | .slice t _ => [t.tab]
  | .hbm _ => s.tabs.map (·.1)
  | _ => []

/-- The chandler of an HBM byte: its stack, and FRAME[1:0] (R104), also of the loft's frames (R105). -/
def State.chandlerOf (s : State) (dpa : Nat) : Nat × Nat :=
  let e := if s.loftBase ≤ dpa ∧ dpa < 2 ^ 42 then loftEntry ((dpa - s.loftBase) / 65536) else findD (dpa / 65536) s.dpit DpitEntry.reset
  (e.stk, e.frame % 4)

/-- The fill-wait table of the park engine at a home (R75): the tile's for a slice, also while the loft holds it (R84), and the
chandler's for HBM, which is the keys whose words it serves now. -/
def State.fillWait (s : State) (h : Home) : List Nat :=
  match h with
  | .slice t _ => (s.tile t).fillWait
  | .hbm dpa => s.hbmFill.filter fun k => s.chandlerOf (k - 2 ^ 63) == s.chandlerOf dpa
  | _ => []

/-- Sends a request to the home of a bucket (R68). -/
def State.ask (r : ParkReq) (s : State) : State :=
  { s with parkReqs := s.parkReqs ++ [(s.nextId, r)], nextId := s.nextId + 1 }

/-- Sends a request about words to the bucket's home in each tableau that can name them, if there are such words. -/
def State.askAll (r : BitVec 16 → List Nat → ParkReq) (h : Home) (keys : List Nat) (s : State) : State :=
  if keys = [] then s else (s.parkTabs h).foldl (fun s t => s.ask (r t keys)) s

/-- The list work of one action on words of a line: those whose loads it wakes, and those that it emptied and for which a
filler may be parked (R68, R74, R75). -/
def State.wakeWords (h : Home) (loads fillers : List Home) (s : State) : State :=
  (s.askAll .loads h (loads.map parkKey)).askAll .filler h
    ((fillers.map parkKey).filter fun k => (s.fillWait h).contains k || (s.fillWait h).contains (lineKey k))

/-- The list work of a change of one tag. -/
def State.wake (h : Home) (loads filler : Bool) (s : State) : State :=
  s.wakeWords h (if loads then [h] else []) (if filler then [h] else [])

end Sys2Proof.Machine
end

