-- ==== Sys2Proof/Machine/SysRegs.lean ====
section
/-!
DEFINITION. What the system registers read (R211), and what that rests on: steps of routines (R115), duty (R183, R354) barrier masks
(R178), and what they hold when written.
-/

namespace Sys2Proof.Machine

/-! ## Routine entries -/

/-- A step of a routine (R116). -/
structure RStep where
  op  : Nat
  d   : Nat
  a   : Nat
  b   : Nat
  imm : Nat
deriving DecidableEq, Repr

def stepOf (w : Nat) : RStep :=
  { op := w / 2 ^ 27 % 32, d := w / 2 ^ 24 % 8, a := w / 2 ^ 21 % 8, b := w / 2 ^ 18 % 8, imm := w % 2 ^ 18 }

/-- The steps of a routine entry of eight words: the count in bits [3:0] of the header, then 32-bit steps (R115). -/
def routineSteps (ws : List Word) : List RStep :=
  let all := ws.flatMap fun w => [w.toNat % 2 ^ 32, w.toNat / 2 ^ 32]
  ((all.drop 1).take (all.headD 0 % 16)).map stepOf

/-! ## Duty and groups -/

/-- The map entry of a vtile as the map holds it (R19, R23). -/
def State.mapEntry (s : State) (t : TileId) : MapEntry := (s.tile t).entry

/-- The reticle field of a physical tile number (R18). -/
def fieldOf (p : Nat) : Nat := p / 112 / 14 * 8 + p % 112 / 14

/-- Gangs of a tableau that have a member in a group. -/
def State.groupGangs (s : State) (t : BitVec 16) (g : BitVec 4) : List GangId :=
  ((s.harts.filter fun p => p.1.tile.tab == t && (findD g p.2.bars HartBar.reset).member).map fun p => p.1.tile.gang).eraseDups

/-- Gangs joined to a set by a wired group (R183): `n` rounds. -/
def State.wiredGangs (s : State) (t : BitVec 16) : Nat → List GangId → List GangId
  | 0, gs => gs
  | n + 1, gs =>
    let groups : List (BitVec 4) := match s.tab? t with
      | some x => (x.state.filter fun p => p.2.plane.isSome).map (·.1)
      | none => []
    let more := (groups.map (s.groupGangs t)).filter fun l => l.any gs.contains
    State.wiredGangs s t n ((gs ++ more.flatten).eraseDups)

/-- The duty that a field demands of the tiles of gangs of a PRIO (R183, R354). -/
def State.fieldDuty (s : State) (f prio : Nat) : Nat := (findD f s.duty []).getD prio 16

/-- The lowest duty that the fields of a gang's tiles demand of it (R183). -/
def State.demand (s : State) (g : GangId) : Nat :=
  (s.gangTiles g).foldl (fun d u => Nat.min d (s.fieldDuty (fieldOf (s.mapEntry u).ptile) (s.gang g).prio)) 16

/-- The fields in which a gang's tiles lie. -/
def State.fieldsOf (s : State) (g : GangId) : List Nat := (s.gangTiles g).map fun t => fieldOf (s.mapEntry t).ptile

/-- The duty of a gang apart from the wired-group rule: no more than that of a resident gang of higher PRIO in one of its fields (R354); n
bounds the steps of PRIO. -/
def State.gangDuty (s : State) : Nat → GangId → Nat
  | 0, g => s.demand g
  | n + 1, g =>
    let fs := s.fieldsOf g
    let higher := s.gangs.filter fun p => decide ((s.gang g).prio < p.2.prio) && p.2.st == .resident && (s.fieldsOf p.1).any fs.contains
    higher.foldl (fun d p => Nat.min d (State.gangDuty s n p.1)) (s.demand g)

/-- The duty in force for a tile: the lowest of its gang's and of those joined to it by wired groups (R183, R354). -/
def State.dutyOf (s : State) (t : TileId) : Nat :=
  (s.wiredGangs t.tab 16 [t.gang]).foldl (fun d g => Nat.min d (s.gangDuty 7 g)) 16

/-- SY.BARMASK (R178). -/
def State.barmask (s : State) (h : HartId) : Word :=
  (List.range 16).foldl (fun w i =>
    let g := BitVec.ofNat 4 i
    let plane := match (s.tab? h.tile.tab).bind fun x => (find g x.state).bind (·.plane) with
      | some p => p.toNat
      | none => 0
    w ||| atBits i 1 (b2n (findD g (s.hartOf h).bars HartBar.reset).member) ||| atBits (16 + 3 * i) 3 plane) 0

/-- Valid entries of the routine table (R108, R118). -/
def State.routineCount (s : State) : Nat := (s.routines.filter fun p => routineSteps p.2 != []).length

/-! ## The registers -/

/-- The numbers of R211. -/
def syAllocated (n : Nat) : Bool :=
  n ≤ 0x0C || (0x10 ≤ n && n ≤ 0x15) || (0x20 ≤ n && n ≤ 0x25) || (0x30 ≤ n && n ≤ 0x34) || n == 0x40 || n == 0x41 ||
    n == 0x50 || n == 0x51

/-- What a system register reads for a hart (R211). -/
def State.syRead (s : State) (h : HartId) (n : Nat) : Word :=
  let x := s.hartOf h
  let y := x.sy
  match n with
  | 0x00 => y.status
  | 0x01 => y.cause
  | 0x02 => y.epc
  | 0x03 => y.einfo
  | 0x04 => y.faddr
  | 0x05 => y.utvec
  | 0x06 => y.stvec
  | 0x07 => y.scratch
  | 0x08 => y.sepc
  | 0x09 => y.scause
  | 0x0A => y.seinfo
  | 0x0B => y.sfaddr
  | 0x0C => y.sscratch
  | 0x10 => y.retry
  | 0x11 => y.ferec
  | 0x12 => y.parkbase
  | 0x13 => y.rptstate
  | 0x14 => y.rspill
  | 0x15 => BitVec.ofNat 64 x.rstack.length
  | 0x20 => atBits 20 16 h.tile.tab.toNat ||| atBits 0 20 h.tile.vt.toNat
  | 0x21 => y.ptile
  | 0x22 => atBits 4 4 x.liveSet.toNat ||| atBits 0 2 h.num.toNat
  | 0x23 => 0x010100
  | 0x24 => atBits 36 4 s.cxlPorts.toNat ||| atBits 24 8 s.routineCount ||| 0x030506
  | 0x25 => atBits 16 5 (s.fieldDuty (fieldOf (s.mapEntry h.tile).ptile) (s.gang h.tile.gang).prio) ||| atBits 0 5 (s.dutyOf h.tile)
  | 0x30 => y.preq
  | 0x31 => y.pdead
  | 0x32 => y.msgmax
  | 0x33 => y.vshare
  | 0x34 => s.barmask h
  | 0x40 => y.ptbase
  | 0x41 => y.flimit
  | 0x50 => BitVec.ofNat 64 s.now
  | _ => Config.time s.now

/-! ## What they hold when written -/

/-- Bits of a written value that a mask names, the others kept. -/
def masked (mask old v : Word) : Word := (old &&& ~~~mask) ||| (v &&& mask)

/-- SY.STATUS as written in a mode (R358). -/
def writeStatus (isU : Bool) (old v : Word) : Word :=
  masked (if isU then 0x800000 else 0x800110) (if v.getLsbD 12 then old else setBits old 12 1 0) v

/-- SY.RETRY as written (R63). -/
def writeRetry (v : Word) : Word :=
  atBits 28 12 (Nat.max 8 (bits v 28 12)) ||| atBits 20 8 (Nat.max 1 (bits v 20 8)) ||| atBits 0 16 (bits v 0 16)

/-- SY.PARKBASE as written (R69). -/
def writeParkbase (v : Word) : Word := atBits 12 36 (bits v 12 36) ||| atBits 0 5 (Nat.min 24 (Nat.max 10 (bits v 0 5)))

/-- SY.MSGMAX as written (R173). -/
def writeMsgmax (v : Word) : Word := atBits 0 3 (Nat.min 4 (Nat.max 1 (bits v 0 3)))

/-- SY.VSHARE as written (R156). -/
def writeVshare (v : Word) : Word := atBits 0 4 (Nat.max 1 (bits v 0 4))

def vecMask : Word := 0xFFFFFFFFFFFD
def causeMask : Word := 0xC0000000000000FF
def einfoMask : Word := 0x8000FFFFFFFFFFFF
def rptMask : Word := 0x800000FFF3FFFF00

/-- Writes of the registers that are plain fields. -/
def Sys.write (n : Nat) (v : Word) (y : Sys) : Sys :=
  match n with
  | 0x01 => { y with cause := v &&& causeMask }
  | 0x02 => { y with epc := v }
  | 0x03 => { y with einfo := v &&& einfoMask }
  | 0x04 => { y with faddr := v }
  | 0x05 => { y with utvec := v &&& vecMask }
  | 0x06 => { y with stvec := v &&& vecMask }
  | 0x07 => { y with scratch := v }
  | 0x08 => { y with sepc := v }
  | 0x09 => { y with scause := v &&& causeMask }
  | 0x0A => { y with seinfo := v &&& einfoMask }
  | 0x0B => { y with sfaddr := v }
  | 0x0C => { y with sscratch := v }
  | 0x10 => { y with retry := writeRetry v }
  | 0x12 => { y with parkbase := writeParkbase v }
  | 0x13 => { y with rptstate := v &&& rptMask }
  | 0x14 => { y with rspill := setBits v 0 3 0 }
  | 0x32 => { y with msgmax := writeMsgmax v }
  | 0x33 => { y with vshare := writeVshare v }
  | 0x40 => { y with ptbase := v &&& 0x3FFFFFFF000 }
  | 0x41 => { y with flimit := v &&& 0xFFFFFFFFFFC0 }
  | _ => y

/-- The bits of SY.STATUS and of SY.FEREC that their maps define (R65, R358). -/
def statusBits : Word := 0x8017F7
def ferecBits : Word := 0xFFFF800000000000

end Sys2Proof.Machine
end

