-- ==== Sys2Proof/Machine/Loft.lean ====
section
/-!
DEFINITION. The layout of a saved context (R378, R379), and what an access to the loft's own words finds and writes. A context keeps the
names programs use wherever it stands, so its slot is computed from it, and a write into its slot changes it.
-/

namespace Sys2Proof.Machine

/-! ## Hart areas (R379) -/

/-- The word of an area at offset 0x0160: live, the event latch and the pending interrupt sources, oldest first; the field holds three
(DESIGN CHOICE, log entry 71). -/
def Hart.eventWord (h : Hart) : Word :=
  atBits 0 1 (b2n h.live) ||| atBits 1 1 (b2n h.latch) ||| atBits 16 16 (h.irqs.getD 0 0).toNat |||
    atBits 32 16 (h.irqs.getD 1 0).toNat ||| atBits 48 16 (h.irqs.getD 2 0).toNat

/-- The two words of a barrier group: membership, PASSED and the phase, then whether the arrival is recorded and the last phase seen
(DESIGN CHOICE, log entry 71). -/
def HartBar.words (b : HartBar) : List Word :=
  [atBits 0 1 (b2n b.member) ||| atBits 1 1 (b2n b.passed) ||| atBits 32 32 b.phase.toNat,
   atBits 0 1 (b2n b.sent) ||| atBits 32 32 b.seen.toNat]

/-- Word i of a hart area, below the part that each revision encodes: the word at offset 8 i. -/
def State.hartWord (s : State) (h : HartId) (i : Nat) : Word :=
  let x := s.hartOf h
  let line := fun (v : VWord) (k : Nat) => v.extractLsb' (64 * k) 64
  if i < 0x20 then x.gr (BitVec.ofNat 5 i)
  else if i = 0x20 then (x.gFull ||| 1).setWidth 64
  else if i = 0x21 then x.vFull.setWidth 64
  else if i < 0x2A then x.kr (BitVec.ofNat 3 (i - 0x22))
  else if i = 0x2A then x.stoppc
  else if i = 0x2B then x.stoprpt
  else if i = 0x2C then x.eventWord
  else if 0x40 ≤ i ∧ i < 0x140 then line (x.vr (BitVec.ofNat 5 ((i - 0x40) / 8))) (i % 8)
  else if 0x140 ≤ i ∧ i < 0x1C0 then (if syAllocated (i - 0x140) then s.syRead h (i - 0x140) else 0)
  else if 0x1C0 ≤ i ∧ i < 0x1D0 then x.rstack.getD (i - 0x1C0) 0
  else if i = 0x1D0 then x.rbufVa
  else if 0x1D1 ≤ i ∧ i < 0x1D9 then line x.rbufVal (i - 0x1D1)
  else if 0x1E0 ≤ i ∧ i < 0x200 then
    (findD (BitVec.ofNat 4 ((i - 0x1E0) / 2)) x.bars HartBar.reset).words.getD (i % 2) 0
  else 0

/-- A byte of a hart area; the vector queue, the matrix state, the messages and the copy commands are encoded as the producing revision
does (R379). -/
def State.hartByte (s : State) (h : HartId) (off : Nat) : Byte :=
  if off < 0x1000 then elem8 (s.hartWord h (off / 8)) (off % 8) else Config.areaByte s.tick off
where
  elem8 (w : Word) (k : Nat) : Byte := w.extractLsb' (8 * k) 8

/-! ## Hart areas as written -/

/-- The pending sources as the area holds them after a write of the field: a place that held none takes a source that is not zero. -/
def writeIrqs (v : Word) (irqs : List (BitVec 16)) : List (BitVec 16) :=
  let f := fun (i : Nat) => (BitVec.ofNat 16 (bits v (16 + 16 * i) 16))
  ((irqs.take 3).zipIdx.map fun p => f p.2) ++ (((List.range 3).drop irqs.length).map f).filter (· ≠ 0) ++ irqs.drop 3

/-- A word of a barrier group as the area holds it after a write. -/
def HartBar.setWord (second : Bool) (v : Word) (b : HartBar) : HartBar :=
  if second then { b with sent := v.getLsbD 0, seen := BitVec.ofNat 32 (bits v 32 32) }
  else { b with member := v.getLsbD 0, passed := v.getLsbD 1, phase := BitVec.ofNat 32 (bits v 32 32) }

/-- Lane k of 64 bits of a vector register replaced. -/
def setLane (v : VWord) (k : Nat) (w : Word) : VWord :=
  (v &&& ~~~((0xFFFFFFFFFFFFFFFF#64).setWidth 512 <<< (64 * k))) ||| (w.setWidth 512 <<< (64 * k))

/-- The registers that a hart restores from the words of its area at 0x0A00: what their maps let them hold. -/
def Hart.setSyWord (n : Nat) (v : Word) (x : Hart) : Hart :=
  match n with
  | 0x00 => x.modSy fun y => { y with status := v &&& statusBits }
  | 0x11 => x.modSy fun y => { y with ferec := v &&& ferecBits }
  | 0x15 => { x with rstack := (x.rstack ++ List.replicate 16 0).take (Nat.min 16 (bits v 0 5)) }
  | 0x22 => { x with liveSet := BitVec.ofNat 4 (bits v 4 4) }
  | n => x.modSy (Sys.write n v)

/-- Writes word i of a hart area: the register that it is restored to. A word that holds none, or one that the placement loads or the machine
computes, takes nothing. -/
def Hart.setAreaWord (i : Nat) (v : Word) (x : Hart) : Hart :=
  if i < 0x20 then x.setG (BitVec.ofNat 5 i) v
  else if i = 0x20 then { x with gFull := v.setWidth 32 ||| 1 }
  else if i = 0x21 then { x with vFull := v.setWidth 32 }
  else if i < 0x2A then x.setK (BitVec.ofNat 3 (i - 0x22)) v
  else if i = 0x2A then { x with stoppc := v }
  else if i = 0x2B then { x with stoprpt := v }
  else if i = 0x2C then { x with live := v.getLsbD 0, latch := v.getLsbD 1, irqs := writeIrqs v x.irqs }
  else if 0x40 ≤ i ∧ i < 0x140 then
    let r : Reg := BitVec.ofNat 5 ((i - 0x40) / 8)
    x.setV r (setLane (x.vr r) (i % 8) v)
  else if 0x140 ≤ i ∧ i < 0x1C0 then x.setSyWord (i - 0x140) v
  else if 0x1C0 ≤ i ∧ i < 0x1D0 then { x with rstack := x.rstack.set (i - 0x1C0) v }
  else if i = 0x1D0 then { x with rbufVa := v }
  else if 0x1D1 ≤ i ∧ i < 0x1D9 then { x with rbufVal := setLane x.rbufVal (i - 0x1D1) v }
  else if 0x1E0 ≤ i ∧ i < 0x200 then
    let g : BitVec 4 := BitVec.ofNat 4 ((i - 0x1E0) / 2)
    { x with bars := put g ((findD g x.bars HartBar.reset).setWord (i % 2 == 1) v) x.bars }
  else x

/-! ## Slots (R378) -/

/-- The saved accumulator slots of a tile, in the order of its harts: slot m is image m. -/
def State.images (s : State) (t : TileId) : List (HartId × KReg × AccSlot) :=
  t.harts.flatMap fun h => (s.hartOf h).saved.map fun p => (h, p.1, p.2)

/-- A byte of an accumulator image: elements in row-major order, five bytes each (R188, R313). -/
def AccSlot.imageByte (a : AccSlot) (off : Nat) : Byte := (look 0 (off / 5) a.acc).extractLsb' (8 * (off % 5)) 8

/-- The byte of slice tags that holds the tags of words 4 i to 4 i + 3. -/
def State.tagByte (s : State) (t : TileId) (i : Nat) : Byte :=
  (List.range 4).foldl (fun b k => b ||| BitVec.ofNat 8 ((s.mem.tag (Home.slice t (8 * (4 * i + k))).key).code * 4 ^ k)) 0

/-- A byte of a saved context at an offset in its slot. -/
def State.slotByte (s : State) (t : TileId) (off : Nat) : Byte :=
  if off < 0x400000 then s.mem.byte (Home.slice t off).key
  else if off < 0x420000 then s.tagByte t (off - 0x400000)
  else if off < 0x430000 then Config.areaByte s.tick off
  else if off < 0x440000 then
    s.hartByte { tile := t, num := BitVec.ofNat 2 ((off - 0x430000) / 0x4000) } ((off - 0x430000) % 0x4000)
  else if off < 0x6C0000 then
    match (s.images t)[(off - 0x440000) / 0x50000]? with
    | some (_, _, a) => a.imageByte ((off - 0x440000) % 0x50000)
    | none => 0
  else 0

/-- The slot of the loft in which an HBM byte lies (R19, R105). -/
def State.loftSlotAt (s : State) (dpa : Nat) : Option Nat :=
  if s.loftBase ≤ dpa ∧ dpa < 2 ^ 42 then some ((dpa - s.loftBase) / 2 ^ 23) else none

/-- The vtile whose map entry names a slot of the loft (R19). -/
def State.slotTile (s : State) (n : Nat) : Option TileId :=
  (s.tiles.find? fun p => p.2.entry.lslot == some n && !p.2.entry.fresh).map (·.1)

/-- A byte that a slot of the loft holds, where a map entry names the slot (R19, R25): that of the context while the loft holds it, else a
byte of an earlier copy, which is a free value (DESIGN CHOICE, log entry 79). -/
def State.loftByte (s : State) (n dpa : Nat) : Option Byte :=
  (s.slotTile n).map fun t => if s.inLoft t then s.slotByte t ((dpa - s.loftBase) % 2 ^ 23) else Config.areaByte s.tick dpa

/-- A byte as a plain read finds it: one of the loft is its slot's (R378), any other memory's. -/
def State.loadByte (s : State) (h : Home) (i : Nat) : Byte :=
  match h with
  | .hbm dpa => match s.loftSlotAt (dpa + i) with
    | some n => (s.loftByte n (dpa + i)).getD (s.mem.byte (h.key + i))
    | none => s.mem.byte (h.key + i)
  | _ => s.mem.byte (h.key + i)

/-- A home that is no byte of the loft. -/
def State.plain (s : State) : Home → Bool
  | .hbm dpa => (s.loftSlotAt dpa).isNone
  | _ => true

/-- n bytes within one word, or of one line, as an access finds them, as a number. -/
def State.loadNat (s : State) (h : Home) (n : Nat) : Nat :=
  if s.plain h then s.readNat h n else leNat ((List.range n).map (s.loadByte h))
def State.loadWord (s : State) (h : Home) : Word := BitVec.ofNat 64 (s.loadNat h 8)

/-! ## Writes of the loft -/

/-- The tags of the four words whose tags byte i of the slice tags holds. -/
def State.setTagByte (t : TileId) (i : Nat) (b : Byte) (s : State) : State :=
  (List.range 4).foldl (fun s k => s.setTag (Home.slice t (8 * (4 * i + k))) (Tag.ofCode (b.toNat / 4 ^ k))) s

/-- Image m of a tile's saved accumulator slots with a byte of its payload replaced. -/
def State.setImageByte (t : TileId) (m off : Nat) (b : Byte) (s : State) : State :=
  match (s.images t)[m]? with
  | some (h, n, a) =>
    let old := look 0 (off / 5) a.acc
    let sh := 8 * (off % 5)
    let new : BitVec 40 := (old &&& ~~~((0xFF : BitVec 40) <<< sh)) ||| (b.setWidth 40 <<< sh)
    s.modHart h fun x => { x with saved := put n { a with acc := store 0 (off / 5) new a.acc } x.saved }
  | none => s

/-- One byte of a saved context outside its hart areas; the tile area, in the encoding of a revision, is not changed so (DESIGN CHOICE, log
entry 79). -/
def State.setSlotByte (t : TileId) (off : Nat) (b : Byte) (s : State) : State :=
  if off < 0x400000 then { s with mem := s.mem.setByte (Home.slice t off).key b }
  else if off < 0x420000 then s.setTagByte t (off - 0x400000) b
  else if 0x440000 ≤ off ∧ off < 0x6C0000 then s.setImageByte t ((off - 0x440000) / 0x50000) ((off - 0x440000) % 0x50000) b
  else s

/-- Writes n bytes, within one word, of a hart area at an offset in it: into the registers that its words hold. -/
def State.setHartBytes (h : HartId) (off n v : Nat) (s : State) : State :=
  let w := mergeBytes 8 ((2 ^ n - 1) * 2 ^ (off % 8)) (v * 2 ^ (8 * (off % 8))) (s.hartWord h (off / 8)).toNat
  if off < 0x1000 then s.modHart h (·.setAreaWord (off / 8) (BitVec.ofNat 64 w)) else s

/-- Writes n bytes, within one word, of a saved context at an offset in its slot. -/
def State.setSlot (t : TileId) (off n v : Nat) (s : State) : State :=
  if 0x430000 ≤ off ∧ off < 0x440000 then
    s.setHartBytes { tile := t, num := BitVec.ofNat 2 ((off - 0x430000) / 0x4000) } ((off - 0x430000) % 0x4000) n v
  else (leBytes n v).zipIdx.foldl (fun s p => s.setSlotByte t (off + p.2) p.1) s

/-- Writes n bytes within one word: those of a slot change the context that the loft holds there (R378), and nothing where the slot holds an
earlier copy (log entry 79). -/
def State.storeNat (h : Home) (n v : Nat) (s : State) : State :=
  if s.plain h then s.writeNat h n v
  else
    match (s.loftSlotAt h.key).bind s.slotTile with
    | some t => if s.inLoft t then s.setSlot t ((h.key - s.loftBase) % 2 ^ 23) n v else s
    | none => s.writeNat h n v

def State.storeWord (h : Home) (v : Word) (s : State) : State := s.storeNat h 8 v.toNat

end Sys2Proof.Machine
end

