-- ==== Sys2Proof/Machine/Operands.lean ====
section
/-!
DEFINITION. How an instruction reads its operands: the register checks of R213, R78, R227 and R257, immediates (R207),
effective addresses (R239, R269), and the bytes of vector registers.
-/

namespace Sys2Proof

/-- .acq and .ar acquire; .rel and .ar release (R131). -/
def Ord.isAcq : Ord → Bool
  | .acq | .ar => true
  | _ => false

def Ord.isRel : Ord → Bool
  | .rel | .ar => true
  | _ => false

end Sys2Proof

namespace Sys2Proof.Machine

/-- A register an instruction names. -/
abbrev RegRef := File × Reg

def gRef (r : Reg) : RegRef := (.g, r)
def vRef (r : Reg) : RegRef := (.v, r)
def kRef (r : KReg) : RegRef := (.k, r.setWidth 5)

/-- What a check at issue answers. -/
inductive Chk where
  | ok
  | wait
  | trap (t : Posted)
deriving DecidableEq, Repr

/-- SY.EINFO of EMPTY_REG and OVERWRITE_PENDING: register [4:0], file [5] (R360). -/
def regInfo (r : RegRef) : Nat := r.2.toNat + (if r.1 = .v then 32 else 0)

/-- The register checks: reads in the order a, b, c, d under the w bit (R213), then pending writes (R78), then
interlocked results (R227, R257). That an empty source comes before a pending destination is the model's (DESIGN CHOICE, log entry 96). -/
def regCheck (reads writes : List RegRef) (w : Bool) (h : Hart) : Chk :=
  match reads.find? fun r => !h.full r.1 r.2 with
  | some r => if w then .wait else .trap (mkTrap cEMPTYREG (regInfo r))
  | none =>
    match writes.find? fun r => !h.full r.1 r.2 with
    | some r => .trap (mkTrap cOVERWRITE (regInfo r))
    | none => if (reads ++ writes).any fun r => h.vqPending r.1 r.2 then .wait else .ok

/-- Goes on when a check passes, waits at issue, or takes the trap. -/
def guarded (c : Chk) (s : State) (k : Out) : Out :=
  match c with
  | .ok => k
  | .wait => waitAt s
  | .trap t => trap t s

/-- The register checks of the focused hart's instruction. -/
def withRegs (reads writes : List RegRef) (w : Bool) (s : State) (k : Out) : Out :=
  guarded (regCheck reads writes w s.hart) s k

/-! ## Immediates (R207) -/

def sx15 (i : BitVec 15) : Word := i.signExtend 64
def zx15 (i : BitVec 15) : Word := i.setWidth 64

end Sys2Proof.Machine

namespace Sys2Proof

/-- Bytes of a size (R205). -/
def Size.bytes : Size → Nat
  | .b => 1 | .h => 2 | .w => 4 | .d => 8

end Sys2Proof

namespace Sys2Proof.Machine

/-- ea of LD, LDS and ST (R239). -/
def eaScalar (base : Word) (imm : BitVec 8) (n : Nat) : Word := base + imm.signExtend 64 * BitVec.ofNat 64 n

/-- ea of the vector layout (R205). -/
def eaVector (base : Word) (imm : BitVec 5) : Word := base + imm.signExtend 64 * 64

/-! ## Elements (R259, R260) -/

end Sys2Proof.Machine

namespace Sys2Proof

/-- Element size in bytes (R260). -/
def EType.bytes : EType → Nat
  | .si8 | .ui8 => 1
  | .si16 | .f16 | .bf16 => 2
  | .si32 | .f32 => 4
  | .si64 | .f64 => 8

end Sys2Proof

namespace Sys2Proof.Machine

/-- Element i of n bytes of a vector register. -/
def elem (v : VWord) (n i : Nat) : Nat := (v.toNat >>> (8 * n * i)) % 2 ^ (8 * n)

/-- A vector register of L elements of n bytes. -/
def ofElems (n : Nat) (xs : List Nat) : VWord :=
  BitVec.ofNat 512 (xs.foldr (fun x acc => x % 2 ^ (8 * n) + 2 ^ (8 * n) * acc) 0)

/-- Element i is active: bit n * i of the mask, or no mask (R259). -/
def Hart.active (h : Hart) (k : KReg) (n i : Nat) : Bool := decide (k = 0) || (h.kr k).getLsbD (n * i)

/-- The mask register read by an instruction, if it names one. -/
def maskRef (k : KReg) : List RegRef := if k = 0 then [] else [kRef k]

/-- A masked destination counts as read (R259). -/
def maskedDest (k : KReg) (d : Reg) : List RegRef := if k = 0 then [] else [vRef d]

end Sys2Proof.Machine
end

