-- ==== Sys2Proof/Machine/Num.lean ====
section
/-!
DEFINITION. Number formats and arithmetic (spec/06): exact values, decoding, one rounding to nearest even, conversions,
the transcendentals of R199, and the sums of the matrix engine (R201, R202).
-/

namespace Sys2Proof.Machine

/-- A value: NaN, an infinity, or (-1)^neg · m · 2^e, with a signed zero (R192-R195). -/
inductive Val where
  | nan
  | inf (neg : Bool)
  | fin (neg : Bool) (m : Nat) (e : Int)
deriving DecidableEq, Repr

/-- The floating formats (R192). -/
inductive FFmt where
  | f64 | f32 | f16 | bf16 | e4m3 | e5m2 | a40
deriving DecidableEq, Repr

def FFmt.ebits : FFmt → Nat
  | .f64 => 11 | .f32 => 8 | .f16 => 5 | .bf16 => 8 | .e4m3 => 4 | .e5m2 => 5 | .a40 => 8

def FFmt.fbits : FFmt → Nat
  | .f64 => 52 | .f32 => 23 | .f16 => 10 | .bf16 => 7 | .e4m3 => 3 | .e5m2 => 2 | .a40 => 31

def FFmt.bias : FFmt → Nat
  | .f64 => 1023 | .f32 => 127 | .f16 => 15 | .bf16 => 127 | .e4m3 => 7 | .e5m2 => 15 | .a40 => 127

/-- Width of a code. -/
def FFmt.width (f : FFmt) : Nat := f.ebits + f.fbits + 1

/-- The top exponent code with fraction 0. -/
def FFmt.top (f : FFmt) : Nat := (2 ^ f.ebits - 1) * 2 ^ f.fbits

/-- The largest finite magnitude as a code (R193). -/
def FFmt.maxMag (f : FFmt) (nm : Bool) : Nat :=
  match f with
  | .e4m3 => if nm then 0x7F else 0x7E
  | .e5m2 => if nm then 0x7F else 0x7B
  | f => f.top - 1

/-- The canonical NaN (R194); under NM = 1 E4M3 and E5M2 have none and +0 stands in (R197). -/
def FFmt.nan (f : FFmt) (nm : Bool) : Nat :=
  match f with
  | .e4m3 => if nm then 0 else 0x7F
  | .e5m2 => if nm then 0 else 0x7E
  | f => f.top + 2 ^ (f.fbits - 1)

/-- The value of a code (R192, R193). -/
def decodeF (f : FFmt) (nm : Bool) (x : Nat) : Val :=
  let neg := x / 2 ^ (f.width - 1) % 2 = 1
  let mag := x % 2 ^ (f.width - 1)
  let ex := mag / 2 ^ f.fbits
  let fr := mag % 2 ^ f.fbits
  if mag ≤ f.maxMag nm then
    if ex = 0 then .fin neg fr (1 - (f.bias : Int) - f.fbits)
    else .fin neg (2 ^ f.fbits + fr) ((ex : Int) - f.bias - f.fbits)
  else if f ≠ .e4m3 ∧ fr = 0 then .inf neg
  else .nan

/-- m / 2^k to nearest, ties to even. -/
def rne (m k : Nat) : Nat :=
  let q := m / 2 ^ k
  let r := m % 2 ^ k
  if 2 * r > 2 ^ k ∨ (2 * r = 2 ^ k ∧ q % 2 = 1) then q + 1 else q

/-- The magnitude code of m · 2^e rounded once, the exponent unbounded above (R197). -/
def roundMag (f : FFmt) (m : Nat) (e : Int) : Nat :=
  if m = 0 then 0
  else
    let qmin : Int := 1 - (f.bias : Int) - f.fbits
    let q : Int := max ((m.log2 : Int) + e - f.fbits) qmin
    let r := if q ≤ e then m * 2 ^ (e - q).toNat else rne m (q - e).toNat
    (q - qmin).toNat * 2 ^ f.fbits + r

/-- A code with its sign. -/
def signed (f : FFmt) (neg : Bool) (mag : Nat) : Nat := mag + (if neg then 2 ^ (f.width - 1) else 0)

/-- What an overflow or an infinity gives (R197). -/
def overflowF (f : FFmt) (nm sat neg : Bool) (isInf : Bool) : Nat :=
  match f with
  | .e4m3 => if nm || sat then signed f neg (f.maxMag nm) else f.nan nm
  | .e5m2 => if nm then signed f neg (f.maxMag nm) else if sat && !isInf then signed f neg (f.maxMag nm) else signed f neg f.top
  | f => if sat && !isInf then signed f neg (f.maxMag nm) else signed f neg f.top

/-- A value rounded once to a floating format (R197). -/
def encodeF (f : FFmt) (nm sat : Bool) : Val → Nat
  | .nan => f.nan nm
  | .inf neg => overflowF f nm sat neg true
  | .fin neg m e =>
    let mag := roundMag f m e
    if mag > f.maxMag nm then overflowF f nm sat neg false else signed f neg mag

/-! ## Exact arithmetic -/

/-- A signed dyadic number. -/
def ofInt (n : Int) (e : Int) (zeroNeg : Bool) : Val :=
  if n = 0 then .fin zeroNeg 0 0 else .fin (n < 0) n.natAbs e

def toInt (neg : Bool) (m : Nat) : Int := if neg then -(m : Int) else m

def Val.add : Val → Val → Val
  | .nan, _ => .nan
  | _, .nan => .nan
  | .inf a, .inf b => if a = b then .inf a else .nan
  | .inf a, _ => .inf a
  | _, .inf b => .inf b
  | .fin a m e, .fin b n g =>
    let q := min e g
    ofInt (toInt a m * 2 ^ (e - q).toNat + toInt b n * 2 ^ (g - q).toNat) q (a && b && decide (m = 0) && decide (n = 0))

def Val.neg : Val → Val
  | .nan => .nan
  | .inf a => .inf !a
  | .fin a m e => .fin (!a) m e

def Val.abs : Val → Val
  | .nan => .nan
  | .inf _ => .inf false
  | .fin _ m e => .fin false m e

def Val.mul : Val → Val → Val
  | .nan, _ => .nan
  | _, .nan => .nan
  | .inf a, .inf b => .inf (a != b)
  | .inf a, .fin b n _ => if n = 0 then .nan else .inf (a != b)
  | .fin a m _, .inf b => if m = 0 then .nan else .inf (a != b)
  | .fin a m e, .fin b n g => .fin (a != b) (m * n) (e + g)

/-- x < y as numbers, -0 below +0 when `zeros`; no NaN. -/
def Val.lt (zeros : Bool) : Val → Val → Bool
  | .nan, _ => false
  | _, .nan => false
  | .inf a, .inf b => a && !b
  | .inf a, _ => a
  | _, .inf b => !b
  | .fin a m e, .fin b n g =>
    let q := min e g
    let x := toInt a m * 2 ^ (e - q).toNat
    let y := toInt b n * 2 ^ (g - q).toNat
    decide (x < y) || (zeros && decide (x = 0) && decide (y = 0) && a && !b)

def Val.isNan : Val → Bool
  | .nan => true
  | _ => false

/-- Minimum and maximum: NaN if either is, -0 below +0 (R198). -/
def Val.min (x y : Val) : Val := if x.isNan || y.isNan then .nan else if y.lt true x then y else x
def Val.max (x y : Val) : Val := if x.isNan || y.isNan then .nan else if x.lt true y then y else x

/-! ## Integer formats (R200) -/

/-- The integer a code of n bits denotes. -/
def intOf (sgn : Bool) (n x : Nat) : Int :=
  let x := x % 2 ^ n
  if sgn && decide (2 ^ n ≤ 2 * x) then (x : Int) - 2 ^ n else x

/-- The low n bits of an integer. -/
def lowBits (n : Nat) (i : Int) : Nat := (i % (2 ^ n : Int)).toNat

/-- A finite value rounded to an integer. -/
def toInteger (neg : Bool) (m : Nat) (e : Int) : Int := toInt neg (if 0 ≤ e then m * 2 ^ e.toNat else rne m (-e).toNat)

/-- A value converted to an integer format (R197). -/
def encodeInt (sgn : Bool) (n : Nat) (sat : Bool) : Val → Nat
  | .nan => 0
  | .inf neg => lowBits n (if neg then lo else hi)
  | .fin neg m e =>
    let i := toInteger neg m e
    if lo ≤ i ∧ i ≤ hi then lowBits n i
    else if sat then lowBits n (if i < 0 then lo else hi) else lowBits n i
where
  lo : Int := if sgn then -(2 ^ (n - 1) : Int) else 0
  hi : Int := if sgn then 2 ^ (n - 1) - 1 else 2 ^ n - 1

/-! ## Format codes (R186) -/

/-- What a format code names. -/
inductive Fmt where
  | block (m : Nat) (long : Bool)
  | flt (f : FFmt)
  | int (sgn : Bool) (n : Nat)
  | pm1
  | none
deriving DecidableEq, Repr

def fmtOf (code : Nat) : Fmt :=
  if code ≤ 6 then .block (code + 2) true
  else if code ≤ 0x0D then .block (code - 5) false
  else
    match code with
    | 0x0E => .flt .f64
    | 0x0F => .flt .f32
    | 0x10 => .flt .f16
    | 0x11 => .flt .bf16
    | 0x12 => .flt .e4m3
    | 0x13 => .flt .e5m2
    | 0x14 => .flt .a40
    | 0x15 => .int true 2
    | 0x16 => .int true 4
    | 0x17 => .int true 8
    | 0x18 => .int true 16
    | 0x19 => .int false 4
    | 0x1A => .int false 8
    | 0x1B => .pm1
    | _ => .none

/-- Bits of an element in memory and in lanes: A40 takes the lane form (R188). -/
def Fmt.laneBits : Fmt → Nat
  | .block m _ => m
  | .flt .a40 => 64
  | .flt f => f.width
  | .int _ n => n
  | .pm1 => 1
  | .none => 0

/-- The value of an element code under NM. -/
def Fmt.decode (f : Fmt) (nm : Bool) (x : Nat) : Val :=
  match f with
  | .flt g => decodeF g nm (x % 2 ^ g.width)
  | .int s n => let i := intOf s n x; .fin (i < 0) i.natAbs 0
  | .pm1 => .fin (x % 2 = 0) 1 0
  | _ => .nan

/-- Whether a value's sign bit is 1, for PM1's sign rule (R197). -/
def Val.sign : Val → Bool
  | .nan => false
  | .inf n => n
  | .fin n _ _ => n

/-- A value converted to an element of a format that is no block format (R197). -/
def Fmt.encode (f : Fmt) (nm sat : Bool) (v : Val) : Nat :=
  match f with
  | .flt g => encodeF g nm sat v
  | .int s n => encodeInt s n sat v
  | .pm1 => if v.sign then 0 else 1
  | _ => 0

end Sys2Proof.Machine

namespace Sys2Proof

/-- The format of a vector element type. -/
def EType.fmt : EType → Machine.Fmt
  | .si8 => .int true 8 | .ui8 => .int false 8 | .si16 => .int true 16 | .si32 => .int true 32 | .si64 => .int true 64
  | .f16 => .flt .f16 | .bf16 => .flt .bf16 | .f32 => .flt .f32 | .f64 => .flt .f64

/-- The floating format of a type, if it is one. -/
def EType.ffmt : EType → Option Machine.FFmt
  | .f16 => some .f16 | .bf16 => some .bf16 | .f32 => some .f32 | .f64 => some .f64
  | _ => none

/-- Whether an integer type is signed. -/
def EType.signed : EType → Bool
  | .ui8 => false
  | _ => true

end Sys2Proof

namespace Sys2Proof.Machine

/-! ## Transcendentals (R199): exact values to 256 bits with a sticky bit, rounded once (DEDUCED, log entry 11) -/

/-- Fraction bits of the fixed-point values below. -/
def fixP : Nat := 320

/-- floor(ln 2 · 2^320). -/
def ln2 : Nat := 1480553391661173448385607439722553250922680800745876974795605978609098082859138712941075737848984

/-- e^y · 2^320 for y in [0, 1), in fixed point, by the power series. -/
def expFix (y : Nat) : Nat := go 90 1 (2 ^ fixP) 0
where
  go : Nat → Nat → Nat → Nat → Nat
    | 0, _, _, acc => acc
    | n + 1, k, term, acc => go n (k + 1) (term * y / 2 ^ fixP / k) (acc + term)

/-- A positive inexact value m · 2^e with a sticky bit below it. -/
def sticky (m : Nat) (e : Int) : Val := .fin false (2 * m + 1) (e - 1)

/-- 2^x. -/
def exp2V : Val → Val
  | .nan => .nan
  | .inf neg => if neg then .fin false 0 0 else .inf false
  | .fin neg m e =>
    if m = 0 then .fin false 1 0
    else if 12 < (m.log2 : Int) + e then (if neg then .fin false 1 (-5000) else .fin false 1 5000)
    else
      -- x in fixed point: exact, since no source has bits below 2^-320
      let x : Int := toInt neg m * 2 ^ (e + fixP).toNat
      let n : Int := x / 2 ^ fixP
      let f : Nat := (x % 2 ^ fixP).toNat
      if f = 0 then .fin false 1 n else sticky (expFix (f * ln2 / 2 ^ fixP)) (n - fixP)

/-- 1 / x. -/
def rcpV : Val → Val
  | .nan => .nan
  | .inf neg => .fin neg 0 0
  | .fin neg m e =>
    if m = 0 then .inf neg
    else
      let q := 2 ^ 256 / m
      let r := if 2 ^ 256 % m = 0 then 0 else 1
      .fin neg (2 * q + r) (-e - 257)

/-- The integer square root. -/
def isqrt (n : Nat) : Nat := go (n.log2 / 2 + 1) 0
where
  go : Nat → Nat → Nat
    | 0, r => r
    | k + 1, r => let t := r + 2 ^ k; go k (if t * t ≤ n then t else r)

/-- 1 / √x. -/
def rsqV : Val → Val
  | .nan => .nan
  | .inf neg => if neg then .nan else .fin false 0 0
  | .fin neg m e =>
    if m = 0 then .inf neg
    else if neg then .nan
    else
      let m' := if e % 2 = 0 then m else 2 * m
      let e' := if e % 2 = 0 then e else e - 1
      let y := isqrt (2 ^ 512 / m')
      let r := if y * y * m' = 2 ^ 512 then 0 else 1
      .fin false (2 * y + r) (-(e' / 2) - 257)

/-- 1 / (1 + e^-x). -/
def sigV : Val → Val
  | .nan => .nan
  | .inf neg => if neg then .fin false 0 0 else .fin false 1 0
  | .fin neg m e =>
    if m = 0 then .fin false 1 (-1)
    else if 9 < (m.log2 : Int) + e then (if neg then .fin false 1 (-5000) else sticky (2 ^ 400 - 1) (-400))
    else
      let z : Int := -(toInt neg m * 2 ^ (e + fixP).toNat)
      let n : Int := z / ln2
      let ex := expFix (z % ln2).toNat
      let up := n.toNat
      let dn := (-n).toNat
      sticky (2 ^ (700 + fixP + dn) / (2 ^ (fixP + dn) + ex * 2 ^ up)) (-700)

/-! ## Matrix sums (R201, R202) -/

/-- A dyadic number added to a sum held as an integer over 2^q. -/
def sumExact (ps : List (Int × Int)) : Int × Int :=
  let q := ps.foldl (fun q p => min q p.2) 0
  (ps.foldl (fun acc p => acc + p.1 * 2 ^ (p.2 - q).toNat) 0, q)

/-- The exact sum of finite values. -/
def sumFin (vs : List Val) : Val :=
  let s := sumExact (vs.filterMap fun v => match v with
    | .fin n m e => some (toInt n m, e)
    | _ => none)
  ofInt s.1 s.2 false

/-- Whether NaN or both infinities occur, and which infinity does. -/
def special (vs : List Val) : Option Val :=
  let pos := vs.contains (.inf false)
  let neg := vs.contains (.inf true)
  if vs.any Val.isNan || (pos && neg) then some .nan else if pos then some (.inf false) else if neg then some (.inf true) else none

/-- GroupSum with a floating operand: truncation into the window of 90 bits (R202). -/
def groupWindow (ps : List Val) : Val :=
  match special ps with
  | some v => v
  | none =>
    let es := ps.filterMap fun p => match p with
      | .fin _ m e => if m = 0 then none else some ((m.log2 : Int) + e)
      | _ => none
    match es with
    | [] => .fin false 0 0
    | e0 :: rest =>
      let w := rest.foldl max e0 - 89
      ofInt (ps.foldl (fun acc p => match p with
        | .fin n m e => acc + toInt n (if w ≤ e then m * 2 ^ (e - w).toNat else m / 2 ^ (w - e).toNat)
        | _ => acc) 0) w false

/-- GroupSum (R202): exact unless an operand format is floating. -/
def groupSum (floating : Bool) (ps : List Val) : Val := if floating then groupWindow ps else sumFin ps

/-- RoundA40 (R9). -/
def roundA40 (v : Val) : Nat := encodeF .a40 false false v

def a40 (x : Nat) : Val := decodeF .a40 false x

/-- acc + RoundA40(G), rounded (R201). -/
def accAdd (acc : Nat) (g : Val) : Nat := roundA40 ((a40 acc).add (a40 (roundA40 g)))

/-! ## Block formats (R189-R191) -/

/-- Elements per block, and blocks per line. -/
def blockK (long : Bool) : Nat := if long then 32 else 16
def blocksPerLine (m : Nat) (long : Bool) : Nat := Nat.min 8 (960 / (blockK long * m))

/-- Elements of K per block line. -/
def lineK (m : Nat) (long : Bool) : Nat := blocksPerLine m long * blockK long

/-- The value of element i of a block line given as a number of 1,024 bits (R189, R190). -/
def blockElem (m : Nat) (long : Bool) (line : Nat) (i : Nat) : Val :=
  let E := line / 2 ^ (8 * (i / blockK long)) % 256
  let M := intOf true m (line / 2 ^ (64 + m * i) % 2 ^ m)
  .fin (M < 0) M.natAbs ((E : Int) - 127 - ((m : Int) - 1))

/-- A value as an input of a block: NaN is 0, an infinity the largest finite value of the source (R191). -/
def blockInput (src : FFmt) : Val → Val
  | .nan => .fin false 0 0
  | .inf n => (decodeF src false (src.maxMag false)).mul (.fin n 1 0)
  | v => v

/-- RNE(x · 2^s) of a finite value. -/
def rneScale (v : Val) (s : Int) : Int :=
  match v with
  | .fin n m e => toInteger n m (e + s)
  | _ => 0

/-- A block of inputs: its exponent and its mantissas as m-bit codes (R191). -/
def encodeBlock (m : Nat) (src : FFmt) (xs : List Val) : Nat × List Nat :=
  let xs := xs.map (blockInput src)
  let tops := xs.filterMap fun v => match v with
    | .fin _ n e => if n = 0 then none else some ((n.log2 : Int) + e)
    | _ => none
  match tops with
  | [] => (0, xs.map fun _ => 0)
  | t :: ts =>
    let lim : Int := 2 ^ (m - 1)
    let E0 : Int := min 255 (max 0 (ts.foldl max t + 128))
    let ms := fun (E : Int) => xs.map fun v => rneScale v ((m : Int) - 1 - (E - 127))
    let beyond := (ms E0).any fun M => decide (lim ≤ M.natAbs) && decide (M ≠ -lim)
    let E := if beyond && decide (E0 < 255) then E0 + 1 else E0
    (E.toNat, (ms E).map fun M => lowBits m (max (-lim) (min (lim - 1) M)))

end Sys2Proof.Machine
end

