-- ==== Sys2Proof/Machine/Homes.lean ====
section
/-!
DEFINITION. What a home does to its words as one action (R55, R57, R107, R112): reads, writes, uncorrectable errors (R60,
R61), atomics (R250, R251), routines (R115-R120), and the pieces of an in-flight access.
-/

namespace Sys2Proof.Machine

/-! ## Uncorrectable errors (R60, R61) -/

/-- The ECC granule at a home (R61): a word in a slice, a sector of 32 bytes in HBM or a loft slot. -/
def State.granuleOf (s : State) (h : Home) : Nat :=
  match h with
  | .slice t _ => if s.inLoft t then 32 else 8
  | .hbm _ => 32
  | _ => 0

/-- The words of the granule that holds a home. -/
def State.granuleWords (s : State) (h : Home) : List Home :=
  let g := s.granuleOf h
  (List.range (g / 8)).map fun i => (h.align g).plus (8 * i)

/-- The granule is uncorrectable and nothing has read it yet. -/
def State.latent (s : State) (h : Home) : Bool := s.granuleOf h != 0 && s.latentUE.contains (h.align (s.granuleOf h)).key

/-- Words become POISON; parked loads are woken as by TAG.SET to POISON (R57). -/
def State.poisonWords (hs : List Home) (s : State) : State :=
  hs.foldl (fun s h => let row := tagRow (.set .poison) (s.tagOf h); (s.setTag h row.next).wake h row.loads row.filler) s

/-- The kind of an error record by home: the loft's words are HBM's (R105, R382). -/
def State.ueKind (s : State) : Home → Nat
  | .slice t _ => if s.inLoft t then 0x02 else 0x01
  | _ => 0x02

/-- An uncorrectable granule that is read: its words are spoilt as the reader's kind has it, and the detection is logged (R60). -/
def State.detectBy (spoil : List Home → State → State) (h : Home) (s : State) : State :=
  if s.latent h then
    let k := (h.align (s.granuleOf h)).key
    ({ spoil (s.granuleWords h) s with latentUE := s.latentUE.filter (· ≠ k) }).logHome (s.ueKind h) h
  else s

/-- A home reads a word: an uncorrectable error is detected, poisons the granule's words and is logged (R60). (DESIGN CHOICE: log entry 49.) -/
def State.detect (h : Home) (s : State) : State := s.detectBy (fun ws s => s.poisonWords ws) h

/-- A scrub reads a word: it wakes no waiter (R90). -/
def State.detectScrub (h : Home) (s : State) : State := s.detectBy (fun ws s => ws.foldl (fun s w => s.setTag w .poison) s) h

/-- A home writes words: a granule that is only partly overwritten is read first, and if it is uncorrectable every word not
wholly overwritten becomes POISON (R61). `whole` are the words of the granule that the store wholly overwrites. -/
def State.detectWrite (h : Home) (whole : List Home) (s : State) : State :=
  if s.latent h then
    let k := (h.align (s.granuleOf h)).key
    let lost := (s.granuleWords h).filter fun w => !whole.contains w
    let s := { s with latentUE := s.latentUE.filter (· ≠ k) }
    if lost = [] then s else (s.poisonWords lost).logHome 0x03 h
  else s

/-! ## One word, one action (R55, R57) -/

/-- A row of the state table on the data and the tag of a word. -/
def State.apply (row : TagRow) (h : Home) (mask data : Nat) (s : State) : State :=
  (if row.writes then s.storeNat h 8 (mergeBytes 8 mask data (s.loadNat h 8))
    else if row.zero then s.storeNat h 8 0 else s).setTag h row.next

/-- The state-table action on the word at a home, with bytes to write where the row writes. -/
def State.act (a : TagAct) (h : Home) (mask data : Nat) (s : State) : State × TagRow :=
  let row := tagRow a (s.tagOf h)
  ((s.apply row h mask data).wake h row.loads row.filler, row)

/-! ## Atomics (R250, R251) -/

/-- The new value of an AMO on n bits. -/
def amoNew (f : AmoOp) (dbl : Bool) (old y e : Nat) : Nat :=
  let n := if dbl then 64 else 32
  let ff := if dbl then FFmt.f64 else FFmt.f32
  match f with
  | .add => (old + y) % 2 ^ n
  | .fadd => encodeF ff false false ((decodeF ff false old).add (decodeF ff false y))
  | .and => old &&& y
  | .or => old ||| y
  | .xor => old ^^^ y
  | .min => Nat.min old y
  | .mins => if intOf true n old ≤ intOf true n y then old else y
  | .max => Nat.max old y
  | .maxs => if intOf true n old ≤ intOf true n y then y else old
  | .fmax => encodeF ff false false ((decodeF ff false old).max (decodeF ff false y))
  | .swap => y
  | .cas => if old = e then y else old

/-! ## Routines (R115-R118) -/

/-- A step of the table of R116: known operation, unused fields zero, and its skip and range limits (R118). -/
def stepOk (s n : Nat) (x : RStep) : Bool :=
  let z := fun (d a b : Bool) => (d || x.d == 0) && (a || x.a == 0) && (b || x.b == 0)
  match x.op with
  | 0x01 => z true false false && x.imm < 4
  | 0x02 => z false true false && x.imm < 4
  | 0x03 => z true false false && x.imm < 4
  | 0x04 => z false true false && x.imm < 4
  | 0x05 => z true false false
  | 0x15 => z false true false && 1 ≤ x.imm && x.imm ≤ 14 && s + x.imm < n - 1
  | 0x16 => z false true false && x.imm == 0
  | 0x17 => z false false false && x.imm ≤ 0xFFFE
  | op => 0x06 ≤ op && op ≤ 0x14 && x.imm == 0

/-- An entry firmware accepts (R115, R118): empty, or N steps ending in DONE or FAIL. R118's causes of refusal name neither nonzero words
past step N or in an empty entry, nor SKIPZ with n = 0, nor FAIL with code 0xFFFF; this refuses them too (DEDUCED, log entry 63). -/
def routineOk (ws : List Word) : Bool :=
  let all := ws.flatMap fun w => [w.toNat % 2 ^ 32, w.toNat / 2 ^ 32]
  let hd := all.headD 0
  let n := hd % 16
  let steps := (all.drop 1).take n
  hd < 16 && ((all.drop 1).drop n).all (· == 0) &&
    (n == 0 ||
      ((List.range n).all fun s => stepOk s n (stepOf (steps.getD s 0))) &&
      ((stepOf (steps.getD (n - 1) 0)).op == 0x16 || (stepOf (steps.getD (n - 1) 0)).op == 0x17))

/-- A routine at work: its registers, and the sector's four words with their tags, and which changed. -/
structure RState where
  c    : List Word
  data : List Word
  tags : List Tag
  wr   : List Bool
  /-- Words on which a step has called for a wake of loads, and of a filler (R59). -/
  loads : List Bool
  empt : List Bool
deriving DecidableEq, Repr

/-- How a routine ends. -/
inductive REnd where
  | done (v : Word) (r : RState)
  | fail (v : Word)
  | poison (word : Nat)
deriving DecidableEq, Repr

def failWord (code : Nat) : Word := BitVec.ofNat 64 (2 ^ 63 + code)

/-- The two-source steps 0x06 to 0x14 (R116). -/
def routineAlu (op : Nat) (d x y : Word) : Word :=
  let f64 := fun (v : Val) => BitVec.ofNat 64 (encodeF .f64 false false v)
  match op with
  | 0x06 => x + y
  | 0x07 => x - y
  | 0x08 => x &&& y
  | 0x09 => x ||| y
  | 0x0A => x ^^^ y
  | 0x0B => if x.toNat ≤ y.toNat then x else y
  | 0x0C => if x.toInt ≤ y.toInt then x else y
  | 0x0D => if x.toNat ≤ y.toNat then y else x
  | 0x0E => if x.toInt ≤ y.toInt then y else x
  | 0x0F => flagWord (x == y)
  | 0x10 => flagWord (decide (x.toNat < y.toNat))
  | 0x11 => flagWord (decide (x.toInt < y.toInt))
  | 0x12 => if d = 0 then y else x
  | 0x13 => f64 ((decodeF .f64 false x.toNat).add (decodeF .f64 false y.toNat))
  | _ => f64 ((decodeF .f64 false x.toNat).max (decodeF .f64 false y.toNat))

/-- Runs the steps in order; `skip` of them are passed over (R117). -/
def runRoutine : List RStep → Nat → RState → REnd
  | [], _, _ => .fail (failWord 0xFFFF)
  | _ :: rest, skip + 1, r => runRoutine rest skip r
  | x :: rest, 0, r =>
    let g := fun i => r.c.getD i 0
    let w := (bits (g 3) 0 2 + x.imm % 4) % 4
    let setC := fun (v : Word) => { r with c := r.c.set x.d v }
    match x.op with
    | 0x01 => if r.tags.getD w .full = .poison then .poison w else runRoutine rest 0 (setC (r.data.getD w 0))
    | 0x02 =>
      if r.tags.getD w .full = .poison then .poison w
      else
        runRoutine rest 0 { r with data := r.data.set w (g x.a), tags := r.tags.set w .full, wr := r.wr.set w true,
                                   loads := r.loads.modify w (· || (tagRow .atomic (r.tags.getD w .full)).loads) }
    | 0x03 => runRoutine rest 0 (setC (BitVec.ofNat 64 (r.tags.getD w .full).code))
    | 0x04 =>
      if bits (g x.a) 0 2 = 2 then .fail (failWord 0xFFFF)
      else
        let row := tagRow (.set (Tag.ofCode (bits (g x.a) 0 2))) (r.tags.getD w .full)
        runRoutine rest 0 { r with tags := r.tags.set w row.next, data := if row.zero then r.data.set w 0 else r.data,
                                   wr := r.wr.set w true, loads := r.loads.modify w (· || row.loads), empt := r.empt.modify w (· || row.filler) }
    | 0x05 => runRoutine rest 0 (setC (sext 18 x.imm))
    | 0x15 => runRoutine rest (if g x.a = 0 then x.imm else 0) r
    | 0x16 => .done (g x.a) r
    | 0x17 => .fail (failWord (x.imm % 2 ^ 16))
    | op => runRoutine rest 0 (setC (routineAlu op (g x.d) (g x.a) (g x.b)))

/-- What a piece of an access answers. -/
inductive Ans where
  | done (v : VWord)
  | wait
  | poison (va : Word)
deriving DecidableEq, Repr

/-- A SHIP at its home: the routine over the 32-byte sector of the addressed word (R117, R119, R120). -/
def State.ship (n : Nat) (h : Home) (va : Word) (c1 c2 : Word) (s : State) : State × Ans :=
  let base := h.align 32
  let words := (List.range 4).map fun i => base.plus (8 * i)
  match routineSteps (findD n s.routines []) with
  | [] => (s, .done ((failWord 0xFFFF).setWidth 512))
  | steps =>
    let s := words.foldl (fun s w => s.detect w) s
    let i := (h.key - base.key) / 8 % 4
    let vaOf := fun (w : Nat) => va - BitVec.ofNat 64 (8 * i) + BitVec.ofNat 64 (8 * w)
    if s.tagOf h = .poison then (s, .poison va)
    else
      let r0 : RState :=
        { c := [s.loadWord h, c1, c2, BitVec.ofNat 64 i, 0, 0, 0, 0], data := words.map s.loadWord, tags := words.map s.tagOf,
          wr := [false, false, false, false], loads := [false, false, false, false], empt := [false, false, false, false] }
      match runRoutine steps 0 r0 with
      | .fail v => (s, .done (v.setWidth 512))
      | .poison w => (s, .poison (vaOf w))
      | .done v r =>
        let s' := (List.range 4).foldl (fun (s : State) k =>
          let w := base.plus (8 * k)
          if r.wr.getD k false then
            ((s.storeWord w (r.data.getD k 0)).setTag w (r.tags.getD k .full)).wake w (r.loads.getD k false) (r.empt.getD k false)
          else s) s
        (s', .done (v.setWidth 512))

/-! ## Pieces of an access (R107, R110, R126) -/

/-- The word-aligned homes that a run of bytes touches. -/
def wordsOf (h : Home) (len : Nat) : List Home :=
  let a := h.align 8
  (List.range ((h.key - a.key + len + 7) / 8)).map fun i => a.plus (8 * i)

/-- Places n bytes in a value at a byte position. -/
def putBytes (v : VWord) (pos n x : Nat) : VWord :=
  let m := (2 ^ (8 * n) - 1) * 2 ^ (8 * pos)
  (v &&& ~~~(BitVec.ofNat 512 m)) ||| BitVec.ofNat 512 (x % 2 ^ (8 * n) * 2 ^ (8 * pos))

/-- The POISON word of lowest address among those a piece reads. -/
def State.poisonIn (s : State) (p : Part) : Option Word :=
  let ws := p.reads.flatMap fun r => (wordsOf (p.home.plus r.off) r.len).filter fun w => s.tagOf w = .poison
  (ws.map fun w => w.key - p.home.key).foldl (fun acc o => match acc with
    | none => some o
    | some q => some (Nat.min q o)) none |>.map fun o => p.va + BitVec.ofNat 64 o

/-- A plain read of a piece (R57). -/
def State.readPart (p : Part) (v : VWord) (s : State) : State × Ans :=
  let s := p.reads.foldl (fun s r => (wordsOf (p.home.plus r.off) r.len).foldl (fun s w => s.detect w) s) s
  match s.poisonIn p with
  | some va => (s, .poison va)
  | none => (s, .done (p.reads.foldl (fun v r => putBytes v r.pos r.len (s.loadNat (p.home.plus r.off) r.len)) v))

/-- A plain write of a piece: each word by its kind; elements that together cover a word overwrite it wholly (R56, R57, R61). -/
def State.writePart (p : Part) (s : State) : State :=
  let covered := fun (off : Nat) => ((p.writes.filter fun i => i.off = off).foldl (fun m i => m ||| i.mask) 0) == 255
  let whole := (p.writes.filter fun i => covered i.off).map fun i => p.home.plus i.off
  p.writes.foldl (fun s i =>
    let h := p.home.plus i.off
    ((s.detectWrite h whole).act (if i.whole then .write else .partWrite) h i.mask i.data).1) s

/-- A full/empty access on one word or on the eight words of a line (R57, R242, R270). `more` leaves PARKED behind a taking
access (R72). A fill is a store: it loses only the words of a granule that it does not wholly overwrite (R61). -/
def State.fePart (kind : Nat) (more : Bool) (h : Home) (va : Word) (data : VWord) (s : State) : State × Ans :=
  let line := kind = 3 ∨ kind = 4
  let ws := if line then (List.range 8).map fun i => h.plus (8 * i) else [h]
  let act : TagAct := if kind = 0 then .waiting else if kind = 1 ∨ kind = 3 then .taking else .filling
  let s := if act == .filling then s else ws.foldl (fun s w => s.detect w) s
  let bad := ws.filter fun w => s.tagOf w = .poison
  match bad with
  | w :: _ => (s, .poison (va + BitVec.ofNat 64 (w.key - h.key)))
  | [] =>
    if ws.all fun w => !(tagRow act (s.tagOf w)).wait then
      let s := if act == .filling then ws.foldl (fun s w => s.detectWrite w ws) s else s
      let v := ofElems 8 (ws.map fun w => s.loadNat w 8)
      let s1 := (ws.zipIdx).foldl (fun s p =>
        let s := s.apply (tagRow act (s.tagOf p.1)) p.1 255 (data.toNat / 2 ^ (64 * p.2) % 2 ^ 64)
        if more && act == .taking then s.setTag p.1 .parked else s) s
      (s1.wakeWords h (ws.filter fun w => (tagRow act (s.tagOf w)).loads) (ws.filter fun w => (tagRow act (s.tagOf w)).filler), .done v)
    else (s, .wait)

/-- An AMO on its word (R250). POISON is reported at the operand's own address (R60; DESIGN CHOICE, log entry 83). -/
def State.amoPart (f : AmoOp) (dbl : Bool) (h : Home) (va : Word) (y e : Word) (s : State) : State × Ans :=
  let n := if dbl then 8 else 4
  let w := h.align 8
  let s := s.detect w
  if s.tagOf w = .poison then (s, .poison va)
  else
    let old := s.loadNat h n
    let new := amoNew f dbl old (y.toNat % 2 ^ (8 * n)) (e.toNat % 2 ^ (8 * n))
    let sh := h.key - w.key
    ((s.act .atomic w ((2 ^ n - 1) * 2 ^ sh) (new * 2 ^ (8 * sh))).1, .done (BitVec.ofNat 512 old))

/-- TAG.GET of the words of a piece: their codes go to the result's bit pairs (R245). It changes no word, so an error that one holds undetected
stays so, though R60 has a home detect it on reading the word (DESIGN CHOICE, log entry 94). -/
def State.tagGetPart (p : Part) (v : VWord) (s : State) : State × Ans :=
  (s, .done (p.reads.foldl (fun v r => v ||| BitVec.ofNat 512 ((s.tagOf (p.home.plus r.off)).code * 2 ^ (2 * r.pos))) v))

/-- TAG.SET of one word; an uncorrectable error met makes it POISON whatever the code (R246). -/
def State.tagSetWord (x : Tag) (h : Home) (s : State) : State :=
  if s.latent h then (s.detect h).poisonWords [h] else (s.act (.set x) h 0 0).1

def State.tagSetPart (x : Tag) (p : Part) (s : State) : State × Ans :=
  (p.reads.foldl (fun s r => s.tagSetWord x (p.home.plus r.off)) s, .done 0)

/-- The offset of a piece's single operand. -/
def Part.at0 (p : Part) : Nat := match p.reads with
  | r :: _ => r.off
  | [] => match p.writes with
    | i :: _ => i.off
    | [] => 0

/-- The words that a piece of an access of a kind reads or writes: those of its sector for a SHIP (R117). -/
def Part.words (k : OpKind) (p : Part) : List Home :=
  match k with
  | .ship _ => (List.range 4).map fun i => ((p.home.plus p.at0).align 32).plus (8 * i)
  | _ => p.reads.flatMap (fun r => wordsOf (p.home.plus r.off) r.len) ++ p.writes.map fun i => (p.home.plus i.off).align 8

/-- What an in-flight access does at the home of a piece, as one action. -/
def State.perform (k : OpKind) (p : Part) (v : VWord) (x y : Word) (more : Bool) (s : State) : State × Ans :=
  let h := p.home.plus p.at0
  let va := p.va + BitVec.ofNat 64 p.at0
  match k with
  | .load _ _ => s.readPart p v
  | .vload => s.readPart p v
  | .store => (s.writePart p, .done v)
  | .amo f d => s.amoPart f d h va x y
  | .ship n => s.ship n h va x y
  | .tagGet => s.tagGetPart p v
  | .tagSet t => s.tagSetPart t p
  | .stEmpty =>
    let s := s.detectWrite h [h]
    ((s.act .emptying h 255 x.toNat).1, .done v)
  | .fe kind => s.fePart kind more h va (if kind = 4 then v else x.setWidth 512)
  | .device => (s, .done v)
  | .flush => (s, .done v)

end Sys2Proof.Machine
end

