-- ==== Sys2Proof/Machine/Translate.lean ====
section
/-!
DEFINITION. Translation: page tables and TLBs (R28-R34), the DPIT (R35-R37), the tile map (R19-R24), permissions (R31)
and the order of faults (R15).
-/

namespace Sys2Proof.Machine

/-! ## Leaves (R30) -/

def leafV (w : Word) : Bool := w.getLsbD 0
def leafIs (w : Word) : Bool := w.getLsbD 1
def leafR (w : Word) : Bool := w.getLsbD 2
def leafW (w : Word) : Bool := w.getLsbD 3
def leafX (w : Word) : Bool := w.getLsbD 4
def leafU (w : Word) : Bool := w.getLsbD 5
def leafPeer (w : Word) : Bool := w.getLsbD 6
def leafNC (w : Word) : Bool := w.getLsbD 7
def leafMT (w : Word) : Nat := bits w 8 2

/-- log2 of the page a leaf maps at a level (R28). -/
def pageBits (level : Nat) : Nat :=
  match level with
  | 1 => 30
  | 2 => 21
  | _ => 16

/-- The home of an address under a leaf of a page of 2^n bytes (R30). -/
def leafHome (leaf : Word) (n : Nat) (va : Nat) : Home :=
  let base := bits leaf 16 36 * 2 ^ 16
  if leafMT leaf = 1 then .host (bits leaf 10 2) (base + va % 2 ^ n) else .hbm (base % 2 ^ 42 + va % 2 ^ n)

/-- A reserved bit, a reserved type, a misaligned address, or a leaf or table at the wrong level (R14, R30). -/
def pteReserved (w : Word) (level : Nat) : Bool :=
  if leafIs w then
    level == 0 || bits w 52 8 != 0 || bits w 12 4 != 0 || leafMT w ≥ 2 ||
      decide (bits w 16 36 * 2 ^ 16 % 2 ^ pageBits level ≠ 0) ||
      (leafMT w == 0 && (bits w 42 10 != 0 || bits w 10 2 != 0))
  else
    level == 3 || bits w 2 6 != 0 || bits w 42 22 != 0 || (decide (level < 2) && bits w 8 4 != 0)

/-- The address of the entry a walk reads at a level (R28). -/
def pteAddr (table va level : Nat) : Nat :=
  match level with
  | 0 => table + 8 * (va / 2 ^ 39 % 512)
  | 1 => table + 8 * (va / 2 ^ 30 % 512)
  | 2 => table + 8 * (va / 2 ^ 21 % 512)
  | _ => table + 8 * (va / 2 ^ 16 % 32)

/-! ## TLBs (R32) -/

def TlbEntry.covers (root va : Nat) (e : TlbEntry) : Bool := e.root == root && e.base == va / 2 ^ e.bits * 2 ^ e.bits

/-- The root a hart translates with (R29). -/
def Hart.root (h : Hart) : Nat := bits h.sy.ptbase 12 30 * 4096

/-- The entry a hart translates an address with: its L1 TLB, then its tile's L2 TLB (R32). -/
def State.tlbFind (s : State) (h : HartId) (va : Nat) : Option TlbEntry :=
  let x := s.hartOf h
  match x.tlb.find? (·.covers x.root va) with
  | some e => some e
  | none => (s.tile h.tile).tlb2.find? (·.covers x.root va)

/-- Adds an entry to a TLB of a capacity, dropping the oldest; an entry that covers the same page is replaced. (DESIGN CHOICE: log entry 48.) -/
def tlbAdd (cap : Nat) (e : TlbEntry) (l : List TlbEntry) : List TlbEntry :=
  (e :: l.filter fun x => !(x.root == e.root && x.base == e.base && x.bits == e.bits)).take cap

/-- The set of the L2 TLB that an entry goes to: the VA bits just above its page offset (R32). -/
def TlbEntry.set (e : TlbEntry) : Nat := e.base / 2 ^ e.bits % 1024

/-- Adds an entry to an L2 TLB of 8,192 entries: 8 ways of 1,024 sets that the three page sizes share, the oldest of the set out
(R32). (DESIGN CHOICE: log entry 48.) -/
def tlb2Add (e : TlbEntry) (l : List TlbEntry) : List TlbEntry :=
  tlbAdd 8 e (l.filter fun x => x.set == e.set) ++ l.filter fun x => x.set != e.set

/-- An L2 hit fills the hart's L1 TLB (R32). -/
def State.tlbFill (h : HartId) (e : TlbEntry) (s : State) : State :=
  if (s.hartOf h).tlb.contains e then s else s.modHart h fun x => { x with tlb := tlbAdd 512 e x.tlb }

/-! ## Faults in the order of R15 -/

/-- What a translation needs: read, write, execute; and what the form cannot use (R31). -/
structure Need where
  r  : Bool
  w  : Bool
  x  : Bool
  /-- A full/empty form: host pages have no tags (R53). -/
  fe : Bool
deriving DecidableEq, Repr

def needR : Need := { r := true, w := false, x := false, fe := false }
def needW : Need := { r := false, w := true, x := false, fe := false }
def needX : Need := { r := false, w := false, x := true, fe := false }
def needRW : Need := { r := true, w := true, x := false, fe := false }

/-- A fault found on an address, with its rank in R15, and for a page-walk reason the level of the walk. -/
structure XFault where
  rank   : Nat
  level  : Nat
  cause  : Nat
  reason : Nat
  va     : Word
deriving DecidableEq, Repr

/-- The answer of a translation. -/
inductive Tr where
  /-- The byte's home, and whether its line may be held in the L1. -/
  | ok (h : Home) (cached : Bool)
  | fault (f : XFault)
  /-- No translation is held: a walk is needed. -/
  | miss (va : Nat)
  /-- The tile map's entry is not held: a map read is needed. -/
  | mapMiss (vt : BitVec 20)
deriving DecidableEq, Repr

def xf (rank cause reason : Nat) (va : Word) : Tr := .fault { rank := rank, level := 0, cause := cause, reason := reason, va := va }

/-- The first of two faults in the order of R15: rank, then for page-walk reasons the walk's level, then address. -/
def XFault.before (a b : XFault) : Bool :=
  a.rank < b.rank || (a.rank == b.rank && (a.level < b.level || (a.level == b.level && decide (a.va.toNat ≤ b.va.toNat))))

/-- The fault of a list that R15 takes. -/
def firstFault (fs : List XFault) : Option XFault :=
  fs.foldl (fun acc f => match acc with
    | none => some f
    | some g => some (if g.before f then g else f)) none

def XFault.posted (f : XFault) : Posted := mkTrapAt f.cause f.reason f.va

/-- Permissions of a leaf (R31): USER before the others (R15). An access that needs R and W of a page with neither takes NO_READ: the two
have one rank (DESIGN CHOICE, log entry 81). -/
def permFault (x : Hart) (n : Need) (leaf : Word) (va : Word) : Option XFault :=
  let f := fun rank cause reason => some { rank := rank, level := 0, cause := cause, reason := reason, va := va : XFault }
  if x.isU && !leafU leaf then f 7 cPROT 0x08
  else if n.x && (!leafX leaf || (!x.isU && leafU leaf)) then f 8 cPROT 0x07
  else if n.r && !leafR leaf then f 8 cPROT 0x05
  else if n.w && !leafW leaf then f 8 cPROT 0x06
  else if n.fe && leafMT leaf == 1 then f 9 cFE 0
  else none

/-- The fault, a reason and a level, that a walk has ended in for a page that the hart's instruction missed on (R33). -/
def Hart.missFault (h : Hart) (page : Nat) : Option (Nat × Nat) := h.misses.findSome? fun m => if m.page = page then m.fault else none

/-- A paged address (R28-R34). A walk that faulted is remembered for the hart until its instruction takes the fault (R33). -/
def trPaged (s : State) (h : HartId) (n : Need) (va : Word) : Tr :=
  match s.tlbFind h va.toNat with
  | some e =>
    match permFault (s.hartOf h) n e.leaf va with
    | some f => .fault f
    | none => .ok (leafHome e.leaf e.bits va.toNat) (!leafNC e.leaf)
  | none =>
    match (s.hartOf h).missFault (va.toNat / 65536) with
    | some (reason, level) => .fault { rank := 6, level, cause := cPAGE, reason, va }
    | none => .miss va.toNat

/-- A slice-window address (R17, R20, R21, R27). -/
def trSlice (s : State) (h : HartId) (vt : BitVec 20) (off : Nat) (va : Word) : Tr :=
  let t : TileId := { tab := h.tile.tab, vt := vt }
  if !s.validVt t then xf 5 cPAGE 0x02 va
  else if vt = h.tile.vt then .ok (.slice t off) false
  else
    match find vt (s.tile h.tile).mapCache with
    | none => .mapMiss vt
    | some e => if e.st = .invalid then xf 5 cPAGE 0x02 va else .ok (.slice t off) false

/-- An address of any range but the device registers (R11, R12, R45). -/
def tr (s : State) (h : HartId) (n : Need) (va : Word) : Tr :=
  match range va with
  | .paged => trPaged s h n va
  | .slice vt off => trSlice s h vt off va
  | .own off => .ok (.slice h.tile off) false
  | .peer _ _ => xf 4 cPROT 0x09 va
  | .dev off => if (s.hartOf h).isU then xf 3 cPRIV 0x0C va else .ok (.dev off) false
  | .none => xf 2 cPAGE 0x01 va

/-- The address as a number of a page of 64 KiB. -/
def pageOf (va : Nat) : Nat := va / 65536

/-- The deepest table the walk cache holds for an address (R32). -/
def walkStart (t : Tile) (root va : Nat) : Nat × Nat :=
  let hit := fun (level sh : Nat) => t.walkCache.find? fun p => p.1 == root && p.2.1 == level && p.2.2.1 == va / 2 ^ sh
  match hit 3 21 with
  | some p => (3, p.2.2.2)
  | none =>
    match hit 2 30 with
    | some p => (2, p.2.2.2)
    | none =>
      match hit 1 39 with
      | some p => (1, p.2.2.2)
      | none => (0, root)

/-- A walk is an outstanding miss of a hart: of an instruction that waits, or of a prefetch (R33). -/
def Walk.isOf (h : HartId) (w : Walk) : Bool := w.harts.contains h || w.prefs.any fun p => decide (p.1 = h)

/-- Walks a hart has outstanding (R33). -/
def State.walksOf (s : State) (h : HartId) : Nat := ((s.tile h.tile).walks.filter (·.isOf h)).length

/-- A walk covers the page of an address. -/
def Walk.covers (root va : Nat) (w : Walk) : Bool := w.root == root && pageOf w.va == pageOf va

/-- A hart's miss, or a prefetch of it, joins a walk. -/
def Walk.join (h : HartId) (pref : Option Word) (w : Walk) : Walk :=
  match pref with
  | some va => { w with prefs := w.prefs ++ [(h, va)] }
  | none => if w.harts.contains h then w else { w with harts := w.harts ++ [h] }

/-- The instruction of a hart has missed on a walk; a prefetch reports nothing (R33, R248). -/
def State.missOn (h : HartId) (pref : Option Word) (walk va : Nat) (s : State) : State :=
  match pref with
  | some _ => s
  | none => s.modHart h fun x =>
      if x.misses.any (·.walk == walk) then x else { x with misses := { walk, page := pageOf va, fault := none } :: x.misses }

/-- Queues a walk for a miss, or joins the one that covers the page: at most 32 walk and 64 wait, first in first out. A hart with 8
misses outstanding, or one that finds the queue full, stalls instead, and a prefetch then does nothing (R33, R248). -/
def State.walk (h : HartId) (pref : Option Word) (va : Nat) (s : State) : State :=
  let root := (s.hartOf h).root
  let t := s.tile h.tile
  if decide (8 ≤ s.walksOf h) && !(t.walks.any fun w => w.covers root va && w.isOf h) then s
  else match t.walks.find? (·.covers root va) with
  | some q =>
    (s.modTile h.tile fun t => { t with walks := t.walks.map fun w => if w.id = q.id then w.join h pref else w }).missOn h pref q.id va
  | none =>
    if t.walks.length < 96 then
      let p := walkStart t root va
      let w : Walk := { id := s.nextId, root := root, va := va, level := p.1, table := p.2, harts := [], prefs := [] }
      ((s.modTile h.tile fun t => { t with walks := t.walks ++ [w.join h pref] }).missOn h pref w.id va).fresh
    else s

/-- The walks that the walker is at work on; the others wait in the miss queue (R33). -/
def Tile.active (t : Tile) : List Walk := t.walks.take 32

/-- Asks for a tile-map entry (R20). -/
def State.wantMap (t : TileId) (vt : BitVec 20) (s : State) : State :=
  s.modTile t fun x => if x.mapWants.contains vt then x else { x with mapWants := x.mapWants ++ [vt] }

/-- Puts an entry into the tile-map cache: 8 ways of 32 sets, least recently used out (R20). (DESIGN CHOICE: log entry 48.) -/
def mapAdd (vt : BitVec 20) (e : MapEntry) (l : List (BitVec 20 × MapEntry)) : List (BitVec 20 × MapEntry) :=
  let l := l.filter fun p => p.1 ≠ vt
  let same := l.filter fun p => p.1.toNat % 32 = vt.toNat % 32
  let l := if same.length < 8 then l else
    match same.head? with
    | some p => l.filter fun q => q.1 ≠ p.1
    | none => l
  l ++ [(vt, e)]

/-- GEN after a change of ST or PTILE (R19). -/
def MapEntry.bump (e : MapEntry) : MapEntry := { e with gen := (e.gen + 1) % 65536 }

/-- The code of ST. -/
def MapState.code : MapState → Nat
  | .invalid => 0 | .resident => 1 | .settling => 2 | .absent => 3

/-- The 64 bits of an entry (R19). -/
def MapEntry.word (e : MapEntry) : Word :=
  atBits 48 16 (e.lslot.getD 0) ||| atBits 32 16 e.gen ||| atBits 4 14 e.ptile ||| atBits 3 1 (b2n e.fresh) ||| atBits 2 1 (b2n e.dirIn) |||
    atBits 0 2 e.st.code

/-- Where a vtile's entry stands: the tile-map base + 8 · its dense index (R19). -/
def State.mapHome (s : State) (t : TileId) : Home :=
  .hbm ((match s.tab? t.tab with | some x => x.mapBase | none => 0) + 8 * s.dense t)

/-- Rewrites a map entry, and its word in memory, where the tableau has one (R19). -/
def State.setEntry (t : TileId) (f : MapEntry → MapEntry) (s : State) : State :=
  let s := s.modTile t fun x => { x with entry := f x.entry }
  if s.validVt t then s.writeWord (s.mapHome t) (s.mapEntry t).word else s

/-- Where a map entry sends a load, store, atomic or tag access (R21). -/
def routeOf (e : MapEntry) : Route :=
  match e.st with
  | .resident => .sent e.gen
  | .absent => if e.fresh then .held else .loft
  | _ => .held

/-! ## The DPIT (R35-R37) -/

/-- Vtiles of a tableau's extent (R17). -/
def Tableau.extent (x : Tableau) : Nat := x.args.stages * x.args.gangs * x.args.tiles

/-- Bytes of a tableau's park table: its buckets, a record of each hart and one of each queue (R70). -/
def Tableau.parkSize (x : Tableau) : Nat := 64 * 2 ^ x.args.nlog + 64 * (4 * x.extent + 4096)

/-- Pages of the tile map, and of the carrier queue's area of 128 bytes an entry that follows it (R19, R171; DESIGN CHOICE, log entry 70). -/
def mapPages (a : TblArgs) : Nat := (8 * (a.stages * a.gangs * a.tiles) + 65535) / 65536
def areaPages (a : TblArgs) : Nat := mapPages a + (128 * a.carrier + 65535) / 65536

/-- A page of the tableau's tile map, carrier area or park table. -/
def Tableau.holdsPage (x : Tableau) (page : Nat) : Bool :=
  let on := fun (a n : Nat) => decide (a / 65536 ≤ page) && decide (page * 65536 < a + n)
  on x.mapBase (65536 * areaPages x.args) || on x.args.parkDpa x.parkSize

/-- The DPIT entry of the page of a DPA: the loft, the tile maps and the park tables are always pinned (R35). -/
def State.dpitOf (s : State) (dpa : Nat) : DpitEntry :=
  if s.loftBase ≤ dpa ∧ dpa < 2 ^ 42 then loftEntry ((dpa - s.loftBase) / 65536)
  else
    let e := findD (dpa / 65536) s.dpit DpitEntry.reset
    { e with pin := e.pin || s.tabs.any fun x => x.2.holdsPage (dpa / 65536) }

/-- A frame of a stack that a slot of the loft holds (R105). -/
def State.loftHolds (s : State) (stk frame : Nat) : Bool :=
  let k := 2 ^ 20 - 1 - frame
  decide (frame < 2 ^ 20) && decide (k / 512 * 256 + frame % 4 * 64 + stk < s.loftSize)

/-- The route of an HBM piece: by the NI's DPIT cache, or by the anchor (R36). -/
def State.hbmRoute (s : State) (t : TileId) (dpa : Nat) : Route :=
  match (s.tile t).dpit.find? fun p => p.1 == dpa / 65536 with
  | some p => .stack p.2.1 p.2.2
  | none => .anchor

/-- The first route of a piece of a hart of a tile (R20, R21, R27, R36, R106). -/
def State.route (s : State) (t : TileId) (h : Home) : Route :=
  match h with
  | .slice u _ =>
    if u = t then .sent (s.mapEntry u).gen
    else
      match find u.vt (s.tile t).mapCache with
      | some e => routeOf e
      | none => .mapRead
  | .hbm dpa => s.hbmRoute t dpa
  | .host _ _ => .port
  | .dev _ => .port

end Sys2Proof.Machine
end

