-- ==== Sys2Proof/Machine/Walks.lean ====
section
/-!
DEFINITION. Whole page walks (R28-R33, R37): the page that a word stands in can be read, a page-table entry is read, and a walk
goes from a table to a leaf or a fault. The engines, the front end and the park engines translate so.
-/

namespace Sys2Proof.Machine

/-- The page of a line can be read: an invalid one is an error of the anchor (R37). -/
def State.pageOk (s : State) (h : Home) : Bool :=
  match h with
  | .hbm dpa => (s.dpitOf dpa).valid
  | _ => true

/-- Logs DPA_INVALID (R37). -/
def State.logDpa (h : Home) (s : State) : State := s.logHome 0x04 h

/-! ## Uncorrectable tile-map entries (R22) -/

/-- An uncorrectable error stands in a vtile's map entry: in the granule of its word, or in the word as POISON since (R60). -/
def State.entryBad (s : State) (u : TileId) : Bool :=
  (s.mapEntry u).bad || (s.validVt u && (s.latent (s.mapHome u) || s.tagOf (s.mapHome u) == .poison))

/-- The record of an uncorrectable tile-map entry (R22, R382). -/
def State.logMap (u : TileId) (s : State) : State :=
  s.log { kind := 0x05, source := 4, fatal := false, count := 1, time := s.now, tab := u.tab, vt := u.vt, hart := 0, va := 0, dpa := 0, detail := 0 }

/-- A map read meets such an entry: its words are POISON (R60), and it goes to firmware as a record (R22). -/
def State.meetBadEntry (u : TileId) (s : State) : State :=
  (((if s.validVt u then s.detect (s.mapHome u) else s).modTile u fun x => { x with entry := { x.entry with bad := true } })).logMap u

/-- A completion fill: one action at the word's home that never waits and never faults; on a FULL or POISON word bit 63 of the
value is set (R85). A page that is not VALID takes nothing and is logged (R37). -/
def State.completionFill (h : Home) (v : Word) (s : State) : State :=
  if !s.pageOk h then s.logDpa h
  else
    let t := s.tagOf h
    let v' := if t = .full ∨ t = .poison then v ||| atBits 63 1 1 else v
    ((s.detectWrite h [h]).act .write h 255 v'.toNat).1

/-- A whole word that the part itself writes leaves it FULL (R56); a page that is not VALID takes nothing and is logged (R37). -/
def State.putWord (h : Home) (v : Nat) (s : State) : State :=
  if s.pageOk h then ((s.detectWrite h [h]).act .write h 255 v).1 else s.logDpa h

/-- Reads one page-table entry: the walk goes on to a table, ends at a leaf, or faults with a reason (R14, R30, R37). -/
def State.readPte (home : Home) (s : State) : State × Except Nat Word :=
  if !s.pageOk home then (s.logDpa home, .error 0x0D)
  else
    let s := s.detect home
    if s.tagOf home = .poison then (s, .error 0x0D)
    else if leafV (s.loadWord home) then (s, .ok (s.loadWord home)) else (s, .error 0x03)

/-- A whole walk from a table of a level. -/
def State.walkFrom (root va : Nat) : Nat → Nat → Nat → State → State × Except Nat TlbEntry
  | 0, _, _, s => (s, .error 0x04)
  | n + 1, level, table, s =>
    match s.readPte (.hbm (pteAddr table va level)) with
    | (s, .error r) => (s, .error r)
    | (s, .ok e) =>
      if pteReserved e level then (s, .error 0x04)
      else if leafIs e then
        let b := pageBits level
        (s, .ok { root := root, base := va / 2 ^ b * 2 ^ b, bits := b, leaf := e })
      else State.walkFrom root va n (level + 1) (bits e 8 34 * 256) s

end Sys2Proof.Machine
end

