-- ==== Sys2Proof/Machine/Access.lean ====
section
/-!
DEFINITION. How an instruction's memory access is checked and issued: extents, the order of faults (R13-R15, R109, R110),
what holds an access back (R93, R132, R134, R139), its pieces, the write-through buffer and the L1 (R91-R94), and the
result of an access performed at issue through the own-slice alias (R27, R227).
-/

namespace Sys2Proof.Machine

/-- Bytes an access names: address, count, and byte position in its value. -/
structure Ext where
  va  : Word
  len : Nat
  pos : Nat
deriving DecidableEq, Repr

/-- An access as its form describes it. -/
structure Acc where
  kind  : OpKind
  exts  : List Ext
  need  : Need
  /-- What every extent must be aligned to; 1 for none (R109). -/
  align : Nat
  /-- The extents together must lie in one range (R245). -/
  span  : Bool
  /-- The form may use the device-register window (R47). -/
  dev   : Bool
  /-- The access writes memory, for the orderings. -/
  wr    : Bool
  /-- It bypasses the L1 (R93). -/
  past  : Bool
  scope : Scope
  acq   : Bool
  rel   : Bool
  dest  : Option RegRef
  data  : VWord
  /-- Aligned 8-byte extents are whole-word writes (R56). -/
  whole : Bool
  x     : Word
  y     : Word
deriving DecidableEq, Repr

/-- A run of bytes in one word, translated. -/
structure Piece where
  home   : Home
  va     : Word
  len    : Nat
  pos    : Nat
  cached : Bool
deriving DecidableEq, Repr

/-! ## Checks -/

/-- The window of an address, for R13. -/
def windowOf (va : Word) : Nat :=
  match range va with
  | .slice vt _ => 2 + vt.toNat
  | .own _ => 1
  | _ => 0

/-- The range of an address as a number, for R245. -/
def rangeNo (va : Word) : Nat :=
  match range va with
  | .paged => 1
  | .slice vt _ => 10 + vt.toNat
  | .own _ => 2
  | .peer _ _ => 3
  | .dev _ => 4
  | .none => 0

/-- ALIGN of an extent: its alignment (R109), or bytes on both sides of a window's edge (R13). -/
def alignFault (align : Nat) (e : Ext) : Option XFault :=
  let last := e.va + BitVec.ofNat 64 (e.len - 1)
  if e.va.toNat % align ≠ 0 ∨ windowOf e.va ≠ windowOf last then
    some { rank := 1, level := 0, cause := cALIGN, reason := 0, va := e.va }
  else none

/-- The extents of one access lie in two ranges (R245). -/
def spanFault (exts : List Ext) : Option XFault :=
  match exts with
  | [] => none
  | e :: _ =>
    if exts.all fun x => rangeNo x.va = rangeNo e.va then none else some { rank := 1, level := 0, cause := cALIGN, reason := 0, va := e.va }

/-- Cuts bytes at word boundaries. -/
def chunks : Nat → Ext → List Ext
  | 0, _ => []
  | f + 1, e =>
    if e.len = 0 then []
    else
      let n := Nat.min e.len (8 - e.va.toNat % 8)
      { e with len := n } :: chunks f { va := e.va + BitVec.ofNat 64 n, len := e.len - n, pos := e.pos + n }

/-- A device register takes only LD and ST of .W and .D (R47). (DEDUCED: log entry 24.) A U-mode access of another form takes the
DEV_MODE that `tr` found: R15 gives the two one rank and no order (DESIGN CHOICE, log entry 56). -/
def devForm (ok : Bool) (va : Word) (t : Tr) : Tr :=
  match t with
  | .ok (.dev _) _ => if ok then t else xf 3 cPROT 0x0A va
  | t => t

/-- What the checks of an access answer. -/
inductive AccChk where
  | ok (ps : List Piece)
  | fault (f : XFault)
  | wait (walks : List Nat) (maps : List (BitVec 20))
deriving DecidableEq, Repr

/-- The checks of R13-R15 over every piece of an access. A fault ranked before the page walk is taken whatever walks
are missing; a later one only when every page is known. -/
def accCheck (s : State) (h : HartId) (a : Acc) : AccChk :=
  let cs := a.exts.flatMap fun e => chunks (e.len + 1) e
  let trs := cs.map fun c => (c, devForm a.dev c.va (tr s h a.need c.va))
  let fs := (if a.span then (spanFault a.exts).toList else []) ++ a.exts.filterMap (alignFault a.align) ++
    trs.filterMap fun p => match p.2 with | .fault f => some f | _ => none
  let walks := trs.filterMap fun p => match p.2 with | .miss va => some va | _ => none
  let maps := trs.filterMap fun p => match p.2 with | .mapMiss v => some v | _ => none
  match firstFault fs with
  | some f => if f.rank ≤ 5 ∨ (walks = [] ∧ maps = []) then .fault f else .wait walks maps
  | none =>
    if walks = [] ∧ maps = [] then
      .ok (trs.filterMap fun p => match p.2 with
        | .ok h c => some { home := h, va := p.1.va, len := p.1.len, pos := p.1.pos, cached := c }
        | _ => none)
    else .wait walks maps

/-! ## What holds an access back -/

/-- A piece has been performed, or has met POISON. -/
def Part.over (p : Part) : Bool :=
  match p.route with
  | .done => true
  | .poison _ => true
  | _ => false

/-- Every piece of an access has been performed. -/
def MemOp.over (o : MemOp) : Bool := o.parts.all Part.over

/-- An access that writes. -/
def OpKind.writes : OpKind → Bool
  | .store | .stEmpty | .amo _ _ | .ship _ | .tagSet _ | .flush => true
  | .fe k => k != 0
  | _ => false

/-- An access that reads a value; a prefetch (a load of no bytes) is none (R248). -/
def OpKind.reads : OpKind → Bool
  | .load 0 _ => false
  | .store | .stEmpty | .tagSet _ => false
  | _ => true

/-- A store in the sense of R428: complete at its acknowledgement. -/
def OpKind.storeLike : OpKind → Bool
  | .store | .stEmpty | .tagSet _ => true
  | .fe k => k == 2 || k == 4
  | _ => false

/-- The numbers by which an access belongs to a hart: its own, or those of the stores a drained line holds. -/
def MemOp.nums (o : MemOp) (h : HartId) : List Nat :=
  if o.who = [] then (if o.hart = h then [o.id] else []) else o.who.filterMap fun p => if p.1 = h then some p.2 else none

/-- Numbers of a hart's stores still in its tile's write-through buffer. -/
def State.buffered (s : State) (h : HartId) : List Nat :=
  (s.tile h.tile).wbuf.flatMap fun l => l.writes.filterMap fun p => if p.1 = h then some p.2.1 else none

/-- The record says that a full/empty access is outstanding, and nothing of it is in flight: it is to be reissued (R67, R79). -/
def State.reissueDue (s : State) (h : HartId) : Bool :=
  let x := s.hartOf h
  x.feV && x.fePend && !s.ops.any fun o => decide (o.hart = h) && match o.kind with
    | .fe _ => true
    | _ => false

/-- An access withdrawn at a swap keeps its place before the accesses that followed it (R79, R132). -/
def State.withdrawn (s : State) (h : HartId) (reads writes : Bool) (p : Nat → Bool) : Bool :=
  match (s.hartOf h).feId with
  | some n => s.reissueDue h && (reads || (writes && (s.hartOf h).feKind != 0)) && p n
  | none => false

/-- Whether a hart's read with a number that satisfies p has not returned, or such a write is not acknowledged. -/
def State.pendingOp (s : State) (h : HartId) (reads writes : Bool) (p : Nat → Bool) : Bool :=
  (s.ops.any fun o => ((reads && o.kind.reads && !o.over) || (writes && o.kind.writes && (o.kind.storeLike || !o.over))) && (o.nums h).any p) ||
    (writes && (s.buffered h).any p) || s.withdrawn h reads writes p

/-- An ordering whose accesses have been performed (R134). (DEDUCED: log entry 26.) -/
def State.holdMet (s : State) (h : HartId) (x : Hold) : Bool :=
  !s.pendingOp h x.reads x.writes fun n => if x.single then n + 1 == x.upto else decide (n < x.upto)

/-- Drops every line of a tile's L1 (R94). -/
def State.dropL1 (t : TileId) (s : State) : State := s.modTile t fun x => { x with l1 := [] }

/-- Orderings that are met no longer hold later accesses; an acquire at .c or wider then drops the L1 (R94, R134). -/
def State.passHolds (h : HartId) (s : State) : State :=
  let x := s.hartOf h
  let met := x.holds.filter fun o => s.holdMet h o
  if met = [] then s
  else
    let s1 := s.modHart h fun x => { x with holds := x.holds.filter fun o => !s.holdMet h o }
    if met.any (·.drop) then s1.dropL1 h.tile else s1

/-- An ordering in force holds this access. (DEDUCED: log entry 26.) -/
def State.heldBack (s : State) (h : HartId) (wr : Bool) : Bool :=
  (s.hartOf h).holds.any fun o => o.stops || (o.stopsWr && wr)

/-- A granule that a command of the tile, numbered below `lt`, has claimed and not yet written (R139). -/
def State.claimed (s : State) (t : TileId) (lt : Nat) (h : Home) : Bool :=
  (s.tile t).claims.any fun c => decide (c.1 < lt) && decide (c.2.1 ≤ h.key) && decide (h.key < c.2.2)

/-- A buffered store numbered below `lt`, or such a drained one not yet performed, to a line of the tile; only a hart's own when one is
named. -/
def State.lineBuffered (s : State) (t : TileId) (who : Option HartId) (lt : Nat) (h : Home) : Bool :=
  let k := (h.align 64).key
  let mine := fun (x : HartId) (n : Nat) => decide (n < lt) && match who with | some y => decide (x = y) | none => true
  ((s.tile t).wbuf.any fun l => l.home.key == k && l.writes.any fun w => mine w.1 w.2.1) ||
    s.ops.any fun o => !o.over && o.who.any (fun w => decide (w.1.tile = t) && mine w.1 w.2) &&
      o.parts.any fun p => (p.home.align 64).key == k

/-- A piece of a load whose line the tile has a buffered store to, numbered below `lt`: it waits until that store has reached its
home, which is the tile's point of coherence (R134). R92 says that a load waits for a store to its bytes; the line is the wider
wait, and without it a load could read L1 bytes older than what its tile has read (R129; log entry 57). -/
def State.waitsForLine (s : State) (t : TileId) (lt : Nat) (p : Part) : Bool :=
  decide (p.reads ≠ []) && s.lineBuffered t none lt p.home

/-- A piece that holds the hart's later accesses to its place behind it: one that no home has attempted yet (R26, R62). -/
def Part.ahead (p : Part) : Bool :=
  !p.over && (match p.route with | .retry _ _ => false | _ => true)

/-- A piece served by a page of HBM or of a host. -/
def Home.pagedHome : Home → Bool
  | .hbm _ => true
  | .host _ _ => true
  | _ => false

/-- The place whose accesses by one hart keep their order: a slice, a DPA page, a port (R26, R39, R106). -/
def Home.lane : Home → Nat
  | .slice t _ => 2 ^ 80 + t.tab.toNat * 2 ^ 20 + t.vt.toNat
  | .hbm dpa => dpa / 65536
  | .host p _ => 2 ^ 70 + p
  | .dev _ => 2 ^ 71

/-- A piece that is not performed yet touches one of some words (R129). -/
def Part.meets (k : OpKind) (ws : List Home) (p : Part) : Bool := !p.over && (p.words k).any ws.contains

/-- An access of a hart, numbered below `lt`, on its way to a place, which a later one to that place stands behind (R26, R39), or at
work on one of some words, whatever its place (R129). -/
def State.laneBusy (s : State) (h : HartId) (lt : Nat) (p : Home) (ws : List Home) : Bool :=
  s.ops.any fun o => decide (o.hart = h) && o.who == [] && !o.over && o.kind != .load 0 false && decide (o.id < lt) &&
    o.parts.any fun q => (q.ahead && q.home.lane == p.lane) || q.meets o.kind ws

/-- The words that an access touches with the one at a home: those of the sector of a SHIP (R117), those of the line of VLD.TAKE and
VST.FILL (R270). -/
def Acc.wordsAt (a : Acc) (h : Home) : List Home :=
  match a.kind with
  | .ship _ => (List.range 4).map fun i => (h.align 32).plus (8 * i)
  | .fe 3 => (List.range 8).map fun i => (h.align 64).plus (8 * i)
  | .fe 4 => (List.range 8).map fun i => (h.align 64).plus (8 * i)
  | _ => [h.align 8]

/-- Lines of the write-through buffer that a store fills (R92). -/
def bufferLines (ps : List Piece) : Nat := ((ps.filter fun p => p.home.pagedHome).map fun p => (p.home.align 64).key).eraseDups.length

/-- What makes a checked access numbered n wait at issue: an earlier claim (R139), an earlier buffered store for a form that bypasses the
L1 (R93), an earlier access of the hart to its own slice for the alias (R26, R129), and room in the write-through buffer for the lines of a
store (R92; DEDUCED, log entry 12). -/
def State.blockedAt (n : Nat) (s : State) (h : HartId) (a : Acc) (ps : List Piece) : Bool :=
  (ps.any fun p => s.claimed h.tile n p.home) ||
    (a.past && ps.any fun p => p.home.pagedHome && s.lineBuffered h.tile (some h) n p.home) ||
    (ps.any fun p => (match range p.va with | .own _ => true | _ => false) && s.laneBusy h n p.home (a.wordsAt p.home)) ||
    (!a.past && a.wr && (s.tile h.tile).wbuf != [] && decide (16 < (s.tile h.tile).wbuf.length + bufferLines ps))

/-- What makes a checked access that is issued now wait. -/
def State.blocked (s : State) (h : HartId) (a : Acc) (ps : List Piece) : Bool := s.blockedAt s.nextId h a ps

/-- From slice freeze until the swap-out commits, the bank serves its own gang's accesses (R25, R373). -/
def State.drainsTo (s : State) (h : HartId) (t : TileId) : Bool :=
  (s.mapEntry t).st = .settling && !(s.mapEntry t).dirIn && decide (h.tile.gang = t.gang) && !(s.gang t.gang).inShadow

/-- The home serves a word to a hart now: the vtile is neither SETTLING nor FRESH, unless the hart's own gang drains (R21, R23, R25). -/
def State.homeServes (s : State) (h : HartId) : Home → Bool
  | .slice t _ =>
    let e := s.mapEntry t
    e.st = .resident || (e.st = .absent && !e.fresh) || s.drainsTo h t
  | _ => true

/-- An access of a hart's engine reaches the home now: it serves the word, and the map entry of another vtile that names it can be read
(R22). -/
def State.homeOpen (s : State) (h : HartId) (p : Home) : Bool :=
  s.homeServes h p && match p with
    | .slice t _ => decide (t = h.tile) || !s.entryBad t
    | _ => true

/-! ## Pieces into parts -/

/-- What one action of an access covers: the atomicity unit, the whole line of VLD.TAKE and VST.FILL, one word of the tag forms (R55,
R58, R107, R110). -/
def Acc.unit (a : Acc) (h : Home) : Nat :=
  match a.kind with
  | .fe 3 => 64
  | .fe 4 => 64
  | .tagGet => 8
  | .tagSet _ => 8
  | _ => h.unit

/-- Adds a translated run to the parts, one part for each action (R107, R110, R126). -/
def addPart (a : Acc) (ps : List Part) (p : Piece) : List Part :=
  let base := p.home.align (a.unit p.home)
  let off := p.home.key - base.key
  let rd := if a.kind.reads || a.kind == .tagSet .full || a.kind == .tagSet .empty || a.kind == .tagSet .poison then
    [({ off := off, pos := p.pos, len := p.len } : RItem)] else []
  let wr := if a.kind = .store then
    [({ off := off / 8 * 8, mask := (2 ^ p.len - 1) * 2 ^ (off % 8),
        data := (a.data.toNat / 2 ^ (8 * p.pos) % 2 ^ (8 * p.len)) * 2 ^ (8 * (off % 8)),
        whole := a.whole && p.len == 8 } : WItem)]
    else if a.kind = .stEmpty then [({ off := off, mask := 255, data := a.x.toNat, whole := true } : WItem)] else []
  if ps.any fun q => q.home == base then
    ps.map fun q => if q.home = base then { q with reads := q.reads ++ rd, writes := q.writes ++ wr } else q
  else ps ++ [{ home := base, va := p.va - BitVec.ofNat 64 off, reads := rd, writes := wr, route := .held }]

def partsOf (a : Acc) (ps : List Piece) : List Part := ps.foldl (addPart a) []

/-! ## The write-through buffer (R92) -/

/-- Marks every entry of a tile's buffer: no later store merges into it (R134). -/
def State.closeBuffer (t : TileId) (s : State) : State :=
  s.modTile t fun x => { x with wbuf := x.wbuf.map fun l => { l with closed := true } }

/-- A store that hits in the L1 also updates the line (R92). -/
def l1Store (line : Home) (i : WItem) (l : L1Line) : L1Line :=
  if l.home = line then
    let w := elem l.data 8 (i.off / 8)
    let n := mergeBytes 8 i.mask i.data w
    let t := l.tags.getD (i.off / 8) .full
    let row := tagRow (if i.whole then .write else .partWrite) t
    if row.writes then { l with data := putBytes l.data i.off 8 n, tags := l.tags.set (i.off / 8) row.next } else l
  else l

/-- Merges a piece of a store into the entry that an earlier piece of the same store has in its line, else into the open entry of its
line, where it may, or makes a new entry, after which none older is open (R92): a store takes one place for each of its lines. -/
def bufferAdd (h : HartId) (n : Nat) (rel may : Bool) (p : Part) (ls : List WbLine) : List WbLine :=
  let line := p.home.align 64
  let sh := p.home.key - line.key
  let ws := p.writes.map fun i => (h, n, { i with off := i.off + sh })
  let own := fun (l : WbLine) => l.home == line && l.writes.any fun w => decide (w.1 = h) && w.2.1 == n
  let takes := fun (l : WbLine) => if ls.any own then own l else !rel && may && l.home == line && !l.closed
  if ls.any takes then ls.map fun l => if takes l then { l with writes := l.writes ++ ws } else l
  else
    (ls.map fun l => if l.home = line then { l with closed := true } else l) ++
      [{ va := p.va - BitVec.ofNat 64 sh, home := line, writes := ws, closed := rel, rel := rel }]

/-- Closes the entries of a line: no later store merges into one that a load waits for, or the load would read it (R92; DEDUCED, log
entry 57). -/
def State.closeLine (t : TileId) (line : Home) (s : State) : State :=
  s.modTile t fun x => { x with wbuf := x.wbuf.map fun l => if l.home = line then { l with closed := true } else l }

/-- The pieces of a buffered line, one for each atomicity unit, in the order of their first write. -/
def linePieces (l : WbLine) : List Part :=
  let u := l.home.unit
  l.writes.foldl (fun ps w =>
    let i := w.2.2
    let base := l.home.plus (i.off / u * u)
    let j : WItem := { i with off := i.off % u }
    if ps.any (fun p => p.home == base) then ps.map fun p => if p.home = base then { p with writes := p.writes ++ [j] } else p
    else ps ++ [{ home := base, va := l.va + BitVec.ofNat 64 (i.off / u * u), reads := [], writes := [j], route := .held }]) []

/-- The oldest line of a tile's buffer leaves for its home (R92, R147). -/
def State.drain (t : TileId) (s : State) : State :=
  match (s.tile t).wbuf with
  | [] => s
  | l :: rest =>
    let nums := l.writes.map fun w => (w.1, w.2.1)
    let op : MemOp :=
      { id := s.nextId, hart := (nums.headD (s.focus, 0)).1, kind := .store, rel := false, dest := none, val := 0, x := 0, y := 0,
        parts := (linePieces l).map fun p => { p with route := s.route t p.home }, sched := (0, 0, 0), who := nums }
    let s := s.fresh.modTile t fun x => { x with wbuf := rest }
    { s with ops := s.ops ++ [op] }

/-- A paged store enters the write-through buffer (R92); the oldest line leaves when a store of many lines needs its place, which
is one of its own (State.blockedAt). A store does not merge past an earlier access of its hart that is on its way to the same page (R39; DEDUCED, log entry 57). -/
def State.bufferStore (h : HartId) (n : Nat) (rel : Bool) (p : Part) (s : State) : State :=
  let may := !s.laneBusy h n p.home (p.words .store)
  let s := s.modTile h.tile fun t =>
    { t with wbuf := bufferAdd h n rel may p t.wbuf,
             l1 := p.writes.foldl (fun l i => l.map (l1Store (p.home.align 64) { i with off := i.off + (p.home.key - (p.home.align 64).key) })) t.l1 }
  if 16 < (s.tile h.tile).wbuf.length then s.drain h.tile else s

/-! ## Issue -/

/-- The front end's and the ostler's report of an access that meets FRESH (R23): the ostler's next pass answers it. -/
def State.report (t : TileId) (s : State) : State :=
  if (s.mapEntry t).fresh then { (s.modTile t fun x => { x with slotClearing := true }) with ostler := { s.ostler with due := true } } else s

/-- The zero-length read that follows a hart's writes through a host port (R106). -/
def flushOp (h : HartId) (id port : Nat) : MemOp :=
  { id := id, hart := h, kind := .flush, rel := false, dest := none, val := 0, x := 0, y := 0,
    parts := [{ home := .host port 0, va := 0, reads := [], writes := [], route := .port }], sched := (0, 0, 0), who := [] }

/-- A hart's release at .s sends the flushing read of every host port it has written through (R106, R134). -/
def State.flushPorts (h : HartId) (s : State) : State :=
  let ports := (s.hartOf h).hostWrote
  if ports = [] then s
  else
    { (s.modHart h fun x => { x with hostWrote := [] }) with
      ops := s.ops ++ ports.zipIdx.map (fun p => flushOp h (s.nextId + p.2) p.1), nextId := s.nextId + ports.length }

/-- What a release does before it is sent: no later store merges into an entry made before it (R134), and at .s the flushing reads
leave (R106). -/
def State.release (h : HartId) (rel : Bool) (sc : Scope) (s : State) : State :=
  if rel && decide (sc ≠ .h) then
    let s := s.closeBuffer h.tile
    if sc = .s then s.flushPorts h else s
  else s

/-- The L1 line of a home (R91): none that has stood its 65,536 cycles (R147) or whose parity has failed (R95). -/
def State.l1Find (s : State) (t : TileId) (h : Home) : Option L1Line :=
  (s.tile t).l1.find? fun l => l.home == h.align 64 && decide (s.now < l.filled + 65536) && !l.bad

/-- A parity error on a hit is a miss, counted in the tile's error counter (R95). -/
def State.l1Parity (t : TileId) (parts : List Part) (s : State) : State :=
  s.modTile t fun x =>
    let hit := fun (l : L1Line) => l.bad && parts.any fun p => p.home.align 64 == l.home
    { x with l1 := x.l1.filter (fun l => !hit l), parityErrs := x.parityErrs + (x.l1.filter hit).length }

/-- Drops the line of a home from a tile's L1 (R93). -/
def State.dropLine (t : TileId) (h : Home) (s : State) : State :=
  s.modTile t fun x => { x with l1 := x.l1.filter fun l => l.home ≠ h.align 64 }

/-- The lines that an access used become the most recently used of their sets (R91). -/
def l1Use (parts : List Part) (ls : List L1Line) : List L1Line :=
  parts.foldl (fun ls p => ls.filter (fun l => l.home ≠ p.home.align 64) ++ ls.filter fun l => l.home = p.home.align 64) ls

/-- A hit: the first POISON word among the bytes, or the value (R93). -/
def l1Read (l : L1Line) (p : Part) (v : VWord) : Ans :=
  let sh := p.home.key - l.home.key
  let bad := p.reads.filterMap fun r => (wordsOf (p.home.plus r.off) r.len).find? fun w => l.tags.getD ((w.key - l.home.key) / 8) .full = .poison
  match bad with
  | w :: _ => .poison (p.va + BitVec.ofNat 64 (w.key - p.home.key))
  | [] => .done (p.reads.foldl (fun v r => putBytes v r.pos r.len (l.data.toNat / 2 ^ (8 * (sh + r.off)))) v)

/-- An access of the hart to a line is on its way: a later load does not read the L1 past it (R92, R129). -/
def State.lineBusy (s : State) (h : HartId) (line : Home) : Bool :=
  s.ops.any fun o => decide (o.hart = h) && o.who == [] && o.kind != .load 0 false &&
    o.parts.any fun q => !q.over && q.home.align 64 == line

/-- Where a piece goes first. A plain paged read waits for buffered stores to its line, else looks into the L1 (R92, R134). -/
def firstRoute (s : State) (h : HartId) (a : Acc) (cached : Bool) (p : Part) : Route :=
  if p.home.pagedHome && !a.past then
    if s.waitsForLine h.tile s.nextId p then .buffered
    else if cached then .l1
    else s.route h.tile p.home
  else s.route h.tile p.home

/-- Serves L1 hits at issue and routes the other pieces. -/
def routeParts (s : State) (h : HartId) (a : Acc) (cached : Home → Bool) : List Part → VWord → List Part × VWord
  | [], v => ([], v)
  | p :: ps, v =>
    let r := firstRoute s h a (cached p.home) p
    let q : Part × VWord :=
      if r = .l1 then
        match if s.lineBusy h (p.home.align 64) then none else s.l1Find h.tile p.home with
        | some l =>
          match l1Read l p v with
          | .done v' => ({ p with route := .done }, v')
          | .poison va => ({ p with route := .poison va }, v)
          | .wait => (p, v)
        | none => ({ p with route := .l1 }, v)
      else ({ p with route := r }, v)
    let rest := routeParts s h a cached ps q.2
    (q.1 :: rest.1, rest.2)

/-- The schedule of SY.RETRY: BASE, CAP, BUDGET (R63). -/
def Hart.schedule (h : Hart) : Nat × Nat × Nat := (bits h.sy.retry 20 8, bits h.sy.retry 28 12, bits h.sy.retry 0 16)

/-- An acquire holds the hart's later accesses until its read has returned (R134). -/
def acqHold (n : Nat) (sc : Scope) : Hold :=
  { upto := n + 1, single := true, reads := true, writes := false, stops := true, stopsWr := false,
    drop := sc = .c ∨ sc = .w ∨ sc = .s }

/-- Marks the destination of an asynchronous result empty (R77). -/
def Hart.markEmpty (d : Option RegRef) (h : Hart) : Hart :=
  match d with
  | some (f, r) => h.setFull f r false
  | none => h

/-- What an access to paged memory does to the L1 before it is sent: a form that bypasses the L1 drops its lines (R93); for another,
parity is checked (R95), its lines become the most recently used (R91), and its cached lines are those of a stream (R52). -/
def State.l1Issue (t : TileId) (past : Bool) (cached : Home → Bool) (parts : List Part) (s : State) : State :=
  if past then s.modTile t fun x => { x with l1 := x.l1.filter fun l => !(parts.any fun p => p.home.align 64 == l.home) }
  else
    let lines := (parts.filter fun p => p.home.pagedHome && cached p.home).map fun p => p.home.key / 64
    (s.l1Parity t parts).modTile t fun x =>
      { x with l1 := l1Use parts x.l1, streams := ((lines ++ x.streams).eraseDups).take 1024 }

/-- A load that waits for buffered stores closes their entries; an access that meets FRESH is reported (R23, R92). -/
def State.sent (t : TileId) (p : Part) (s : State) : State :=
  match p.route, p.home with
  | .buffered, _ => s.closeLine t (p.home.align 64)
  | .l1, _ => s.closeLine t (p.home.align 64)
  | .held, .slice u _ => s.report u
  | _, _ => s

/-- Host ports that pieces name. -/
def hostPorts (ps : List Piece) : List Nat :=
  (ps.filterMap fun p => match p.home with | .host q _ => some q | _ => none).eraseDups

/-- Puts a checked access in flight: paged stores into the buffer, the rest as an in-flight access (R21, R92). -/
def State.send (h : HartId) (a : Acc) (ps : List Piece) (s : State) : State :=
  let s := s.release h a.rel a.scope
  let n := s.nextId
  let parts := partsOf a ps
  let cached := fun (b : Home) => ps.any fun p => p.cached && p.home.align b.unit == b
  let s1 := s.fresh.l1Issue h.tile a.past cached parts
  let (buf, rest) := if a.kind = .store then parts.partition (fun p => p.home.pagedHome) else ([], parts)
  let s2 := buf.foldl (fun s p => s.bufferStore h n (a.rel && decide (a.scope ≠ .h)) p) s1
  let (rest, v) := routeParts s2 h a cached rest a.data
  let op : MemOp :=
    { id := n, hart := h, kind := a.kind, rel := a.rel && decide (a.scope ≠ .h), dest := a.dest, val := v,
      x := a.x, y := a.y, parts := rest, sched := (s.hartOf h).schedule, who := [] }
  let s3 := if rest = [] then s2 else { rest.foldl (fun s p => s.sent h.tile p) s2 with ops := s2.ops ++ [op] }
  s3.modHart h fun x =>
    let x := if a.kind.writes then { x with hostWrote := (x.hostWrote ++ hostPorts ps).eraseDups } else x
    (if a.acq then { x with holds := x.holds ++ [acqHold n a.scope] } else x).markEmpty a.dest

/-- The value a load-class access writes to its register (R241, R245, R250). -/
def OpKind.result (k : OpKind) (v : VWord) : VWord :=
  match k with
  | .load n sgn => if sgn then (sext (8 * n) (v.toNat % 2 ^ (8 * n))).setWidth 512 else BitVec.ofNat 512 (v.toNat % 2 ^ (8 * n))
  | _ => v

/-- Writes a result to its register. -/
def Hart.deliver (d : Option RegRef) (v : VWord) (h : Hart) : Hart :=
  match d with
  | some (f, r) => (h.writeReg f r v).setFull f r true
  | none => h

/-- A load-class access met POISON: its register is zero and FULL and the trap waits for the boundary (R60). -/
def Hart.meetPoison (d : Option RegRef) (va : Word) (h : Hart) : Hart :=
  let h := h.deliver d 0
  { h with posted := h.posted ++ [mkTrapAt cPOISON 0 va] }

/-- The latch event of an asynchronous register write that arrives (R329): none for an access without a register. -/
def Hart.arrived (d : Option RegRef) (h : Hart) : Hart := if d.isSome then h.latchEvent else h

/-- Performs every piece at issue, in order: the own-slice alias (R27, R227, R257). -/
def State.performAll (a : Acc) (s : State) : List Part → VWord → State × Ans
  | [], v => (s, .done v)
  | p :: ps, v =>
    match s.perform a.kind p v a.x a.y false with
    | (s', .done v') => State.performAll a s' ps v'
    | (s', r) => (s', r)

/-- An access whose every byte lies in the own-slice alias. -/
def Acc.allAlias (a : Acc) : Bool := a.exts.all fun e => match range e.va with | .own _ => true | _ => false

/-- An access through the alias: performed at issue, its result interlocked (R227, R257). One that meets POISON takes that trap at the
boundary, and no STEP trap (R60, R364). -/
def State.direct (h : HartId) (a : Acc) (ps : List Piece) (s : State) : State :=
  match s.performAll a (partsOf a ps) a.data with
  | (s', .poison va) => s'.modHart h fun x => (x.meetPoison a.dest va).advance
  | (s', .done v) =>
    let s' := retire (s'.modHart h fun x => x.deliver a.dest (a.kind.result v))
    if a.acq && decide (a.scope = .c ∨ a.scope = .w ∨ a.scope = .s) then s'.dropL1 h.tile else s'
  | (s', .wait) => retire s'

/-- What an access used becomes the most recently used: the L1 TLB takes its entries from the L2 TLB (R32), and an entry of the
tile-map cache is the last to go of its set (R20). -/
def State.touch (h : HartId) (a : Acc) (s : State) : State :=
  a.exts.foldl (fun s e => match range e.va with
    | .paged => match s.tlbFind h e.va.toNat with
      | some t => s.tlbFill h t
      | none => s
    | .slice vt _ => s.modTile h.tile fun x => { x with mapCache := match find vt x.mapCache with
      | some m => mapAdd vt m x.mapCache
      | none => x.mapCache }
    | _ => s) s

/-- Starts what a waiting access needs: walks and map reads (R20, R33). -/
def State.seek (h : HartId) (walks : List Nat) (maps : List (BitVec 20)) (s : State) : State :=
  maps.foldl (fun s v => s.wantMap h.tile v) (walks.foldl (fun s va => s.walk h none va) s)

/-- Checks an access of the focused hart and goes on with its pieces, waits at issue, or takes the fault. -/
def access (a : Acc) (s : State) (k : State → List Piece → Out) : Out :=
  let h := s.focus
  let s := s.passHolds h
  match accCheck s h a with
  | .fault f => trap f.posted s
  | .wait walks maps => waitAt (s.seek h walks maps)
  | .ok ps => if s.heldBack h a.wr || s.blocked h a ps then waitAt s else k (s.touch h a) ps

/-- A release that must wait for the hart's earlier accesses when performed at issue, through the alias (R134). -/
def State.relWaits (s : State) (h : HartId) (a : Acc) : Bool :=
  a.rel && decide (a.scope ≠ .h) && s.pendingOp h true true fun _ => true

/-- A release performed at issue, after what it waits for: the flushing reads of one at .s are sent first (R106). -/
def releaseHere (a : Acc) (s : State) (k : State → Out) : Out :=
  let s := s.release s.focus a.rel a.scope
  if s.relWaits s.focus a then waitAt s else k s

/-- An access through the alias is performed whole at issue, but for a TAG.SET of several words, each an action of its own (R58). The pieces of
a split plain or vector access come together, in one step: R110 makes each an access of its own and orders them in no way (DESIGN CHOICE, log
entry 91). -/
def Acc.atOnce (a : Acc) : Bool :=
  a.allAlias && match a.kind with
    | .tagSet _ => decide (a.exts.length ≤ 1)
    | _ => true

/-- Issues a checked load, store or atomic: at once through the alias, else in flight. -/
def issueOn (a : Acc) (s : State) (ps : List Piece) : Out :=
  if a.atOnce then releaseHere a s fun s => .next (s.direct s.focus a ps)
  else .next (retire (s.send s.focus a ps))

/-- Checks and issues a load, store or atomic. -/
def issue (a : Acc) (s : State) : Out := access a s (issueOn a)

end Sys2Proof.Machine
end

