-- ==== Sys2Proof/Machine/Parks.lean ====
section
/-!
DEFINITION. The park table (R68-R71): buckets, records and their words in memory, and what a bucket's home does with link and
wake requests (R72, R74-R76).
-/

namespace Sys2Proof.Machine

/-- NLOG of the SY.PARKBASE that names a tableau's park table (R69). -/
def State.nlogOf (s : State) (t : BitVec 16) : Nat :=
  match s.tab? t with
  | some x => bits x.parkbase 0 5
  | none => 10

/-- BASE of that SY.PARKBASE (R69). -/
def Tableau.parkAt (x : Tableau) : Nat := bits x.parkbase 12 36 * 4096

/-- The bucket of a park key (R70). -/
def bucketOf (nlog key : Nat) : Nat :=
  let x := key / 64
  (x ^^^ (x >>> nlog) ^^^ (x >>> (2 * nlog))) % 2 ^ nlog

/-- Offset of the record of a waiter in the park table (R70). -/
def State.recOffset (s : State) (t : BitVec 16) (h : Option HartId) (q : BitVec 12) : Nat :=
  let n := match s.tab? t with
    | some x => x.args.stages * x.args.gangs * x.args.tiles
    | none => 0
  64 * 2 ^ s.nlogOf t + 64 * (match h with
    | some h => 4 * s.dense h.tile + h.num.toNat
    | none => 4 * n + q.toNat)

/-- The WHO word of a record (R70). -/
def whoWord (st kind : Nat) (more : Bool) (t : BitVec 16) (h : Option HartId) (q : BitVec 12) : Word :=
  atBits 46 2 st ||| atBits 43 3 kind ||| atBits 42 1 (b2n more) ||| atBits 20 16 t.toNat |||
    (match h with
    | some h => atBits 40 2 h.num.toNat ||| atBits 0 20 h.tile.vt.toNat
    | none => atBits 39 1 1 ||| atBits 0 12 q.toNat)

/-- Two waiters are the same. -/
def ParkRec.isOf (r : ParkRec) (t : BitVec 16) (h : Option HartId) (q : BitVec 12) : Bool :=
  r.tab == t && decide (r.hart = h) && (h.isSome || r.queue == q)

/-- Records in ascending SEQ. -/
def insertSeq (r : ParkRec) : List ParkRec → List ParkRec
  | [] => [r]
  | x :: xs => if r.seq < x.seq then r :: x :: xs else x :: insertSeq r xs

/-- The chain of a bucket: its linked records in ascending SEQ (R70). -/
def State.chain (s : State) (t : BitVec 16) (b : Nat) : List ParkRec :=
  (s.parks.filter fun r => r.tab == t && !r.woken && bucketOf (s.nlogOf t) r.key == b).foldr insertSeq []

/-- Where a word of the park table stands: at the DPA that came with the table the ostler named, or where the tableau's page tables
put a table that SY.PARKBASE names instead (R69, R70; DESIGN CHOICE, log entry 54). -/
def State.parkHome (t : BitVec 16) (off : Nat) (s : State) : State × Option Home :=
  match s.tab? t with
  | none => (s, none)
  | some x =>
    if x.parkAt = x.args.parkVa / 4096 * 4096 then (s, some (.hbm (x.args.parkDpa + off)))
    else
      let va := x.parkAt + off
      match s.walkFrom x.args.root va 4 0 x.args.root with
      | (s, .ok e) => (s, if leafMT e.leaf = 0 then some (leafHome e.leaf e.bits va) else none)
      | (s, .error _) => (s, none)

/-- Writes a word of the park table; a page that is not VALID takes nothing and is logged (R37). -/
def State.parkWord (t : BitVec 16) (off : Nat) (v : Word) (s : State) : State :=
  match s.parkHome t off with
  | (s, some h) => if s.pageOk h then s.writeWord h v else s.logDpa h
  | (s, none) => s

/-- VA of an offset in the park table. -/
def State.parkVaOf (s : State) (t : BitVec 16) (off : Nat) : Word :=
  match s.tab? t with
  | some x => BitVec.ofNat 64 (x.parkAt + off)
  | none => 0

/-- Writes a record's words: WADDR, NEXT, SEQ, WHO (R70). -/
def State.parkRecord (r : ParkRec) (next : Word) (st : Nat) (s : State) : State :=
  let o := s.recOffset r.tab r.hart r.queue
  (((s.parkWord r.tab o (BitVec.ofNat 64 r.key)).parkWord r.tab (o + 8) next).parkWord r.tab (o + 16) (BitVec.ofNat 64 r.seq)).parkWord
    r.tab (o + 24) (whoWord st r.kind r.more r.tab r.hart r.queue)

/-- Writes the records of a chain, each with the address of the next. -/
def State.parkChain : List ParkRec → State → State
  | [], s => s
  | r :: rest, s =>
    let next := match rest with
      | n :: _ => s.parkVaOf n.tab (s.recOffset n.tab n.hart n.queue)
      | [] => 0
    State.parkChain rest (s.parkRecord r next 1)

/-- Writes a bucket's words and its chain to memory (R70). -/
def State.syncBucket (t : BitVec 16) (b : Nat) (s : State) : State :=
  let c := s.chain t b
  let addr := fun (r : Option ParkRec) => match r with
    | some r => s.parkVaOf t (s.recOffset t r.hart r.queue)
    | none => 0
  (((s.parkWord t (64 * b) (addr c.head?)).parkWord t (64 * b + 8) (addr c.getLast?)).parkWord t (64 * b + 16)
    (BitVec.ofNat 64 (findD (t, b) s.buckets 0))).parkChain c

def ParkRec.takes (r : ParkRec) : Bool := r.kind == 1 || r.kind == 3
def ParkRec.fills (r : ParkRec) : Bool := r.kind == 2 || r.kind == 4

/-- Drops a key from the fill-wait table of a home (R75). -/
def State.dropFillKey (t : BitVec 16) (key : Nat) (s : State) : State :=
  if 2 ^ 63 ≤ key then { s with hbmFill := s.hbmFill.filter (· ≠ key) }
  else s.modTile { tab := t, vt := BitVec.ofNat 20 (key / 2 ^ 22) } fun x => { x with fillWait := x.fillWait.filter (· ≠ key) }

/-- A record names the word that a tableau's key names: an HBM word is the same in every tableau (R71). -/
def ParkRec.keyed (r : ParkRec) (t : BitVec 16) (key : Nat) : Bool := r.key == key && (r.tab == t || decide (2 ^ 63 ≤ key))

/-- No filling record is linked under a key, nor on its way to be linked. -/
def State.noFiller (s : State) (t : BitVec 16) (key : Nat) : Bool :=
  !(s.parks.any fun r => r.keyed t key && !r.woken && r.fills) &&
    !(s.parkReqs.any fun p => match p.2 with
      | .link r => r.keyed t key && r.fills
      | _ => false)

/-- A key leaves the fill-wait table when no filling record for it remains (R75). -/
def State.tidyFillKey (t : BitVec 16) (key : Nat) (s : State) : State := if s.noFiller t key then s.dropFillKey t key else s

/-- Unlinks a waiter's record; its place in the table goes idle (R72), and the key of a filler that was the last leaves the fill-wait
table (R75). -/
def State.unlink (t : BitVec 16) (h : Option HartId) (q : BitVec 12) (s : State) : State :=
  let mine := s.parks.filter (·.isOf t h q)
  let s1 := { s with
    parks := s.parks.filter fun r => !r.isOf t h q,
    parkReqs := s.parkReqs.filter fun p => match p.2 with
      | .link r => !r.isOf t h q
      | _ => true }
  let asked := s.parkReqs.filterMap fun p => match p.2 with
    | .link r => if r.isOf t h q then some r else none
    | _ => none
  let s2 := mine.foldl (fun s r => (s.parkRecord r 0 0).syncBucket t (bucketOf (s.nlogOf t) r.key)) s1
  ((mine ++ asked).filter (·.fills)).foldl (fun s r => s.tidyFillKey t r.key) s2

/-- Links a record, or relinks the waiter's own under its first SEQ (R70, R72). -/
def State.linkRec (r : ParkRec) (s : State) : State :=
  let b := bucketOf (s.nlogOf r.tab) r.key
  let s1 := match s.parks.find? (·.isOf r.tab r.hart r.queue) with
    | some old =>
      let again := fun (x : ParkRec) => if x.isOf r.tab r.hart r.queue then { r with seq := old.seq, woken := false, more := false } else x
      { s with parks := s.parks.map again }
    | none =>
      let n := findD (r.tab, b) s.buckets 0
      { s with parks := s.parks ++ [{ r with seq := n, woken := false, more := false }], buckets := put (r.tab, b) (n + 1) s.buckets }
  s1.syncBucket r.tab b

/-- A record of VLD.TAKE or VST.FILL, linked under the key of its line's first word (R71). -/
def ParkRec.line (r : ParkRec) : Bool := r.kind == 3 || r.kind == 4

/-- A linked record concerns a word: its key is the word's, or it is a record of the word's line (R71). -/
def ParkRec.names (r : ParkRec) (t : BitVec 16) (key : Nat) : Bool :=
  r.tab == t && !r.woken && (r.key == key || (r.line && r.key == lineKey key))

/-- Wakes a record: a wake to the waiter, or to the carrier queue for a hart whose gang is not resident (R74, R76). -/
def State.wakeRec (r : ParkRec) (more : Bool) (s : State) : State :=
  let mark := fun (x : ParkRec) => if x.isOf r.tab r.hart r.queue then { x with woken := true, more := more } else x
  let s1 : State := { s with parks := s.parks.map mark }
  let s2 := (s1.parkRecord { r with more := more } 0 2).syncBucket r.tab (bucketOf (s.nlogOf r.tab) r.key)
  match r.hart with
  | some h =>
    if s.resident h.tile then { s2 with wakes := s2.wakes ++ [{ id := s2.nextId, tab := r.tab, hart := some h, queue := 0, more := more }], nextId := s2.nextId + 1 }
    else s2.modTab r.tab fun x => { x with wakes := x.wakes ++ [{ hart := h, more := more }] }
  | none => { s2 with wakes := s2.wakes ++ [{ id := s2.nextId, tab := r.tab, hart := none, queue := r.queue, more := more }], nextId := s2.nextId + 1 }

/-- A wake for the loads of words: for each word every waiting record, and the taking record of lowest SEQ, chosen among the records
as they stood before; with MORE in a taker's wake while further takers of its word stay linked; in ascending SEQ (R74, R148). -/
def State.wakeLoads (t : BitVec 16) (keys : List Nat) (s : State) : State :=
  let c := s.chain t (bucketOf (s.nlogOf t) (keys.headD 0))
  let takers := fun k => c.filter fun r => r.names t k && r.takes
  let goes := fun (r : ParkRec) => keys.any fun k => r.names t k && (r.kind == 0 || decide ((takers k).head? = some r))
  let more := fun (r : ParkRec) => keys.any fun k => decide ((takers k).head? = some r) && (takers k).any fun q => !goes q
  (c.filter goes).foldl (fun s r => s.wakeRec r (r.takes && more r)) s

/-- A wake for the fillers of words that were emptied: for each word, under its own key and its line's, the filling record of lowest
SEQ; a key that no filling record keeps leaves the table (R71, R75; DEDUCED, log entry 53). -/
def State.wakeFiller (t : BitVec 16) (keys : List Nat) (s : State) : State :=
  let c := (s.chain t (bucketOf (s.nlogOf t) (keys.headD 0))).filter (·.fills)
  let first := fun (r : ParkRec) (k : Nat) (p : ParkRec → Bool) => decide ((c.filter fun q => q.tab == t && q.key == k && p q).head? = some r)
  let goes := fun (r : ParkRec) => keys.any fun k => first r k (fun _ => true) || first r (lineKey k) fun q => k == lineKey k || q.line
  let s1 := (c.filter goes).foldl (fun s r => s.wakeRec r false) s
  (keys ++ keys.map lineKey).foldl (fun s k => s.tidyFillKey t k) s1

/-- The requests about a word's bucket are carried out in order (R68): nothing about this line stands before this one. -/
def ParkReq.about : ParkReq → BitVec 16 × Nat
  | .link r => (r.tab, lineKey r.key)
  | .loads t ks => (t, lineKey (ks.headD 0))
  | .filler t ks => (t, lineKey (ks.headD 0))

/-- The request with an identifier, if it is the first about its line. -/
def State.parkReq? (s : State) (id : Nat) : Option ParkReq :=
  match s.parkReqs.find? (fun p => p.1 == id) with
  | some p =>
    match s.parkReqs.find? (fun q => q.2.about == p.2.about) with
    | some q => if q.1 = id then some p.2 else none
    | none => none
  | none => none

def State.dropReq (id : Nat) (s : State) : State := { s with parkReqs := s.parkReqs.filter fun p => p.1 != id }

/-- Full/empty access done: its record goes (R72, R242), and with it the MORE of a wake. (DEDUCED: log entry 31.) -/
def State.feDone (h : HartId) (s : State) : State :=
  (s.modHart h fun x => { (((x.setFe 63 1 0).setFe 62 1 0).setFe 48 1 0).setFe 47 1 0 with more := false }).unlink h.tile.tab (some h) 0

end Sys2Proof.Machine
end

