-- ==== Sys2Proof/Machine/Fabric.lean ====
section
/-!
DEFINITION. The steps of in-flight accesses between issue and completion: banks, chandlers and ports (R88, R104, R106),
retries (R62), routing (R20-R24, R36, R37), the L1 and the write-through buffer (R91-R92, R147), page walks (R28-R33), and
the delivery of results (R60, R77, R428).
-/

namespace Sys2Proof.Machine

/-! ## One piece -/

def State.op? (s : State) (id : Nat) : Option MemOp := s.ops.find? fun o => o.id == id

def State.modOp (id : Nat) (f : MemOp → MemOp) (s : State) : State :=
  { s with ops := s.ops.map fun o => if o.id = id then f o else o }

def State.dropOp (id : Nat) (s : State) : State := { s with ops := s.ops.filter fun o => o.id != id }

def State.setRoute (id i : Nat) (r : Route) (s : State) : State :=
  s.modOp id fun o => { o with parts := o.parts.modify i fun p => { p with route := r } }

/-- The harts whose accesses an op holds. -/
def MemOp.harts (o : MemOp) : List HartId := if o.who = [] then [o.hart] else o.who.map (·.1)

/-- The place of an op among the accesses of its harts: its number, or that of the first store of a drained line. -/
def MemOp.seq (o : MemOp) : Nat :=
  match o.who with
  | [] => o.id
  | w :: ws => ws.foldl (fun n x => Nat.min n x.2) w.2

/-- A prefetch orders nothing and waits for nothing (R51). -/
def MemOp.isPref (o : MemOp) : Bool := o.kind == .load 0 false

/-- An op stands before another of the same hart in the lane of a piece (R26, R39, R106), or is still to be performed on a word of the
piece: accesses of one hart to a word keep their order also where the earlier one retries (R129). -/
def MemOp.leads (q o : MemOp) (p : Part) : Bool :=
  !q.isPref && decide (q.seq < o.seq) && (q.harts.any fun h => o.harts.contains h) &&
    q.parts.any fun r => (r.ahead && r.home.lane == p.home.lane) || r.meets q.kind (p.words o.kind)

/-- A piece may be served: nothing of its harts stands before it in its lane; a release waits for every earlier access of its hart
(R134), and a flushing read for the writes that it follows (R106). -/
def State.ready (s : State) (o : MemOp) (p : Part) : Bool :=
  !p.over &&
    (o.isPref ||
      (!(s.ops.any fun q => q.leads o p) && !(o.rel && s.pendingOp o.hart true true fun n => decide (n < o.id)) &&
        !(o.kind == .flush && (s.buffered o.hart).any fun n => decide (n < o.id))))

/-- TAG.SET changes its words in ascending order, each as an action of its own (R58, R246). -/
def MemOp.inTurn (o : MemOp) (i : Nat) : Bool :=
  match o.kind with
  | .tagSet _ => (o.parts.take i).all (·.over)
  | _ => true

/-- An op's piece that may be served, with the op. -/
def State.piece (s : State) (id i : Nat) : Option (MemOp × Part) :=
  match s.op? id with
  | some o =>
    match o.parts[i]? with
    | some p => if s.ready o p && o.inTurn i then some (o, p) else none
    | none => none
  | none => none

/-- Pieces that waited for buffered stores go on when none is left on their lines (R92, R134). -/
def State.unbuffer (s : State) : State :=
  { s with ops := s.ops.map fun o => { o with parts := o.parts.map fun p =>
      if p.route = .buffered && !s.waitsForLine o.hart.tile o.id p then
        { p with route := s.route o.hart.tile p.home } else p } }

/-- The interval before attempt k (R62). -/
def interval (sched : Nat × Nat × Nat) (k : Nat) : Nat := Nat.min (sched.1 * 2 ^ (k - 1)) sched.2.1

/-- An exhausted access: PEND becomes 0 and EMPTY_WAIT waits for the boundary (R66). -/
def State.exhaust (o : MemOp) (p : Part) (s : State) : State :=
  ((s.dropOp o.id).modHart o.hart fun h =>
    let h := h.setFe 62 1 0
    { h with posted := h.posted ++ [mkTrapAt cEMPTYWAIT 0 (p.va + BitVec.ofNat 64 p.at0)],
             holds := h.holds.filter fun x => !(x.single && x.upto == o.id + 1),
             run := if h.run = .sleeping ∨ h.run = .blocked then .running else h.run, wfeDue := none })

/-- A line of the L1 takes the words of its home that a drained store has written: the store updated the line as the line stood,
which may be older than the home, and a hart may not read a value that no write made (R92, R129; DEDUCED, log entry 57). -/
def State.freshen (s : State) (p : Part) (l : L1Line) : L1Line :=
  if l.home = p.home.align 64 then
    (p.words .store).foldl (fun l w =>
      let i := (w.key - l.home.key) / 8
      { l with data := putBytes l.data (8 * i) 8 (s.loadNat w 8), tags := l.tags.set i (s.tagOf w) }) l
  else l

/-- An access performed at the home of a paged word drops the word's line, which may be older, from its tile's L1 (R92, R93, R129);
after a drained store the line holds the home's words. -/
def State.pastL1 (o : MemOp) (p : Part) (s : State) : State :=
  if !p.home.pagedHome then s
  else if o.who = [] then s.dropLine o.hart.tile p.home
  else s.modTile o.hart.tile fun t => { t with l1 := t.l1.map (s.freshen p) }

/-- What follows an attempt (R57, R62). `k` is the number of the attempt made. -/
def settle (o : MemOp) (i k : Nat) (p : Part) (r : State × Ans) : State :=
  match r.2 with
  | .done v =>
    let s := ((r.1.modOp o.id fun q => { q with val := v }).setRoute o.id i .done).pastL1 o p
    if o.kind = .store then s.unbuffer else s
  | .poison va => r.1.setRoute o.id i (.poison va)
  | .wait =>
    if k < o.sched.2.2 then r.1.setRoute o.id i (.retry (k + 1) (r.1.now + interval o.sched (k + 1))) else r.1.exhaust o p

/-- Performs a piece at its home; a woken taking access whose wake carried MORE leaves PARKED (R74). -/
def State.serve (o : MemOp) (i k : Nat) (p : Part) (s : State) : State :=
  settle o i k p (s.perform o.kind p o.val o.x o.y (s.hartOf o.hart).more)

/-- The bank serves a piece: the gang is resident with the GEN the piece was routed by, or, between freeze and commit, the
piece is the gang's own (R24, R25). -/
def State.bankServes (s : State) (o : MemOp) (t : TileId) (gen : Nat) : Bool :=
  let e := s.mapEntry t
  (e.st = .resident && e.gen == gen) || (e.st = .resident && decide (o.hart.tile = t)) || s.drainsTo o.hart t

/-- SLICE_BANK_ACCESS: a bank serves one request, or answers STALE (R24, R88). -/
def execSliceBankAccess (op part : Nat) (s : State) : Out :=
  .next (match s.piece op part with
    | some (o, p) =>
      match p.home, p.route with
      | .slice t _, .sent gen => if s.bankServes o t gen then s.serve o part 0 p else s.setRoute op part .stale
      | _, _ => s
    | none => s)

/-- The stack that holds a page names it in its frame-owner table (R36). -/
def State.frameOwned (s : State) (dpa stk frame : Nat) : Bool :=
  let e := s.dpitOf dpa
  e.valid && e.stk == stk && e.frame == frame

/-- CHANDLER_ACCESS: a chandler serves a word of its frames or of a loft slot, or answers REROUTE or STALE (R36, R84, R104). -/
def execChandlerAccess (op part : Nat) (s : State) : Out :=
  .next (match s.piece op part with
    | some (o, p) =>
      match p.home, p.route with
      | .hbm dpa, .stack stk frame => if s.frameOwned dpa stk frame then (s.track (s.fromTile o.hart.tile) p.home).serve o part 0 p else s.setRoute op part .reroute
      | .slice t _, .loft =>
        if (s.mapEntry t).st = .absent ∧ (s.mapEntry t).fresh = false then s.serve o part 0 p else s.setRoute op part .stale
      | _, _ => s
    | none => s)

/-- HOST_PORT_ACCESS: a host port performs a read, a posted write or an AtomicOp (R106, R114). -/
def execHostPortAccess (op part : Nat) (s : State) : Out :=
  .next (match s.piece op part with
    | some (o, p) =>
      match p.home, p.route with
      | .host _ _, .port => s.serve o part 0 p
      | _, _ => s
    | none => s)

/-- HOME_RETRY_ATTEMPT: attempt k of a waiting, taking or filling access when it is due (R62). A slice that has frozen
returns the access to its NI with the budget it had left (R374), and a page that is no longer VALID ends it (R37). -/
def execHomeRetryAttempt (op : Nat) (s : State) : Out :=
  .next (match s.op? op with
    | some o =>
      match o.parts with
      | p :: _ =>
        match p.route with
        | .retry k due =>
          if !s.pageOk p.home then ((s.reach due).logDpa p.home).setRoute op 0 (.poison (p.va + BitVec.ofNat 64 p.at0))
          else if s.homeServes o.hart p.home then (s.reach due).serve o 0 k p
          else (s.modOp op fun q => { q with sched := (q.sched.1, q.sched.2.1, q.sched.2.2 - (k - 1)) }).setRoute op 0 .held
        | _ => s
      | [] => s
    | none => s)

/-- The POISON that some piece met, if any. -/
def MemOp.poisoned (o : MemOp) : Option Word :=
  o.parts.findSome? fun p => match p.route with
    | .poison va => some va
    | _ => none

/-- STORE_ACK: the home acknowledges a store (R428); a fill's record goes (R242). A store that the anchor completed with an
error gives POISON to its hart, or to every hart whose store the line holds (R37). R255 lists no store, ST.EMPTY or tag form under POISON: R37
is followed for a page that is not VALID (DEDUCED, log entry 95). -/
def execStoreAck (op : Nat) (s : State) : Out :=
  .next (match s.op? op with
    | some o =>
      if o.over && o.kind.storeLike then
        let s := (s.dropOp op).unbuffer
        let s := match o.kind with
          | .fe _ => s.feDone o.hart
          | _ => s
        match o.poisoned with
        | some va => o.harts.eraseDups.foldl (fun s h => s.modHart h (·.meetPoison none va)) s
        | none => s
      else s
    | none => s)

/-- ASYNC_REGISTER_WRITE: the value of a load-class access fills its register, or the hart takes POISON (R60, R77). The
result of a vector load waits for its queue entry (R256). A prefetch and a flushing read have no register (R106, R248). -/
def execAsyncRegisterWrite (op : Nat) (s : State) : Out :=
  .next (match s.op? op with
    | some o =>
      if o.over && (o.isPref || o.kind == .flush) then s.dropOp op
      else if o.over && !o.kind.storeLike && !o.isRefill && !((s.hartOf o.hart).vq.any fun q => q.op == some op) then
        let s := s.dropOp op
        let s := match o.kind with
          | .fe _ => s.feDone o.hart
          | _ => s
        match o.poisoned with
        | some va => s.modHart o.hart fun h => (h.meetPoison o.dest va).arrived o.dest
        | none => s.modHart o.hart fun h => (h.deliver o.dest (o.kind.result o.val)).arrived o.dest
      else s
    | none => s)

/-! ## The write-through buffer and the L1 -/

/-- The oldest line of a tile's buffer may leave: a release waits for its hart's earlier accesses (R92, R134). -/
def State.mayDrain (s : State) (t : TileId) : Bool :=
  match (s.tile t).wbuf with
  | [] => false
  | l :: _ => !(l.rel && l.writes.any fun w => s.pendingOp w.1 true true fun m => decide (m < w.2.1))

/-- WRITE_BUFFER_DRAIN: the oldest line leaves for its home, when it may (R92, R134, R147). -/
def execWriteBufferDrain (t : TileId) (s : State) : Out := .next (if s.mayDrain t then s.drain t else s)

/-- Puts a line into the L1: 8 ways of 128 sets, least recently used out (R91). -/
def l1Add (l : L1Line) (ls : List L1Line) : List L1Line :=
  let ls := ls.filter fun x => x.home ≠ l.home
  let same := ls.filter fun x => x.home.key / 64 % 128 = l.home.key / 64 % 128
  let ls := if same.length < 8 then ls else
    match same.head? with
    | some o => ls.filter fun x => x.home ≠ o.home
    | none => ls
  ls ++ [l]

/-- Reads a line from its home, with the tags of the moment (R92, R93). -/
def State.readLine (line : Home) (s : State) : State × L1Line :=
  let words := (List.range 8).map fun i => line.plus (8 * i)
  let s := words.foldl (fun s w => s.detect w) s
  (s, { line := line.key, home := line, data := BitVec.ofNat 512 (s.loadNat line 64), tags := words.map s.tagOf, filled := s.now, bad := false })

/-- The writes of a tile to a line that have not reached its home, in order: drained ones, then buffered ones. -/
def State.writesTo (s : State) (t : TileId) (line : Home) : List WItem :=
  let at' := fun (p : Part) => if p.home.align 64 = line then p.writes.map fun i => { i with off := i.off + (p.home.key - line.key) } else []
  ((s.ops.filter fun o => !o.over && o.who.any fun w => decide (w.1.tile = t)).flatMap fun o => (o.parts.filter fun p => !p.over).flatMap at') ++
    ((s.tile t).wbuf.filter fun l => l.home == line).flatMap fun l => l.writes.map (·.2.2)

/-- Puts a line that was read into the L1, with the later stores of the tile that will reach it, as a store that hits updates it
(R92; DEDUCED, log entry 57). -/
def State.putLine (t : TileId) (l : L1Line) (s : State) : State :=
  s.modTile t fun x => { x with l1 := l1Add ((s.writesTo t l.home).foldl (fun l i => l1Store l.home i l) l) x.l1 }

/-- Reads a line from its home into the L1. -/
def State.fillL1 (t : TileId) (line : Home) (s : State) : State :=
  match s.readLine line with
  | (s, l) => s.putLine t l

/-- Serves from the L1 every piece of the tile that joined the fill of a line (R92). -/
def State.joinL1 (t : TileId) (l : L1Line) (s : State) : State :=
  { s with ops := s.ops.map fun o =>
      if o.hart.tile = t then
        o.parts.zipIdx.foldl (fun o p =>
          if p.1.route = .l1 && p.1.home.align 64 == l.home && s.ready o p.1 then
            match l1Read l p.1 o.val with
            | .done v => { o with val := v, parts := o.parts.modify p.2 fun q => { q with route := .done } }
            | .poison va => { o with parts := o.parts.modify p.2 fun q => { q with route := .poison va } }
            | .wait => o
          else o) o
      else o }

/-- L1_LINE_FILL: a missed line is read from its home and serves every load that joined it (R91, R92). A fill waits behind the
buffered stores to its line that came before it, and reads the home also where the L1 holds a line with stores that no home has performed
yet (R129). (DEDUCED: log entry 57.) -/
def execL1LineFill (op part : Nat) (s : State) : Out :=
  .next (match s.piece op part with
    | some (o, p) =>
      let line := p.home.align 64
      let t := o.hart.tile
      if p.route = .l1 && !s.lineBuffered t none o.id line then
        if !s.pageOk line then (s.logDpa line).setRoute op part (.poison p.va)
        else
          match if s.writesTo t line = [] then s.l1Find t line else none with
          | some l => s.joinL1 t l
          | none =>
            match (s.track (s.fromTile t) line).readLine line with
            | (s, l) => (s.joinL1 t l).putLine t l
      else s
    | none => s)

/-- L1_LINE_EXPIRY: a line, named by the key of its home, is dropped 65,536 cycles after its fill (R147). -/
def execL1LineExpiry (t : TileId) (line : Nat) (s : State) : Out :=
  .next (match (s.tile t).l1.find? (fun l => l.line == line) with
    | some l => (s.reach (l.filled + 65536)).modTile t fun x => { x with l1 := x.l1.filter fun q => q.line != line }
    | none => s)

/-- A line of a stream: a demand access of the tile has touched its 64 KiB piece, and of a host page the line itself (R52; DESIGN CHOICE,
log entry 13). -/
def State.streamed (s : State) (t : TileId) (home : Home) : Bool :=
  if home.isHost then (s.tile t).streams.contains (home.key / 64) else (s.tile t).streams.any fun l => l / 1024 == home.key / 65536

/-- Asks for the line of an address under a translation: a read that no register waits for; nothing where the form needs a
permission that is not there, where NC = 1, or where the L1 holds the line (R51, R248). -/
def State.prefetchLine (h : HartId) (va : Word) (e : TlbEntry) (s : State) : State :=
  let line := (leafHome e.leaf e.bits va.toNat).align 64
  if (permFault (s.hartOf h) needR e.leaf va).isSome || leafNC e.leaf || (s.l1Find h.tile line).isSome then s
  else
    let p : Part := { home := line, va := va, reads := [], writes := [], route := .l1 }
    { s.fresh with ops := s.ops ++
      [{ id := s.nextId, hart := h, kind := .load 0 false, rel := false, dest := none, val := 0, x := 0, y := 0, parts := [p],
         sched := (0, 0, 0), who := [] }] }

/-- HARDWARE_PREFETCH: a line of a stream of paged lines with NC = 0 whose translation the hart's L1 TLB holds (R52). -/
def execHardwarePrefetch (h : HartId) (va : Word) (s : State) : Out :=
  .next (match (s.hartOf h).tlb.find? (fun e => e.covers (s.hartOf h).root va.toNat) with
    | some e =>
      let home := (leafHome e.leaf e.bits va.toNat).align 64
      if range va = .paged && !leafNC e.leaf && s.streamed h.tile home && leafR e.leaf && s.pageOk home &&
          !s.lineBuffered h.tile none s.nextId home && (s.l1Find h.tile home).isNone then s.fillL1 h.tile home else s
    | none => s)

/-! ## Routing -/

/-- DPIT_ANCHOR_LOOKUP: the anchor forwards the access to the stack of the page and returns the entry; a page that is not
VALID ends the access with POISON and a record (R36, R37), and the tile keeps no line of it with a store that did not come home. -/
def execDpitAnchorLookup (op part : Nat) (s : State) : Out :=
  .next (match s.piece op part with
    | some (o, p) =>
      match p.home, p.route with
      | .hbm dpa, .anchor =>
        let e := s.dpitOf dpa
        if e.valid then
          (s.modTile o.hart.tile fun t => { t with dpit :=
            ((dpa / 65536, e.stk, e.frame) :: t.dpit.filter fun q => q.1 != dpa / 65536).take 1024 }).setRoute op part (.stack e.stk e.frame)
        else ((s.logDpa p.home).setRoute op part (.poison (p.va + BitVec.ofNat 64 p.at0))).dropLine o.hart.tile p.home
      | _, _ => s
    | none => s)

/-- REROUTE: the NI drops its entry and re-sends by way of the anchor (R36). -/
def execReroute (op part : Nat) (s : State) : Out :=
  .next (match s.piece op part with
    | some (o, p) =>
      match p.home, p.route with
      | .hbm dpa, .reroute =>
        (s.modTile o.hart.tile fun t => { t with dpit := t.dpit.filter fun q => q.1 != dpa / 65536 }).setRoute op part .anchor
      | _, _ => s
    | none => s)

/-- STALE_REPLY: the sender drops its cached entry and re-reads the map (R24). -/
def execStaleReply (op part : Nat) (s : State) : Out :=
  .next (match s.piece op part with
    | some (o, p) =>
      match p.home, p.route with
      | .slice t _, .stale =>
        ((s.modTile o.hart.tile fun x => { x with mapCache := x.mapCache.filter fun q => q.1 ≠ t.vt }).wantMap o.hart.tile t.vt).setRoute
          op part .mapRead
      | _, _ => s
    | none => s)

/-- Sends on the pieces of a tile's harts to a vtile that stand at a route, in issue order (R21, R22). -/
def State.resend (t : TileId) (vt : BitVec 20) (p : Route → Bool) (r : Route) (s : State) : State :=
  { s with ops := s.ops.map fun o =>
      if o.hart.tile = t then
        { o with parts := o.parts.map fun q => match q.home with
          | .slice u _ => if u.vt = vt && p q.route then { q with route := r } else q
          | _ => q }
      else o }

/-- A piece of the tile's harts is held for a vtile (R21). -/
def State.holdsFor (s : State) (t : TileId) (vt : BitVec 20) : Bool :=
  s.ops.any fun o => decide (o.hart.tile = t) && o.parts.any fun q => q.route == .held && (match q.home with
    | .slice v _ => v.vt == vt
    | _ => false)

/-- TILE_MAP_READ: a map entry arrives and routes the accesses that wait for it (R20, R21). An uncorrectable error in it goes
to firmware and the access stays held (R22). -/
def execTileMapRead (t : TileId) (vt : BitVec 20) (s : State) : Out :=
  .next (
    let u : TileId := { tab := t.tab, vt := vt }
    let e := s.mapEntry u
    if (s.tile t).mapWants.contains vt then
      if s.entryBad u then (s.resend t vt (· == .mapRead) .held).meetBadEntry u
      else
        let s1 := s.modTile t fun x => { x with mapCache := mapAdd vt e x.mapCache, mapWants := x.mapWants.filter (· ≠ vt) }
        let s2 := s1.resend t vt (· == .mapRead) (routeOf e)
        if s2.holdsFor t vt then s2.report u else s2
    else s)

/-- TILE_MAP_REREAD: a holding NI re-reads an entry; when its state has changed the held accesses go on, and an uncorrectable error
in it goes to firmware (R22). -/
def execTileMapReread (t : TileId) (vt : BitVec 20) (s : State) : Out :=
  .next (
    let u : TileId := { tab := t.tab, vt := vt }
    let e := s.mapEntry u
    if s.entryBad u then (if s.holdsFor t vt then s.meetBadEntry u else s)
    else if routeOf e != .held then
      (s.modTile t fun x => { x with mapCache := mapAdd vt e x.mapCache }).resend t vt (· == .held) (routeOf e)
    else s)

/-! ## Page walks (R28-R33) -/

/-- The walk of a miss has ended in a fault. -/
def Miss.faulted (w : Walk) (reason : Nat) (m : Miss) : Miss := if m.walk = w.id then { m with fault := some (reason, w.level) } else m

/-- A walk ends in a fault: it is reported to the instructions that missed on it and still stand at retirement, and to no other of
their harts (R33). -/
def State.walkFault (t : TileId) (w : Walk) (reason : Nat) (s : State) : State :=
  w.harts.foldl (fun s h => s.modHart h fun x => { x with misses := x.misses.map (·.faulted w reason) })
    (s.modTile t fun x => { x with walks := x.walks.filter fun y => y.id != w.id })

/-- A walk ends at a leaf: the L2 TLB and the L1 TLBs of the harts that missed take it (R32), and the prefetches that waited for it
ask for their lines (R248). -/
def State.walkDone (t : TileId) (w : Walk) (e : TlbEntry) (s : State) : State :=
  let s := w.harts.foldl (fun s h => s.modHart h fun x => { x with tlb := tlbAdd 512 e x.tlb })
    (s.modTile t fun x => { x with walks := x.walks.filter fun y => y.id != w.id, tlb2 := tlb2Add e x.tlb2 })
  w.prefs.foldl (fun s p => s.prefetchLine p.1 p.2 e) s

/-- PAGE_WALK_READ: an entry arrives for one of the walks at work; the walk goes on, ends at a leaf, or faults (R28, R30, R33, R37). -/
def execPageWalkRead (t : TileId) (walk : Nat) (s : State) : Out :=
  .next (match (s.tile t).active.find? (fun w => w.id == walk) with
    | some w =>
      let a := pteAddr w.table w.va w.level
      let home : Home := .hbm a
      if !s.pageOk home then (s.logDpa home).walkFault t w 0x0D
      else
        let s := (s.track (s.fromTile t) home).detect home
        if s.tagOf home = .poison then s.walkFault t w 0x0D
        else
          let e := s.loadWord home
          if !leafV e then s.walkFault t w 0x03
          else if pteReserved e w.level then s.walkFault t w 0x04
          else if leafIs e then
            let n := pageBits w.level
            s.walkDone t w { root := w.root, base := w.va / 2 ^ n * 2 ^ n, bits := n, leaf := e }
          else
            let next := bits e 8 34 * 256
            let sh := 39 - 9 * w.level
            s.modTile t fun x =>
              { x with walks := x.walks.map (fun y => if y.id = walk then { y with level := w.level + 1, table := next } else y),
                       walkCache := ((w.root, w.level + 1, w.va / 2 ^ sh, next) :: x.walkCache).take 64 }
    | none => s)

end Sys2Proof.Machine
end

