-- ==== Sys2Proof/Machine/Fetch.lean ====
section
/-!
DEFINITION. Fetching instructions (R12, R31, R50), the decoded-op cache (R394, R424), the words of a repeat at work (R217,
R218), and the steps that fetching gives: SEQUENTIAL_PREFETCH, INSTRUCTION_FETCH_FAULT and UNALLOCATED_ENCODING.
-/

namespace Sys2Proof.Machine

/-! ## The decoded-op cache (R424) -/

/-- A line's tags match the hart's root, block and decode version (R394). -/
def OpLine.hits (h : Hart) (block : Nat) (l : OpLine) : Bool :=
  l.root == h.root && l.block == block && l.major == h.major && l.minor == h.minor

/-- The word of an address in a hart's decoded-op cache. -/
def Hart.opFind (h : Hart) (va : Nat) : Option IWord :=
  match h.ops.find? (OpLine.hits h (va / 32)) with
  | some l => l.words[va / 4 % 8]?
  | none => none

/-- Puts a line in: 4 ways of 64 sets, least recently used out (R424). -/
def opAdd (l : OpLine) (ls : List OpLine) : List OpLine :=
  let ls := ls.filter fun x => !(x.root == l.root && x.block == l.block && x.major == l.major && x.minor == l.minor)
  let same := ls.filter fun x => x.block % 64 == l.block % 64
  let ls := if same.length < 4 then ls else
    match same.head? with
    | some o => ls.filter fun x => !(x.root == o.root && x.block == o.block && x.major == o.major && x.minor == o.minor)
    | none => ls
  ls ++ [l]

/-- Makes a hit's line the most recently used. -/
def Hart.opTouch (va : Nat) (h : Hart) : Hart :=
  match h.ops.find? (OpLine.hits h (va / 32)) with
  | some l => { h with ops := opAdd l h.ops }
  | none => h

/-- The four words of the 32-byte block that holds a home. -/
def blockWords (home : Home) : List Home := (List.range 4).map fun i => (home.align 32).plus (8 * i)

/-- The eight instruction words of a block. -/
def State.codeOf (s : State) (home : Home) : List IWord :=
  (List.range 8).map fun i => BitVec.ofNat 32 (s.loadNat ((home.align 32).plus (4 * i)) 4)

/-- Fills a hart's line with a block that holds no POISON. -/
def State.fillOps (h : HartId) (va : Nat) (home : Home) (s : State) : State :=
  if (blockWords home).any fun w => decide (s.tagOf w = .poison) then s
  else
    let x := s.hartOf h
    s.setHart h { x with ops := opAdd { root := x.root, block := va / 32, major := x.major, minor := x.minor, words := s.codeOf home } x.ops }

/-! ## A demand fetch -/

/-- What a fetch answers. -/
inductive Fetched where
  | word (w : IWord)
  | wait
  | fault (t : Posted)
deriving DecidableEq, Repr

/-- Reads a word of code that the decoded-op cache does not hold: a paged read of its block (R424). A page that is not VALID
ends it as R37 ends a read, and a POISON word as R57 does: the fetched word; POISON in another word of the block only leaves the line
unfilled (DESIGN CHOICE, log entry 82). -/
def State.fetchMiss (h : HartId) (va : Word) (home : Home) (s : State) : State × Fetched :=
  if !s.pageOk home then (s.logDpa home, .fault (mkTrapAt cPOISON 0 va))
  else
    let s := (blockWords home).foldl (fun s w => s.detect w) s
    if s.tagOf home = .poison then (s, .fault (mkTrapAt cPOISON 0 va))
    else (s.fillOps h va.toNat home, .word (BitVec.ofNat 32 (s.loadNat home 4)))

/-- Fetches the instruction word at an address (R12, R31; DEDUCED, log entry 18). The address is translated, and its X checked, before the
decoded-op cache is looked up, whether or not the word is held there: the spec does not say so of a hit (DESIGN CHOICE, log entry 78). -/
def State.fetch (h : HartId) (va : Word) (s : State) : State × Fetched :=
  if va.toNat % 4 ≠ 0 then (s, .fault (mkTrapAt cALIGN 0 va))
  else
    match range va with
    | .none => (s, .fault (mkTrapAt cPAGE 0x01 va))
    | .paged =>
      match trPaged s h needX va with
      | .fault f => (s, .fault f.posted)
      | .miss a => (s.walk h none a, .wait)
      | .mapMiss _ => (s, .wait)
      | .ok home _ =>
        let s := match s.tlbFind h va.toNat with
          | some e => s.tlbFill h e
          | none => s
        match (s.hartOf h).opFind va.toNat with
        | some w => (s.modHart h (·.opTouch va.toNat), .word w)
        | none => s.fetchMiss h va home
    | _ => (s, .fault (mkTrapAt cPROT 0x07 va))

/-! ## Captured instructions (R217) -/

/-- A strided field: its position (0 d, 1 a, 2 b), the limit of its file, and its value. -/
abbrev Strided := Nat × Nat × Nat

def str3 (d a b : Reg) : List Strided := [(0, 31, d.toNat), (1, 31, a.toNat), (2, 31, b.toNat)]
def str2 (d a : Reg) : List Strided := [(0, 31, d.toNat), (1, 31, a.toNat)]

/-- The strided fields of a capturable instruction; none for one that is not capturable (R217). -/
def strided : Instr → Option (List Strided)
  | .add d a b _ | .sub d a b _ | .and d a b _ | .or d a b _ | .xor d a b _ | .andn d a b _ | .shl d a b _ | .shr d a b _
  | .sar d a b _ | .mul d a b _ | .mulhi d a b _ | .mulhis d a b _ | .div d a b _ | .divs d a b _ | .rem d a b _
  | .rems d a b _ | .min d a b _ | .mins d a b _ | .max d a b _ | .maxs d a b _ | .cmpeq d a b _ | .cmplt d a b _
  | .cmplts d a b _ | .sel d a b _ => some (str3 d a b)
  | .clz d a _ | .ctz d a _ | .popc d a _ | .bswap d a _ => some (str2 d a)
  | .addi d a _ _ | .andi d a _ _ | .ori d a _ _ | .xori d a _ _ | .cmplti d a _ _ => some (str2 d a)
  | .shli d a _ _ | .shri d a _ _ | .sari d a _ _ => some (str2 d a)
  | .lih d _ | .addpc d _ => some [(0, 31, d.toNat)]
  | .ext d a _ _ _ | .ins d a _ _ _ => some (str2 d a)
  | .vadd d a b _ _ _ | .vsub d a b _ _ _ | .vmul d a b _ _ _ | .vmin d a b _ _ _ | .vmax d a b _ _ _ | .vfma d a b _ _ _
  | .vand d a b _ _ _ | .vor d a b _ _ _ | .vxor d a b _ _ _ | .vshl d a b _ _ _ | .vshr d a b _ _ _ | .vsar d a b _ _ _
  | .vsel d a b _ _ _ | .vperm d a b _ _ _ => some (str3 d a b)
  | .vabs d a _ _ _ | .vneg d a _ _ _ | .vbcast d a _ _ _ | .vexp2 d a _ _ _ | .vrcp d a _ _ _ | .vrsq d a _ _ _
  | .vsig d a _ _ _ => some (str2 d a)
  | .vcmp d a b _ _ _ _ => some [(0, 7, d.toNat), (1, 31, a.toNat), (2, 31, b.toNat)]
  | .vmovg d a b _ _ => some (str3 d a b)
  | .vcvt d a _ _ _ _ _ => some (str2 d a)
  | .vred d a _ _ _ _ => some (str2 d a)
  | .vrand d a b _ => some (str3 d a b)
  | .kopAnd d a b | .kopOr d a b | .kopXor d a b | .kopAndn d a b => some [(0, 7, d.toNat), (1, 7, a.toNat), (2, 7, b.toNat)]
  | .kopNot d a => some [(0, 7, d.toNat), (1, 7, a.toNat)]
  | .kopFromg d a => some [(0, 7, d.toNat), (1, 31, a.toNat)]
  | .kopTog d a => some [(0, 31, d.toNat), (1, 7, a.toNat)]
  | _ => none

/-- The stride of a position. -/
def strideOf (sd sa sb : Nat) : Nat → Nat
  | 0 => sd
  | 1 => sa
  | _ => sb

/-- The low bit of a field's place in the word (R205). -/
def fieldLow : Nat → Nat
  | 0 => 21
  | 1 => 16
  | _ => 11

/-- The check of step 2 of R218 on one body word. (DEDUCED: log entry 21.) Of several strided fields past the limit it reports the first of
d, a and b: R218 gives no order among them (DEDUCED, log entry 65). -/
def bodyFault (i : Nat) (w : IWord) (count sd sa sb : Nat) : Option Posted :=
  match decode w with
  | .error _ => some (mkTrap cILLEGAL (0x22 + 2 ^ 8 * i))
  | .ok x =>
    match strided x with
    | none => some (mkTrap cILLEGAL (0x22 + 2 ^ 8 * i))
    | some fs =>
      match fs.find? (fun f => decide (f.2.1 < f.2.2 + (count - 1) * strideOf sd sa sb f.1)) with
      | some f => some (mkTrap cRPTRANGE (i + 2 ^ 4 * f.1))
      | none => none

/-- A captured word on a pass: every strided field advanced by its stride times the pass (R217). -/
def strideWord (w : IWord) (pass sd sa sb : Nat) : IWord :=
  match decode w with
  | .ok x =>
    match strided x with
    | some fs => fs.foldl (fun w f => w + BitVec.ofNat 32 (pass * strideOf sd sa sb f.1 * 2 ^ fieldLow f.1)) w
    | none => w
  | .error _ => w

/-- The word that the sequencer executes next. -/
def RptSeq.current (r : RptSeq) : IWord := strideWord (r.words.getD r.pos 0) r.pass r.sd r.sa r.sb

/-- Fetches n words from an address, as their own fetches would (R218). -/
def State.fetchWords (h : HartId) (base : Word) : Nat → Nat → State → State × Except Fetched (List IWord)
  | 0, _, s => (s, .ok [])
  | n + 1, i, s =>
    match s.fetch h (base + BitVec.ofNat 64 (4 * i)) with
    | (s, .word w) =>
      match State.fetchWords h base n (i + 1) s with
      | (s, .ok ws) => (s, .ok (w :: ws))
      | (s, .error e) => (s, .error e)
    | (s, f) => (s, .error f)

/-- The first fault that the checks of R218 find among body words. -/
def firstBodyFault (count sd sa sb : Nat) (ws : List IWord) : Option Posted :=
  ws.zipIdx.findSome? fun p => bodyFault p.2 p.1 count sd sa sb

/-- Reads the body of a repeat, all its words before any is checked, and checks them in turn (R218). (DEDUCED: log entry 21.) -/
def State.fetchBody (h : HartId) (base : Word) (count sd sa sb n : Nat) (s : State) : State × Except Fetched (List IWord) :=
  match s.fetchWords h base n 0 with
  | (s, .ok ws) =>
    match firstBodyFault count sd sa sb ws with
    | some t => (s, .error (.fault t))
    | none => (s, .ok ws)
  | (s, .error e) => (s, .error e)

/-- The next instruction word of a hart: the sequencer's, or the one at the program counter. (DEDUCED: log entry 18.) -/
def State.nextWord (h : HartId) (s : State) : State × Fetched :=
  match (s.hartOf h).rpt with
  | some r => (s, .word r.current)
  | none => s.fetch h (s.hartOf h).pc

/-! ## Steps -/

/-- One block that sequential prefetch may fetch: under the limit, with a translation held in a TLB, executable and in HBM, and
nothing about it that a read would change (R50). -/
def State.prefetchBlock (h : HartId) (va : Nat) (s : State) : State :=
  let x := s.hartOf h
  if va < 2 ^ 48 ∧ va / 64 < bits x.sy.flimit 6 42 then
    match s.tlbFind h va with
    | some e =>
      let home := leafHome e.leaf e.bits va
      if leafX e.leaf && leafMT e.leaf == 0 && s.pageOk home && !(blockWords home).any (fun w => s.latent w) &&
          (x.opFind va).isNone then s.fillOps h va home else s
    | none => s
  else s

/-- SEQUENTIAL_PREFETCH: the line that follows the hart's (R50). (DEDUCED: log entry 51.) -/
def execSequentialPrefetch (h : HartId) (s : State) : Out :=
  let next := ((s.hartOf h).pc.toNat / 64 + 1) * 64
  .next ((s.prefetchBlock h next).prefetchBlock h (next + 32))

/-- INSTRUCTION_FETCH_FAULT: the fetch of the hart in focus faults; nothing was executed, so SY.EPC is the program counter
(R12, R31, R237). -/
def execInstructionFetchFault (cause reason : BitVec 8) (va : Word) (s : State) : Out :=
  trap (mkTrapAt cause.toNat reason.toNat va) s

/-- UNALLOCATED_ENCODING: the word fetched has no form (R208, R209). -/
def execUnallocatedEncoding (reason : BitVec 8) (s : State) : Out := trap (mkTrap cILLEGAL reason.toNat) s

end Sys2Proof.Machine
end

