-- ==== Sys2Proof/Machine/Boundary.lean ====
section
/-!
DEFINITION. What a hart takes at an instruction boundary: posted traps (R60, R66, R171), the STEP trap (R364), interrupts
(R362), and the end of a WFE limit (R329).
-/

namespace Sys2Proof.Machine

/-- A hart that has boundaries: it is not HALTED. -/
def Hart.awake (h : Hart) : Bool := h.run != .halted

/-- A pending interrupt can be taken: in U mode, or in S mode with SIE = 1 (R362). -/
def Hart.irqReady (h : Hart) : Bool := h.awake && h.irqs != [] && (h.isU || (h.isS && h.sie))

/-- Takes the first posted trap: SY.EPC is the next instruction, or the blocked one (R360). -/
def State.takePosted (h : HartId) (s : State) : State :=
  let x := s.hartOf h
  match x.posted with
  | t :: rest => if x.awake then (s.setHart h { x with posted := rest }).takeTrap h t x.pc else s
  | [] => s

/-- The first posted trap of a hart has this cause. -/
def Hart.postedIs (h : Hart) (cause : Nat) : Bool :=
  match h.posted with
  | t :: _ => t.cause == cause
  | [] => false

/-- EMPTY_WAIT: the hart takes the trap of an exhausted access (R66). -/
def execEmptyWait (h : HartId) (s : State) : Out :=
  .next (if (s.hartOf h).postedIs cEMPTYWAIT then s.takePosted h else s)

/-- MSG_LIMIT: the sender of a refused message takes the trap (R171). -/
def execMsgLimit (h : HartId) (s : State) : Out :=
  .next (if (s.hartOf h).postedIs cMSGLIMIT then s.takePosted h else s)

/-- The STEP trap that waits for the boundary (R364); PA is SY.EINFO[63]. -/
def stepTrap (pa : Bool) : Posted := { cause := cSTEP, info := atBits 63 1 (b2n pa), addr := none }

/-- STEP: the trap at the boundary after a stepped instruction (R364). -/
def execStep (h : HartId) (s : State) : Out :=
  let x := s.hartOf h
  .next (match x.stepPend with
    | some pa => if x.run = .running then (s.setHart h { x with stepPend := none }).takeTrap h (stepTrap pa) x.pc else s
    | none => s)

/-- INTERRUPT: the oldest pending interrupt is taken (R362; the order and equal sources: DESIGN CHOICE, log entry 86). -/
def execInterrupt (h : HartId) (s : State) : Out :=
  let x := s.hartOf h
  .next (match x.irqs with
    | src :: rest => if x.irqReady then (s.setHart h { x with irqs := rest }).takeTrap h (mkTrap cINTERRUPT src.toNat) x.pc else s
    | [] => s)

/-- WFE_TIMEOUT: a sleeping hart's limit passes and it resumes (R329). -/
def execWfeTimeout (h : HartId) (s : State) : Out :=
  let x := s.hartOf h
  .next (match x.wfeDue with
    | some due => if x.run = .sleeping then (s.reach due).setHart h { x with run := .running, wfeDue := none } else s
    | none => s)

/-- What the boundary of a hart takes before an instruction: posted traps first, so that no entry overwrites what an interrupt
saved, then STEP, then an interrupt (R60, R66, R362, R364; DEDUCED, log entry 14). -/
def State.boundary (h : HartId) (s : State) : Option State :=
  let x := s.hartOf h
  if x.awake && x.posted != [] then some (s.takePosted h)
  else
    match x.stepPend with
    | some pa =>
      if x.run = .running then some ((s.setHart h { x with stepPend := none }).takeTrap h (stepTrap pa) x.pc) else none
    | none =>
      if x.irqReady then
        some ((s.setHart h { x with irqs := x.irqs.drop 1 }).takeTrap h (mkTrap cINTERRUPT (x.irqs.headD 0).toNat) x.pc)
      else none

end Sys2Proof.Machine
end

