-- ==== Sys2Proof/Machine/FullEmpty.lean ====
section
/-!
DEFINITION. Full/empty loads and stores of words (R62-R67, R242-R244; those of lines stand in VectorMem.lean), tag forms (R245, R246), parking and its steps (R68-R76, R247).
-/

namespace Sys2Proof.Machine

def Need.fe' (n : Need) : Need := { n with fe := true }

/-! ## Waiting, taking and filling accesses -/

/-- Kinds of SY.FEREC.KIND (R65): 0 LD.WAIT, 1 LD.TAKE, 2 ST.FILL, 3 VLD.TAKE, 4 VST.FILL. -/
def feIsLoad (kind : Nat) : Bool := kind == 0 || kind == 1 || kind == 3
def feIsLine (kind : Nat) : Bool := kind == 3 || kind == 4

/-- The register a load of a kind fills (R65). -/
def feDest (kind : Nat) (r : Reg) : Option RegRef :=
  if kind == 3 then some (vRef r) else if feIsLoad kind then some (gRef r) else none

/-- A waiting or taking access acquires and a filling one releases, and .ar does both (R131). -/
def feAcc (kind : Nat) (ea : Word) (sc : Scope) (o : Ord) (r : Reg) (data : VWord) : Acc :=
  { kind := .fe kind, exts := [{ va := ea, len := if feIsLine kind then 64 else 8, pos := 0 }],
    need := (if kind == 0 then needR else needRW).fe', align := if feIsLine kind then 64 else 8, span := false, dev := false,
    wr := kind != 0, past := true, scope := sc, acq := feIsLoad kind || o == .ar, rel := !feIsLoad kind || o == .ar,
    dest := feDest kind r, data := data, whole := false, x := data.setWidth 64, y := 0 }

/-- SY.FEREC at issue (R242). -/
def ferecWord (kind : Nat) (sc : Scope) (o : Ord) (r : Reg) : Word :=
  atBits 62 2 3 ||| atBits 59 3 kind ||| atBits 56 3 sc.code.toNat ||| atBits 54 2 o.code.toNat ||| atBits 49 5 r.toNat

/-- The record and the retry buffer of an access that has been sent (R65, R242). -/
def Hart.recordFe (kind : Nat) (sc : Scope) (o : Ord) (r : Reg) (ea : Word) (data : VWord) (id : Nat) (h : Hart) : Hart :=
  { h.modSy (fun y => { y with ferec := ferecWord kind sc o r }) with rbufVa := ea, rbufVal := data, more := false, feId := some id }

/-- Issues a full/empty access: the gates of R64, the register checks, the record and the retry buffer (R242). `full` says that its
queue has no place (R154), `put` what else the hart keeps of it. The registers are checked before the wait for an outstanding record
(DESIGN CHOICE: log entry 58). -/
def feIssue (kind : Nat) (reads writes : List RegRef) (w : Bool) (sc : Scope) (o : Ord) (r : Reg) (ea : Word) (data : VWord)
    (full : Bool) (put : Nat → Hart → Hart) (s : State) : Out :=
  if s.hart.feV && !s.hart.fePend then trap (mkTrap cILLEGAL 0x20) s
  else
    withRegs reads writes w s
      (if s.hart.feV || full then waitAt s
      else
        access (feAcc kind ea sc o r data) s fun s ps =>
          let s := s.send s.focus (feAcc kind ea sc o r data) ps
          .next (retire (s.mod fun h => put (s.nextId - 1) (h.recordFe kind sc o r ea data (s.nextId - 1)))))

/-- Issues a full/empty access on one word. -/
def feWord (kind : Nat) (reads writes : List RegRef) (w : Bool) (sc : Scope) (o : Ord) (r : Reg) (ea data : Word) (s : State) : Out :=
  feIssue kind reads writes w sc o r ea (data.setWidth 512) false (fun _ h => h) s

/-- ea of major 0x1B and 0x1C (R239). -/
def eaWord (s : State) (a : Reg) (imm : BitVec 8) : Word := eaScalar (s.hart.gr a) imm 8

def execLdWait (d a : Reg) (w : Bool) (sc : Scope) (o : Ord) (imm : BitVec 8) (s : State) : Out :=
  feWord 0 [gRef a] [gRef d] w sc o d (eaWord s a imm) 0 s

def execLdTake (d a : Reg) (w : Bool) (sc : Scope) (o : Ord) (imm : BitVec 8) (s : State) : Out :=
  feWord 1 [gRef a] [gRef d] w sc o d (eaWord s a imm) 0 s

def execStFill (d a : Reg) (w : Bool) (sc : Scope) (o : Ord) (imm : BitVec 8) (s : State) : Out :=
  feWord 2 [gRef a, gRef d] [] w sc o d (eaWord s a imm) (s.hart.gr d) s

/-- ST.EMPTY: the emptying kind, without a record (R243). -/
def stEmptyAcc (ea data : Word) (sc : Scope) (o : Ord) : Acc :=
  { kind := .stEmpty, exts := [{ va := ea, len := 8, pos := 0 }], need := needW.fe', align := 8, span := false, dev := false, wr := true,
    past := true, scope := sc, acq := false, rel := o.isRel, dest := none, data := 0, whole := true, x := data, y := 0 }

def execStEmpty (d a : Reg) (w : Bool) (sc : Scope) (o : Ord) (imm : BitVec 8) (s : State) : Out :=
  withRegs [gRef a, gRef d] [] w s (issue (stEmptyAcc (eaWord s a imm) (s.hart.gr d) sc o) s)

/-! ## Tags -/

/-- n words from an address, each with its number. -/
def tagExts (ea : Word) (n : Nat) : List Ext :=
  (List.range n).map fun i => { va := ea + BitVec.ofNat 64 (8 * i), len := 8, pos := i }

def tagAcc (k : OpKind) (ea : Word) (n : Nat) (need : Need) (wr : Bool) (dest : Option RegRef) : Acc :=
  { kind := k, exts := tagExts ea n, need := need.fe', align := 8, span := true, dev := false, wr := wr, past := true, scope := .w,
    acq := false, rel := false, dest := dest, data := 0, whole := false, x := 0, y := 0 }

/-- TAG.GET: the tags of 32 words (R245). -/
def execTagGet (d a : Reg) (w : Bool) (imm : BitVec 8) (s : State) : Out :=
  withRegs [gRef a] [gRef d] w s (issue (tagAcc .tagGet (eaWord s a imm) 32 needR false (some (gRef d))) s)

/-- TAG.SET: code in g[d][1:0], words less one in g[d][9:4]; code 10 is ILLEGAL (R246), once both sources are FULL (DESIGN CHOICE, log
entry 92). -/
def execTagSet (d a : Reg) (w : Bool) (imm : BitVec 8) (s : State) : Out :=
  withRegs [gRef a, gRef d] [] w s
    (let x := s.hart.gr d
     if bits x 0 2 = 2 then trap (mkTrap cILLEGAL 0x25) s
     else issue (tagAcc (.tagSet (Tag.ofCode (bits x 0 2))) (eaWord s a imm) (bits x 4 6 + 1) needW true none) s)

/-! ## Parking -/

/-- The home that a park key names (R71). -/
def homeOfKey (t : BitVec 16) (key : Nat) : Home :=
  if 2 ^ 63 ≤ key then .hbm (key - 2 ^ 63) else .slice { tab := t, vt := BitVec.ofNat 20 (key / 2 ^ 22) } (key % 2 ^ 22)

/-- The access that SY.FEREC records (R65, R67, R72). -/
def Hart.recorded (h : Hart) : Acc :=
  feAcc h.feKind h.rbufVa ((Scope.ofCode (BitVec.ofNat 3 h.feScope)).getD .w) (Ord.ofCode (BitVec.ofNat 2 h.feOrd)) h.feReg h.rbufVal

/-- The recorded access may be attempted at its home: nothing of its hart stands before it there (R26, R39, R93), no claim holds it
(R139), a release has nothing to wait for (R134), and the home serves it. -/
def State.parkReady (s : State) (h : HartId) (home : Home) : Bool :=
  !s.laneBusy h s.nextId home ((s.hartOf h).recorded.wordsAt home) && !s.claimed h.tile s.nextId home && !(home.pagedHome && s.lineBuffered h.tile (some h) s.nextId home) &&
    !s.relWaits h (s.hartOf h).recorded && s.homeServes h home

/-- The recorded access completes: its result is delivered and the PARK with it (R72). One that acquires at .c or wider drops the L1
(R94, R131). -/
def State.parkDone (h : HartId) (v : VWord) (s : State) : State :=
  let x := s.hartOf h
  let d := feDest x.feKind x.feReg
  let s1 := (s.feDone h).modHart h fun y => ((y.deliver d v).arrived d).advance.stepMark y false
  if x.recorded.acq && decide (2 ≤ x.feScope) then s1.dropL1 h.tile else s1

/-- The recorded access meets POISON (R60, R72). -/
def State.parkPoison (h : HartId) (va : Word) (s : State) : State :=
  let x := s.hartOf h
  let d := feDest x.feKind x.feReg
  (s.feDone h).modHart h fun y => ((y.meetPoison d va).arrived d).advance

/-- The hart suspends with its record linked (R72). -/
def State.parkLinked (h : HartId) (key : Nat) (s : State) : State :=
  let x := s.hartOf h
  (s.ask (.link { tab := h.tile.tab, key := key, seq := 0, kind := x.feKind, hart := some h, queue := 0, woken := false, more := false })).modHart
    h fun y => ({ (y.setFe 48 1 1).setFe 47 1 0 with more := false, parkDue := none } : Hart).enter .parked

/-- Adds a key to the fill-wait table of a home (R75). -/
def State.addFillKey (home : Home) (key : Nat) (s : State) : State :=
  if (s.fillWait home).contains key then s
  else
    match home with
    | .slice t _ => s.modTile t fun x => { x with fillWait := x.fillWait ++ [key] }
    | _ => { s with hbmFill := s.hbmFill ++ [key] }

/-- One attempt of PARK at the home of the recorded word, as one action (R72). It drops the word's line from the L1 (R93). A filler that
finds the fill-wait table full stays in the loop: it keeps LINKED and WOKEN as they are and tries again after CAP cycles. -/
def State.parkTry (h : HartId) (home : Home) (s : State) : State :=
  let x := s.hartOf h
  let s := if home.pagedHome then s.dropLine h.tile home else s
  let r := if s.pageOk home then s.fePart x.feKind x.more home x.rbufVa x.rbufVal else (s.logDpa home, .poison x.rbufVa)
  match r.2 with
  | .done v => r.1.parkDone h v
  | .poison va => r.1.parkPoison h va
  | .wait =>
    let key := parkKey home
    if feIsLoad x.feKind then
      let ws := if feIsLine x.feKind then (List.range 8).map fun i => home.plus (8 * i) else [home]
      (ws.foldl (fun s w => if s.tagOf w = .empty then s.setTag w .parked else s) r.1).parkLinked h key
    else if (r.1.fillWait home).contains key || decide ((r.1.fillWait home).length < 16) then
      (r.1.addFillKey home key).parkLinked h key
    else
      r.1.modHart h fun y => ({ y with parkDue := some (r.1.now + bits y.sy.retry 28 12), more := false } : Hart).enter .parked

/-- PARK (R72, R247). (DEDUCED: log entry 16.) -/
def execPark (s : State) : Out :=
  let h := s.hart
  if !h.feV then .next (retire s)
  else if h.fePend then waitAt s
  else
    access { h.recorded with need := needRW.fe', acq := false, rel := false } s fun s ps =>
      if h.feLinked && !h.feWoken then .next (s.mod (·.enter .parked))
      else
        match ps with
        | p :: _ =>
          let s := s.release s.focus h.recorded.rel h.recorded.scope
          if s.parkReady s.focus p.home then .next (s.parkTry s.focus p.home) else waitAt s
        | [] => waitAt s

/-- PARK_LINK: a bucket home links or relinks a record (R68, R70, R72). -/
def execParkLink (op : Nat) (s : State) : Out :=
  .next (match s.parkReq? op with
    | some (.link r) => (s.dropReq op).linkRec r
    | _ => s)

/-- WAKE: a bucket home chooses records and sends their wakes (R74-R76). -/
def execWake (op : Nat) (s : State) : Out :=
  .next (match s.parkReq? op with
    | some (.loads t ks) => (s.dropReq op).wakeLoads t ks
    | some (.filler t ks) => (s.dropReq op).wakeFiller t ks
    | _ => s)

/-- WAKE_DELIVERY: a wake reaches its hart and sets WOKEN; an absent hart's goes to the carrier queue (R73, R76, R329). -/
def execWakeDelivery (op : Nat) (s : State) : Out :=
  .next (match s.wakes.find? (fun m => m.id == op) with
    | some m =>
      match m.hart with
      | some h =>
        let s1 := { s with wakes := s.wakes.filter fun x => x.id != op }
        if !s1.resident h.tile then s1.modTab h.tile.tab fun x => { x with wakes := x.wakes ++ [{ hart := h, more := m.more }] }
        else s1.modHart h fun x => if x.feV && x.feLinked then ({ x.setFe 47 1 1 with more := m.more } : Hart).latchEvent else x
      | none => s
    | none => s)

/-- WOKEN_REATTEMPT: a parked hart whose record has been woken re-executes its access once at its home (R72, R74). (DEDUCED: log entry 16.) -/
def execWokenReattempt (h : HartId) (s : State) : Out :=
  let x := s.hartOf h
  .next (if x.run = .parked ∧ x.parkDue = none ∧ x.feV ∧ !x.fePend ∧ x.feLinked ∧ x.feWoken then
      match s.parks.find? (fun r => r.isOf h.tile.tab (some h) 0) with
      | some r =>
        let home := homeOfKey h.tile.tab r.key
        if s.parkReady h home then s.parkTry h home else s
      | none => s
    else s)

/-- FILL_WAIT_RETRY: a filling PARK that found the fill-wait table full goes on with its loop (R72). -/
def execFillWaitRetry (h : HartId) (s : State) : Out :=
  let x := s.hartOf h
  .next (match x.parkDue with
    | some due => if x.run = .parked then (s.reach due).setHart h { x with run := .running, parkDue := none } else s
    | none => s)

/-! ## Reissue (R67, R79) -/

/-- Gives the newest access another number. -/
def State.renumber (id : Nat) (s : State) : State :=
  { s with ops := s.ops.map fun o => if o.id = s.nextId - 1 then { o with id := id } else o }

/-- Reissues the recorded access of the hart in focus with a fresh budget from SY.RETRY. After a swap it keeps its number, and with it
its place before the accesses and commands that followed it, and the ordering that its acquire made (R79, R132, R145); that of a TRET is
numbered anew and stands behind the handler's fences and acquires (R67, R132, R134). A fault of it is taken before the
next instruction, with the record as an exhausted one has it (DEDUCED, log entry 15). -/
def reissue (s : State) : Out :=
  let h := s.focus
  let a := { s.hart.recorded with acq := s.hart.recorded.acq && s.hart.feId.isNone }
  let s := s.passHolds h
  match accCheck s h a with
  | .fault f => trap f.posted (s.mod fun x => x.setFe 62 1 0)
  | .wait walks maps => waitAt (s.seek h walks maps)
  | .ok ps =>
    if (s.hart.feId.isNone && s.heldBack h a.wr) || s.blockedAt (s.hart.feId.getD s.nextId) h a ps then waitAt s
    else
      let s := (s.touch h a).send h a ps
      let id := s.hart.feId.getD (s.nextId - 1)
      .next ((s.renumber id).mod fun x => { x with run := .running, feId := some id })

end Sys2Proof.Machine
end

