-- ==== Sys2Proof/Machine/Atomic.lean ====
section
/-!
DEFINITION. Atomics (R112, R249-R252), SHIP (R119, R253) and FENCE (R132, R134, R254).
-/

namespace Sys2Proof.Machine

/-- An AMO: y = g[b] and e = g[d] at issue (R250); the address is g[a], aligned to the size (R249). -/
def amoAcc (f : AmoOp) (h : Hart) (d a b : Reg) (dbl : Bool) (sc : Scope) (o : Ord) : Acc :=
  { kind := .amo f dbl, exts := [{ va := h.gr a, len := if dbl then 8 else 4, pos := 0 }], need := needRW,
    align := if dbl then 8 else 4, span := false, dev := false, wr := true, past := true, scope := sc, acq := o.isAcq, rel := o.isRel,
    dest := some (gRef d), data := 0, whole := false, x := h.gr b, y := h.gr d }

def amo (f : AmoOp) (d a b : Reg) (w dbl : Bool) (sc : Scope) (o : Ord) (s : State) : Out :=
  withRegs [gRef a, gRef b] [gRef d] w s (issue (amoAcc f s.hart d a b dbl sc o) s)

def execAmoAdd (d a b : Reg) (w dbl : Bool) (sc : Scope) (o : Ord) (s : State) : Out := amo .add d a b w dbl sc o s
def execAmoFadd (d a b : Reg) (w dbl : Bool) (sc : Scope) (o : Ord) (s : State) : Out := amo .fadd d a b w dbl sc o s
def execAmoAnd (d a b : Reg) (w dbl : Bool) (sc : Scope) (o : Ord) (s : State) : Out := amo .and d a b w dbl sc o s
def execAmoOr (d a b : Reg) (w dbl : Bool) (sc : Scope) (o : Ord) (s : State) : Out := amo .or d a b w dbl sc o s
def execAmoXor (d a b : Reg) (w dbl : Bool) (sc : Scope) (o : Ord) (s : State) : Out := amo .xor d a b w dbl sc o s
def execAmoMin (d a b : Reg) (w dbl : Bool) (sc : Scope) (o : Ord) (s : State) : Out := amo .min d a b w dbl sc o s
def execAmoMins (d a b : Reg) (w dbl : Bool) (sc : Scope) (o : Ord) (s : State) : Out := amo .mins d a b w dbl sc o s
def execAmoMax (d a b : Reg) (w dbl : Bool) (sc : Scope) (o : Ord) (s : State) : Out := amo .max d a b w dbl sc o s
def execAmoMaxs (d a b : Reg) (w dbl : Bool) (sc : Scope) (o : Ord) (s : State) : Out := amo .maxs d a b w dbl sc o s
def execAmoFmax (d a b : Reg) (w dbl : Bool) (sc : Scope) (o : Ord) (s : State) : Out := amo .fmax d a b w dbl sc o s
def execAmoSwap (d a b : Reg) (w dbl : Bool) (sc : Scope) (o : Ord) (s : State) : Out := amo .swap d a b w dbl sc o s

/-- AMO.CAS also reads g[d], the expected value, before it writes it (R249, R255). -/
def execAmoCas (d a b : Reg) (w dbl : Bool) (sc : Scope) (o : Ord) (s : State) : Out :=
  withRegs [gRef a, gRef b, gRef d] [] w s (issue (amoAcc .cas s.hart d a b dbl sc o) s)

/-- SHIP: c1 = g[b] and c2 = the old g[d] at issue (R253). -/
def shipAcc (h : Hart) (d a b : Reg) (n : BitVec 6) (sc : Scope) (o : Ord) : Acc :=
  { kind := .ship n.toNat, exts := [{ va := h.gr a, len := 8, pos := 0 }], need := needRW.fe', align := 8, span := false, dev := false,
    wr := true, past := true, scope := sc, acq := o.isAcq, rel := o.isRel, dest := some (gRef d), data := 0, whole := false,
    x := h.gr b, y := h.gr d }

/-- The routine table holds an entry (R119). -/
def State.routineValid (s : State) (n : Nat) : Bool := routineSteps (findD n s.routines []) != []

/-- SHIP: the empty-entry check follows every check of R15; the result is asynchronous on every path (R77, R119). -/
def execShip (d a b : Reg) (w : Bool) (n : BitVec 6) (sc : Scope) (o : Ord) (s : State) : Out :=
  withRegs [gRef a, gRef b, gRef d] [] w s
    (access (shipAcc s.hart d a b n sc o) s fun s' ps =>
      if s.routineValid n.toNat then .next (retire (s'.send s'.focus (shipAcc s.hart d a b n sc o) ps))
      else trap (mkTrap cENGINE n.toNat) s')

/-- What a FENCE holds back, and until what (R132, R134): every access numbered below the next one. -/
def fenceHolds (n : Nat) (k : FenceKind) (wide : Bool) : List Hold :=
  let acq : Hold := { upto := n, single := false, reads := true, writes := false, stops := true, stopsWr := false, drop := wide }
  let rel : Hold := { upto := n, single := false, reads := true, writes := true, stops := false, stopsWr := true, drop := false }
  let sc : Hold := { upto := n, single := false, reads := true, writes := true, stops := true, stopsWr := false, drop := wide }
  match k with
  | .acq => [acq]
  | .rel => [rel]
  | .ar => [acq, rel]
  | .sc => [sc]

/-- Scopes at which the L1 and the write-through buffer count (R94). -/
def Scope.wide (sc : Scope) : Bool := sc == .c || sc == .w || sc == .s

/-- FENCE: at .h it orders nothing beyond program order (R134). A fence that releases closes the buffer's entries, and at
.s sends the flushing reads of host writes (R106). -/
def execFence (k : FenceKind) (sc : Scope) (s : State) : Out :=
  if sc = .h then .next (retire s)
  else
    let s1 := s.release s.focus (k != .acq) sc
    .next (retire (s1.mod fun h => { h with holds := h.holds ++ fenceHolds s1.nextId k (Scope.wide sc) }))

end Sys2Proof.Machine
end

