-- ==== Sys2Proof/Machine/Repeat.lean ====
section
/-!
DEFINITION. RPT (R216-R218), the resumption of a repeat (R221, R368), and what a hart does before it fetches its next
instruction.
-/

namespace Sys2Proof.Machine

/-- Fetches and checks n1 + 1 body words from an address for the hart in focus, and goes on with them (R218, step 2). -/
def withBody (base : Word) (n1 count sd sa sb : Nat) (s : State) (k : State → List IWord → Out) : Out :=
  match s.fetchBody s.focus base count sd sa sb (n1 + 1) with
  | (s, .ok ws) => k s ws
  | (s, .error (.fault t)) => trap t s
  | (s, .error _) => waitAt s

/-- RPT: both checks for every captured word come first; the passes are the executions that follow (R218). -/
def execRpt (n1 : BitVec 4) (count : BitVec 8) (sd sa sb : BitVec 2) (s : State) : Out :=
  let pc := s.hart.pc
  if count = 0 then .next (retireTo (pc + BitVec.ofNat 64 (4 * (n1.toNat + 2))) s)
  else
    withBody (pc + 4) n1.toNat count.toNat sd.toNat sa.toNat sb.toNat s fun s ws =>
      .next (s.mod fun h =>
        ({ h with pc := pc + 4, run := .running, misses := [],
                  rpt := some { body := pc + 4, words := ws, n1 := n1.toNat, count := count.toNat, pass := 0, pos := 0, sd := sd.toNat,
                                sa := sa.toNat, sb := sb.toNat } } : Hart).stepMark h false)

/-- The resumption of a repeat by a state word (R220, R221): the words stand from PC - 4 · POS on. -/
def resumeRpt (w : Word) (s : State) : Out :=
  let pos := bits w 28 4
  let base := s.hart.pc - BitVec.ofNat 64 (4 * pos)
  withBody base (bits w 22 4) (bits w 14 8) (bits w 12 2) (bits w 10 2) (bits w 8 2) s fun s ws =>
    .next (s.mod fun h =>
      { h with resume := none, run := .running, misses := [],
               rpt := some { body := base, words := ws, n1 := bits w 22 4, count := bits w 14 8, pass := bits w 32 8, pos := pos,
                             sd := bits w 12 2, sa := bits w 10 2, sb := bits w 8 2 } })

/-- What stands before the next instruction of the hart in focus: the reissue of R67 and R79, then the repeat of R221. -/
def State.duty? (s : State) : Option Out :=
  if s.reissueDue s.focus then some (reissue s)
  else match s.hart.resume with
    | some w => some (resumeRpt w s)
    | none => none

end Sys2Proof.Machine
end

