-- ==== Sys2Proof/Machine/System.lean ====
section
/-!
DEFINITION. The system forms (R322-R331) but HALT: traps and returns, system registers (R211), YIELD, WFE and the
maintenance forms.
-/

namespace Sys2Proof.Machine

/-! ## Traps and returns -/

/-- TRAP: SYSCALL, with the address of the next instruction (R323); in M mode a machine check with the TRAP's own address (R384). -/
def execTrap (code : BitVec 11) (s : State) : Out :=
  .next (s.takeTrap s.focus (mkTrap cSYSCALL code.toNat) (if s.hart.isM then s.hart.pc else s.hart.pc + 4))

/-- BRK: BREAK at its own address (R323). -/
def execBrk (code : BitVec 11) (s : State) : Out := trap (mkTrap cBREAK code.toNat) s

/-- ESC (R325, R357). (DEDUCED: log entry 30.) -/
def execEsc (s : State) : Out :=
  let h := s.hart
  if !h.isU then trap (mkTrap cILLEGAL 0x2A) s
  else if h.sy.stvec.getLsbD 0 then .next (s.mod fun x => { x.escape with misses := [] })
  else .next (s.noHandler s.focus h.sy.epc)

/-- Where a map entry sends a message (R169). -/
def MapEntry.msgRoute (e : MapEntry) : MsgRoute := if e.st = .resident then .sent e.gen else .append

/-- Where a message goes first: by the sender's cached map entry, or the map's (R169). One whose map entry cannot be read is held
(R22). -/
def State.msgRoute (s : State) (src : Option HartId) (dst : TileId) : MsgRoute :=
  match src.bind fun h => find dst.vt (s.tile h.tile).mapCache with
  | some e => e.msgRoute
  | none => if s.entryBad dst then .mapRead else (s.mapEntry dst).msgRoute

/-- The front end reads a map entry: an uncorrectable error in it goes to firmware (R22). -/
def State.readEntry (u : TileId) (s : State) : State :=
  if s.entryBad u && !(s.mapEntry u).bad then s.meetBadEntry u else s

/-- The refused messages of a hart are sent again (R171). -/
def State.resendMsgs (h : HartId) (s : State) : State :=
  let again := fun (m : Sent) => if m.src = some h ∧ m.route = .refused then { m with route := s.msgRoute m.src m.dst } else m
  { s with msgs := s.msgs.map again }

/-- A repeat state that TRET cannot resume (R221). -/
def badRpt (w : Word) : Bool := w.getLsbD 63 && (decide (bits w 14 8 ≤ bits w 32 8) || decide (bits w 22 4 < bits w 28 4))

/-- The reissue of R67 and the resumption of R221 that stand before the instruction at the return address. -/
def Hart.resumeAt (pc rpt : Word) (h : Hart) : Hart :=
  let h := if h.feV then { h.setFe 62 1 1 with feId := if h.fePend then h.feId else none } else h
  { h with pc := pc, run := .running, misses := [], resume := if rpt.getLsbD 63 then some rpt else none }

/-- The status that TRET restores in S and M modes (R357). -/
def sReturn (w : Word) : Word := setBits (setBits (setBits w 0 2 (bits w 6 2)) 4 1 (bits w 5 1)) 8 1 (bits w 10 1)

/-- TRET (R324, R356, R357, R221). (DEDUCED: log entry 30.) In U mode with UIN = 0 it raises reason 0x2B, whatever the repeat state
(DESIGN CHOICE, log entry 93). -/
def execTret (s : State) : Out :=
  let h := s.hart
  if h.isU && !h.uin then trap (mkTrap cILLEGAL 0x2B) s
  else if badRpt h.sy.rptstate then trap (mkTrap cILLEGAL 0x22) s
  else
    let s := s.mod fun x =>
      let y := if x.isU then x.setStatus fun w => setBits w 2 1 0 else x.setStatus sReturn
      (y.resumeAt (if x.isU then x.sy.epc else x.sy.sepc) x.sy.rptstate).stepMark x false
    .next (s.resendMsgs s.focus)

/-! ## System registers -/

/-- Registers of the S level, which U mode neither reads nor writes (R359, R361). (DEDUCED: log entry 23.) -/
def sySupervisor (n : Nat) : Bool := n == 0x06 || (0x08 ≤ n && n ≤ 0x0C)

/-- Registers that are read-only in every mode (R18, R108, R151, R178, R184, R212, R363, R365, R366). (DEDUCED: log entry 23.) -/
def syReadOnly (n : Nat) : Bool := (0x20 ≤ n && n ≤ 0x25) || n == 0x30 || n == 0x31 || n == 0x34 || n == 0x50 || n == 0x51

/-- Registers that U mode reads and does not write (R29, R49, R69, R156, R173, R361). -/
def syUserRead (n : Nat) : Bool := n == 0x04 || n == 0x12 || n == 0x32 || n == 0x33 || n == 0x40 || n == 0x41

/-- Discards an exhausted record: a load's register becomes zero and FULL (R65, R67). -/
def State.discardFe (h : HartId) (s : State) : State :=
  let x := s.hartOf h
  if x.feV && !x.fePend then (s.feDone h).modHart h fun y => y.deliver (feDest x.feKind x.feReg) 0 else s

/-- Writes a system register of a hart. -/
def State.syWrite (h : HartId) (n : Nat) (v : Word) (s : State) : State :=
  match n with
  | 0x00 => s.modHart h fun x => x.setStatus fun w => writeStatus x.isU w v
  | 0x11 => if v.getLsbD 63 then s else s.discardFe h
  | 0x12 => (s.modHart h fun x => x.modSy (Sys.write n v)).modTab h.tile.tab fun x => { x with parkbase := writeParkbase v }
  | 0x15 => s.modHart h fun x => { x with rstack := x.rstack.take (bits v 0 5) }
  | n => s.modHart h fun x => x.modSy (Sys.write n v)

/-- SYR (R326). (DEDUCED: log entry 20.) -/
def execSyr (d : Reg) (sy : BitVec 11) (s : State) : Out :=
  if !syAllocated sy.toNat then trap (mkTrap cILLEGAL 0x20) s
  else withRegs [] [gRef d] false s
    (if s.hart.isU && sySupervisor sy.toNat then trap (mkTrap cPRIV 0) s
    else .next (retire (s.mod fun h => h.setG d (s.syRead s.focus sy.toNat))))

/-- SYW (R326). -/
def execSyw (a : Reg) (w : Bool) (sy : BitVec 11) (s : State) : Out :=
  if !syAllocated sy.toNat then trap (mkTrap cILLEGAL 0x20) s
  else withRegs [gRef a] [] w s
    (if syReadOnly sy.toNat || (s.hart.isU && (sySupervisor sy.toNat || syUserRead sy.toNat)) then trap (mkTrap cPRIV 0) s
    else
      let s1 := s.syWrite s.focus sy.toNat (s.hart.gr a)
      .next (s1.mod fun h => h.advance.stepMark s.hart false))

/-! ## Yielding and sleeping -/

/-- Stops a hart at its boundary: an entry due there comes first (R369). -/
def State.stopHart (h : HartId) (s : State) : State := ((s.boundary h).getD s).modHart h Hart.stop

/-- YIELD (R327). -/
def execYield (s : State) : Out :=
  if s.hart.preqPend then .next ((retire s).stopHart s.focus) else .next (retire s)

/-- WFE (R329). -/
def execWfe (a : Reg) (w : Bool) (s : State) : Out :=
  withRegs [gRef a] [] w s
    (if s.hart.latch then .next (retire (s.mod fun h => { h with latch := false }))
    else
      let limit := (s.hart.gr a).toNat
      .next ((retire s).mod fun h => ({ h with wfeDue := if limit = 0 then none else some (s.now + limit) } : Hart).enter .sleeping))

/-! ## Maintenance (R330, R331) -/

/-- A store of the hart to a line (none for every line) is in the write-through buffer or not acknowledged. -/
def State.unwritten (s : State) (h : HartId) (line : Option Nat) : Bool :=
  let on := fun (va : Word) => match line with
    | some l => bits va 6 42 == l
    | none => true
  ((s.tile h.tile).wbuf.any fun l => on l.va && l.writes.any fun w => decide (w.1 = h)) ||
    s.ops.any fun o => o.kind.storeLike && !(o.nums h).isEmpty && o.parts.any fun p => on p.va

/-- The kind and the address of a maintenance form. -/
def maintKind (x : Word) : Nat := bits x 0 3

/-- Drops TLB entries and walk-cache entries on a tile: of a page, or all (R330). Walks under way start again. -/
def State.dropTlb (t : TileId) (hs : List HartId) (page : Option Nat) (s : State) : State :=
  let stays := fun (e : TlbEntry) => match page with
    | some p => decide (e.base ≠ p * 65536 / 2 ^ e.bits * 2 ^ e.bits)
    | none => false
  hs.foldl (fun s h => s.modHart h fun x => { x with tlb := x.tlb.filter stays, misses := [] })
    (s.modTile t fun x => { x with tlb2 := x.tlb2.filter stays, walkCache := [], walks := [] })

/-- Drops decoded-op lines of a hart: of a 64-byte line, or all (R330). -/
def Hart.dropOps (line : Option Nat) (h : Hart) : Hart :=
  { h with ops := match line with
    | some l => h.ops.filter fun o => o.block / 2 ≠ l
    | none => [] }

/-- What an invalidation does on a tile to some of its harts. -/
def State.invalidate (tlb : Bool) (kind : Nat) (addr : Word) (t : TileId) (hs : List HartId) (s : State) : State :=
  if tlb then s.dropTlb t hs (if kind % 2 = 0 then some (bits addr 16 32) else none)
  else hs.foldl (fun s h => s.modHart h (·.dropOps none)) s

/-- A tableau-wide form: it invalidates its own tile, sends to every other resident tile, and completes when all have
acknowledged (R331). What the tiles that are not resident hold for translations and of decoded ops is dropped with it, so that a gang placed
later starts with no entry (R331); a placement itself drops no decoded op (R394). IC.INV of kind 2 also drops the tableau's cached headers (R390). -/
def wideInv (tlb : Bool) (kind : Nat) (addr : Word) (s : State) : Out :=
  let h := s.focus
  let mine := s.invs.filter fun m => decide (m.src = h) && m.tlb == tlb && m.kind == kind && m.addr == addr
  if mine = [] then
    let s := s.invalidate tlb kind addr h.tile h.tile.harts
    let s := if tlb then s else { s with headers := s.headers.filter fun p => p.1.1 ≠ h.tile.tab }
    let rest := (s.tiles.map (·.1)).filter fun t => t.tab == h.tile.tab && decide (t ≠ h.tile)
    let others := rest.filter s.resident
    let s := (rest.filter fun t => !s.resident t).foldl (fun s t => (s.invalidate true 3 0 t t.harts).invalidate false 2 0 t t.harts) s
    if others = [] then .next (retire s)
    else
      let new := others.zipIdx.map fun p =>
        { id := s.nextId + p.2, tile := p.1, tlb := tlb, kind := kind, addr := addr, src := h, acked := false : InvMsg }
      waitAt { s with invs := s.invs ++ new, nextId := s.nextId + others.length }
  else if mine.all (·.acked) then .next (retire { s with invs := s.invs.filter fun m => m.src ≠ h })
  else waitAt s

/-- A tile takes an invalidation and acknowledges it (R331). -/
def State.takeInv (m : InvMsg) (s : State) : State :=
  if m.acked then s
  else
    let s := s.invalidate m.tlb m.kind m.addr m.tile m.tile.harts
    { s with invs := s.invs.map fun (x : InvMsg) => if x.id = m.id then { x with acked := true } else x }

/-- TLB_INV_REMOTE: a tile takes an invalidation and acknowledges it (R331). (DEDUCED: log entry 27.) (DEDUCED: log entry 35.) -/
def execTlbInvRemote (op : Nat) (s : State) : Out :=
  .next (match s.invs.find? (fun m => m.id == op) with
    | some m => s.takeInv m
    | none => s)

/-- TLB.INV: S and M modes; an unknown kind is ILLEGAL (R322, R330). (DEDUCED: log entry 27.) -/
def execTlbInv (a : Reg) (w : Bool) (s : State) : Out :=
  withRegs [gRef a] [] w s
    (let x := s.hart.gr a
     let kind := maintKind x
     if 3 < kind then trap (mkTrap cILLEGAL 0x20) s
     else if s.hart.isU then trap (mkTrap cPRIV 0) s
     else if kind < 2 then .next (retire (s.invalidate true kind x s.focus.tile [s.focus]))
     else wideInv true kind x s)

/-- IC.INV: first the work of DC.WB kind 1 (R331). (DEDUCED: log entry 35.) -/
def execIcInv (a : Reg) (w : Bool) (s : State) : Out :=
  withRegs [gRef a] [] w s
    (let x := s.hart.gr a
     let kind := maintKind x
     if 2 < kind then trap (mkTrap cILLEGAL 0x20) s
     else if kind = 2 ∧ s.hart.isU then trap (mkTrap cPRIV 0) s
     else if s.unwritten s.focus none then waitAt s
     else if kind = 2 then wideInv false kind x s
     else .next (retire (s.mod (·.dropOps (if kind = 0 then some (bits x 6 42) else none)))))

/-- DC.WB (R330). -/
def execDcWb (a : Reg) (w : Bool) (s : State) : Out :=
  withRegs [gRef a] [] w s
    (let x := s.hart.gr a
     let kind := maintKind x
     if 1 < kind then trap (mkTrap cILLEGAL 0x20) s
     else if s.unwritten s.focus (if kind = 0 then some (bits x 6 42) else none) then waitAt s
     else .next (retire s))

/-- DC.INV: after the DC.WB of its kind, drops the lines of an L1 set, or every line (R330). -/
def execDcInv (a : Reg) (w : Bool) (s : State) : Out :=
  withRegs [gRef a] [] w s
    (let x := s.hart.gr a
     let kind := maintKind x
     if 1 < kind then trap (mkTrap cILLEGAL 0x20) s
     else if s.unwritten s.focus (if kind = 0 then some (bits x 6 42) else none) then waitAt s
     else if kind = 1 then .next (retire (s.dropL1 s.focus.tile))
     else .next (retire (s.modTile s.focus.tile fun t => { t with l1 := t.l1.filter fun l => l.home.key / 64 % 128 ≠ bits x 6 7 })))

end Sys2Proof.Machine
end

