-- ==== Sys2Proof/Machine/Messages.lean ====
section
/-!
DEFINITION. Messages and inboxes (R142, R167-R176, R273-R275), tile faults, and the restart of a hart by a launch record
(R340).
-/

namespace Sys2Proof.Machine

/-! ## The fields of a header (R167) -/

def Msg.dst (m : Msg) : Nat := bits m.header 40 3
def Msg.fe (m : Msg) : Bool := m.header.getLsbD 23
def Msg.nm (m : Msg) : Bool := m.header.getLsbD 22
def Msg.src (m : Msg) : Nat := bits m.header 0 20

/-- A message is eligible for a hart: by DST, and FE equal to LOOP (R168). -/
def Msg.eligible (m : Msg) (h : Hart) (num : BitVec 2) : Bool := (m.dst == num.toNat || m.dst == 4) && m.fe == h.loop

/-- Word i of a payload. -/
def Msg.word (m : Msg) (i : Nat) : Word := BitVec.ofNat 64 (elem m.payload 8 i)

/-! ## Gangs that have work (R174-R176, R347) -/

/-- A record or a tile fault makes an idle gang runnable (R347, R348). -/
def State.makeRunnable (g : GangId) (prio : Nat) (s : State) : State :=
  let s := { s with ostler := { s.ostler with due := true } }
  s.modGang g fun x => if x.sched = .idle then { x with sched := .runnable, prio := prio, readyAt := s.now } else x

/-- A tile fault (R174, R175): recorded with the absent vtile as the faulting one (DEDUCED: log entry 67), or counted while one of the gang is unanswered; under SUMMON the gang becomes
runnable (R176, R348). -/
def State.tileFault (t : TileId) (isMsg : Bool) (s : State) : State :=
  let x := s.gang t.gang
  match x.fault with
  | some (vt, m, n) => s.modGang t.gang fun x => { x with fault := some (vt, m, n + 1) }
  | none =>
    let s := (s.modGang t.gang fun x => { x with fault := some (t.vt, isMsg, 1) })
    let s := { s with ostler := { s.ostler with due := true } }
    match s.tab? t.tab with
    | some b => if b.queueOnly then s else s.makeRunnable t.gang b.lastPrio
    | none => s

/-! ## Restarting a hart (R340) -/

/-- PRIO in the QINFO word of a record (R339). -/
def Msg.prio (m : Msg) : Nat := bits (m.word 7) 16 3

/-- Restarts a halted hart at the runtime loop (R340). -/
def State.restart (h : HartId) (prio : Nat) (s : State) : State :=
  match (s.tab? h.tile.tab).filter (·.alive) with
  | some b =>
    let s := if s.turns.contains h || decide (s.focus = h) then s else { s with turns := s.turns ++ [h] }
    s.modHart h fun x =>
      { ((x.setStatus fun w => setBits (setBits w 23 1 0) 12 1 1).modSy fun y => { y with vshare := BitVec.ofNat 64 (2 * prio + 1) }) with
        pc := b.args.loopEntry, run := .running, stopped := false, live := true, rpt := none, resume := none, wfeDue := none }
  | none => s

/-- The oldest launch record in a tile's inbox for a hart. -/
def Tile.recordFor (t : Tile) (j : BitVec 2) : Option Msg := (t.inbox ++ t.backlog).find? fun m => m.fe && m.dst == j.toNat

/-- A resident tile's halted hart restarts when its inbox holds a record for it (R340, R341). -/
def State.restartFor (h : HartId) (s : State) : State :=
  let x := s.hartOf h
  if s.resident h.tile && x.run == .halted && !x.stopped then
    match (s.tile h.tile).recordFor h.num with
    | some m => s.restart h m.prio
    | none => s
  else s

/-! ## Placing (R168-R171) -/

/-- Follows a placement: latch events (R329) and the restarts of records (R340). -/
def State.placed (t : TileId) (m : Msg) (s : State) : State :=
  let s := t.harts.foldl (fun s h => s.modHart h fun x => if m.eligible x h.num then x.latchEvent else x) s
  if m.fe then t.harts.foldl (fun s h => s.restartFor h) s else s

def State.msg? (s : State) (id : Nat) : Option Sent := s.msgs.find? fun m => m.id == id

def State.setMsg (id : Nat) (r : MsgRoute) (s : State) : State :=
  let f := fun (m : Sent) => if m.id = id then { m with route := r } else m
  { s with msgs := s.msgs.map f }

/-- No earlier message of its sender to its vtile is unplaced: a hart's, or the front end's for the same queue and hart
(R169, R171, R339). -/
def State.first (s : State) (m : Sent) : Bool :=
  !s.msgs.any fun q => decide (q.id < m.id) && decide (q.src = m.src) && decide (q.dst = m.dst) && decide (q.route ≠ .placed) &&
    (m.src.isSome || (q.queue == m.queue && q.msg.dst == m.msg.dst))

/-- The sender's NI, or the front end, reads the map entry of a message's target: one that cannot be read is recorded once and holds the
message until firmware has rewritten it (R22, R24). -/
def State.readForMsg (op : Nat) (m : Sent) (s : State) : State :=
  let e := s.mapEntry m.dst
  if s.entryBad m.dst then (if e.bad then s else s.meetBadEntry m.dst)
  else
    let s := match m.src with
      | some h => s.modTile h.tile fun x => { x with mapCache := mapAdd m.dst.vt e (x.mapCache.filter fun q => q.1 ≠ m.dst.vt) }
      | none => s
    s.setMsg op e.msgRoute

/-- MESSAGE_ARRIVAL: the target's NI places the message in an entry, hands it to the backlog, or answers STALE (R24, R169); the sender's
NI then re-reads the map entry, and one that cannot be read holds the message; a message that stands so is sent when it can be (R22). -/
def execMessageArrival (op : Nat) (s : State) : Out :=
  .next (match s.msg? op with
    | some m =>
      match m.route with
      | .sent gen =>
        if !s.first m then s
        else
          let e := s.mapEntry m.dst
          if e.st = .resident ∧ e.gen = gen then
            let t := s.tile m.dst
            if t.backlog = [] ∧ t.inbox.length < 64 then
              ((s.setTile m.dst { t with inbox := t.inbox ++ [m.msg] }).setMsg op .placed).placed m.dst m.msg
            else s.setMsg op .append
          else s.readForMsg op m
      | .mapRead => s.readForMsg op m
      | _ => s
    | none => s)

/-- Messages in the backlogs of a tableau. -/
def State.carried (s : State) (t : BitVec 16) : Nat :=
  s.tiles.foldl (fun n p => if p.1.tab = t then n + p.2.backlog.length else n) 0

/-- The carrier queue can take one more message: one entry for each hart is held back for wakes (R171). -/
def State.carrierRoom (s : State) (t : BitVec 16) : Bool :=
  match s.tab? t with
  | some x => decide (s.carried t + 4 * (x.args.stages * x.args.gangs * x.args.tiles) < x.args.carrier)
  | none => false

/-- BACKLOG_APPEND: the carrier queue's home appends the message to the backlog, or refuses it (R169-R171); an append for an
absent or leaving gang raises the MESSAGE tile fault (R174). A target that is resident by then, with no backlog and a free entry, takes
it in the entry (R169). A launch record also makes its gang runnable with its queue's priority, whatever the summon policy; a refused one
stays with the front end (R339; DEDUCED, log entry 66). -/
def execBacklogAppend (op : Nat) (s : State) : Out :=
  .next (match s.msg? op with
    | some m =>
      if m.route = .append ∧ s.first m then
        let e := s.mapEntry m.dst
        let t := s.tile m.dst
        if e.st = .resident ∧ t.backlog = [] ∧ t.inbox.length < 64 then
          ((s.setTile m.dst { t with inbox := t.inbox ++ [m.msg] }).setMsg op .placed).placed m.dst m.msg
        else if s.carrierRoom m.dst.tab then
          let s := ((s.modTile m.dst fun t => { t with backlog := t.backlog ++ [m.msg] }).setMsg op .placed).placed m.dst m.msg
          let away := e.st = .absent ∨ (e.st = .settling ∧ !e.dirIn)
          let s := if m.msg.fe ∧ e.st ≠ .resident then s.makeRunnable m.dst.gang m.msg.prio else s
          if away then s.tileFault m.dst true else s
        else
          let s := s.setMsg op .refused
          match m.src with
          | some h => s.modHart h fun x => { x with posted := x.posted ++ [mkTrap cMSGLIMIT m.dst.vt.toNat] }
          | none => s
      else s
    | none => s)

/-- MESSAGE_ACK: the placement's acknowledgement reaches the sender (R170). -/
def execMessageAck (op : Nat) (s : State) : Out :=
  .next (match s.msg? op with
    | some m => if m.route = .placed then { s with msgs := s.msgs.filter fun q => q.id != op } else s
    | none => s)

/-- BACKLOG_MOVE: the oldest backlog message moves into a free entry (R168). -/
def execBacklogMove (t : TileId) (s : State) : Out :=
  .next (
    let x := s.tile t
    match x.backlog with
    | m :: rest =>
      if s.resident t && decide (x.inbox.length < 64) then s.setTile t { x with inbox := x.inbox ++ [m], backlog := rest } else s
    | [] => s)

/-! ## The message forms -/

/-- Messages of a hart sent and not yet placed (R170). -/
def State.unplaced (s : State) (h : HartId) : Nat := (s.msgs.filter fun m => decide (m.src = some h)).length

/-- A release whose scope orders beyond the hart waits for every earlier access of the hart (R131, R134). -/
def State.relPending (s : State) (h : HartId) (sc : Scope) : Bool := decide (sc ≠ .h) && s.pendingOp h true true fun _ => true

/-- MSG.SEND (R273). A miss in the tile-map cache stalls it until the entry arrives (R20). (DEDUCED: log entry 22.) A DST above 4 is ILLEGAL
once both sources are FULL (DESIGN CHOICE, log entry 92). -/
def execMsgSend (a b : Reg) (w : Bool) (o : Ord) (sc : Scope) (s : State) : Out :=
  withRegs [gRef a, vRef b] [] w s
    (let x := s.hart.gr a
     let dst : TileId := { tab := s.focus.tile.tab, vt := x.setWidth 20 }
     if 4 < bits x 40 3 then trap (mkTrap cILLEGAL 0x27) s
     else if !s.validVt dst then trap (mkTrap cPAGE 0x02) s
     else
       match trSlice s s.focus dst.vt 0 0 with
       | .mapMiss vt => waitAt (s.seek s.focus [] [vt])
       | .fault _ => trap (mkTrap cPAGE 0x02) s
       | _ =>
       let s := (s.passHolds s.focus).release s.focus o.isRel sc
       if 16 ≤ s.unplaced s.focus || s.heldBack s.focus true || (o.isRel && s.relPending s.focus sc) then waitAt s
       else
         let header := atBits 40 3 (bits x 40 3) ||| atBits 24 16 (bits x 24 16) ||| atBits 22 1 (b2n s.hart.nm) |||
           atBits 20 2 s.focus.num.toNat ||| atBits 0 20 s.focus.tile.vt.toNat
         let m : Sent :=
           { id := s.nextId, src := some s.focus, queue := 0, dst := dst, msg := { header := header, payload := s.hart.vr b },
             route := s.msgRoute (some s.focus) dst }
         let s := s.modTile s.focus.tile fun x => { x with mapCache := match find dst.vt x.mapCache with
           | some e => mapAdd dst.vt e x.mapCache
           | none => x.mapCache }
         .next (retire { s.fresh with msgs := s.msgs ++ [m] }))

/-- The messages of the entries that are eligible for the hart in focus. -/
def State.eligibles (s : State) : List Msg := (s.tile s.focus.tile).inbox.filter fun m => m.eligible s.hart s.focus.num

/-- The launch that a record belongs to, for a hart it starts: the oldest dispatched one of the queue that QINFO names with the record's
words (R339). (DEDUCED: log entry 28.) -/
def State.launchOf (s : State) (h : HartId) (m : Msg) : Option Launch :=
  (s.queue (BitVec.ofNat 12 (bits (m.word 7) 0 12))).launches.find? fun l =>
    decide (l.state = .dispatched) && l.left.contains h && (l.words.take 6) == (List.range 6).map m.word

/-- What the launch sets when a hart takes its record (R49, R151, R340, R389). -/
def State.takeRecord (h : HartId) (m : Msg) (s : State) : State :=
  let s := s.modHart h fun x => { x with liveSet := BitVec.ofNat 4 (bits (m.word 4) 0 4) }
  match s.launchOf h m with
  | some l =>
    match l.header with
    | some d => s.modHart h fun x =>
        { x.modSy fun y => { y with flimit := atBits 6 42 (bits d.cend 6 42) } with launch := some l.id, major := d.major, minor := d.minor }
    | none => s.modHart h fun x => { x with launch := some l.id }
  | none => s

/-- A value on its way to a register, already read (R77). -/
def arrival (id : Nat) (h : HartId) (d : RegRef) (v : VWord) : MemOp :=
  { id := id, hart := h, kind := .vload, rel := false, dest := some d, val := v, x := 0, y := 0, parts := [], sched := (0, 0, 0), who := [] }

/-- MSG.RECV (R274, R172). (DEDUCED: log entry 28.) -/
def execMsgRecv (d b : Reg) (o : Ord) (sc : Scope) (s : State) : Out :=
  withRegs [] [gRef b, vRef d] false s
    (let s := s.passHolds s.focus
     match s.eligibles with
     | [] => waitAt s
     | m :: _ =>
       if s.heldBack s.focus false then waitAt s
       else if m.nm != s.hart.nm && !s.hart.nmskip then
         trap (mkTrap cNAN m.src) (s.mod fun h => h.setStatus fun w => setBits w 9 1 1)
       else
         let n := s.nextId
         let s1 := s.modTile s.focus.tile fun t => { t with inbox := t.inbox.erase m }
         let s2 := if o.isAcq && Scope.wide sc then s1.dropL1 s.focus.tile else s1
         let s3 := if m.fe then s2.takeRecord s.focus m else s2
         let s4 := { s3 with nextId := n + 2, ops := s3.ops ++
           [arrival n s.focus (vRef d) m.payload, arrival (n + 1) s.focus (gRef b) (BitVec.ofNat 512 (bits m.header 0 43))] }
         .next (retire (s4.mod fun h =>
           (((h.setStatus fun w => setBits w 9 1 0).markEmpty (some (vRef d))).markEmpty (some (gRef b))))))

/-- Messages of the inbox, entries and backlog, that are eligible for the hart in focus (R275). -/
def State.msgCount (s : State) : Nat :=
  s.eligibles.length + ((s.tile s.focus.tile).backlog.filter fun m => m.eligible s.hart s.focus.num).length

/-- MSG.POLL (R275). -/
def execMsgPoll (d : Reg) (s : State) : Out :=
  withRegs [] [gRef d] false s
    (.next (retire (s.mod fun h => h.setG d
      (match s.eligibles with
       | m :: _ => atBits 63 1 1 ||| atBits 48 15 (Nat.min s.msgCount 32767) ||| atBits 0 43 (bits m.header 0 43)
       | [] => atBits 48 15 (Nat.min s.msgCount 32767)))))

/-- MSG.CNT (R275). -/
def execMsgCnt (d : Reg) (s : State) : Out :=
  withRegs [] [gRef d] false s (.next (retire (s.mod fun h => h.setG d (BitVec.ofNat 64 s.msgCount))))

end Sys2Proof.Machine
end

