-- ==== Sys2Proof/Machine/Barriers.lean ====
section
/-!
DEFINITION. Barriers (R143, R144, R177-R182, R276-R278). A member of the current phase p has phase number p - 1 until it
arrives and p after; one that joins during p has p until its first arrival, which counts for p + 1 (R276, R278).
-/

namespace Sys2Proof.Machine

def Hart.bar (h : Hart) (g : BitVec 4) : HartBar := findD g h.bars HartBar.reset
def Hart.modBar (g : BitVec 4) (f : HartBar → HartBar) (h : Hart) : Hart := { h with bars := put g (f (h.bar g)) h.bars }

def State.group (s : State) (t : BitVec 16) (g : BitVec 4) : Group :=
  match s.tab? t with
  | some x => findD g x.state Group.reset
  | none => Group.reset

def State.modGroup (t : BitVec 16) (g : BitVec 4) (f : Group → Group) (s : State) : State :=
  s.modTab t fun x => { x with state := put g (f (findD g x.state Group.reset)) x.state }

/-- The hart lies in the declared box and mask of a group (R178). -/
def GroupDecl.covers (d : GroupDecl) (h : HartId) : Bool :=
  let v := h.tile.vt.toNat
  decide (d.s0 ≤ v / 65536 ∧ v / 65536 ≤ d.s1) && decide (d.n0 ≤ v / 64 % 1024 ∧ v / 64 % 1024 ≤ d.n1) &&
    decide (d.t0 ≤ v % 64 ∧ v % 64 ≤ d.t1) && d.hmask.getLsbD h.num.toNat

def State.inGroup (s : State) (h : HartId) (g : BitVec 4) : Bool :=
  match (s.tab? h.tile.tab).bind fun x => find g x.groups with
  | some d => d.covers h
  | none => false

/-! ## Passing a phase -/

/-- The harts of a tableau that a group concerns: its members, and those that left it in the current phase. -/
def State.barHarts (s : State) (t : BitVec 16) (g : BitVec 4) : List HartId :=
  (s.harts.filter fun p => p.1.tile.tab == t && ((p.2.bar g).member || !(p.2.bar g).passed)).map (·.1)

/-- A hart has nothing left to do for phase p. -/
def HartBar.doneFor (p : BitVec 32) (b : HartBar) : Bool := b.sent && b.phase != p - 1

/-- Every member has arrived for the current phase (R179). -/
def State.phaseDone (s : State) (t : BitVec 16) (g : BitVec 4) : Bool :=
  let hs := s.barHarts t g
  hs != [] && hs.all fun h => ((s.hartOf h).bar g).doneFor (s.group t g).phase

/-- The phase of the hart's last arrival has passed, as the hart has been told (R277). -/
def HartBar.over (b : HartBar) : Bool := b.passed || decide ((b.seen - b.phase).toNat < 2 ^ 31)

/-- The release of the phases up to p reaches a hart (R180, R182, R329). -/
def State.tellPhase (h : HartId) (g : BitVec 4) (p : BitVec 32) (s : State) : State :=
  s.modHart h fun x =>
    let b := x.bar g
    let x := x.modBar g fun b => { b with seen := p }
    if b.member && !b.over && (x.bar g).over then x.latchEvent else x

/-- The current phase passes; a hart that left in it has arrived for it, is done with the group and has its latch event (R179, R278,
R329). -/
def State.passPhase (t : BitVec 16) (g : BitVec 4) (s : State) : State :=
  let leavers := (s.barHarts t g).filter fun h => !((s.hartOf h).bar g).member
  leavers.foldl (fun s h => s.modHart h fun x => (x.modBar g fun b => { b with passed := true }).latchEvent)
    (s.modGroup t g fun x => { x with phase := x.phase + 1 })

/-- PHASE_PASS: a wired group's tree releases the phase to every member (R180). -/
def execPhasePass (tab : BitVec 16) (grp : BitVec 4) (s : State) : Out :=
  .next (if (s.group tab grp).plane.isSome && s.phaseDone tab grp then
      let p := (s.group tab grp).phase
      let s := s.passPhase tab grp
      (s.barHarts tab grp).foldl (fun s h => s.tellPhase h grp p) s
    else s)

/-- An extended group's record passes the phase with its last arrival (R181). -/
def State.extendedCheck (t : BitVec 16) (g : BitVec 4) (s : State) : State :=
  if (s.group t g).plane.isNone && s.phaseDone t g then s.passPhase t g else s

/-- EXTENDED_ARRIVAL: an arrival is performed at the record's home (R181). -/
def execExtendedArrival (h : HartId) (grp : BitVec 4) (s : State) : Out :=
  .next (if ((s.hartOf h).bar grp).sent then s
    else (s.modHart h fun x => x.modBar grp fun b => { b with sent := true }).extendedCheck h.tile.tab grp)

/-- EXTENDED_RELEASE: the release of the last passed phase reaches a resident member (R182). -/
def execExtendedRelease (h : HartId) (grp : BitVec 4) (s : State) : Out :=
  .next (
    let p := (s.group h.tile.tab grp).phase - 1
    if s.resident h.tile && ((s.hartOf h).bar grp).seen != p then s.tellPhase h grp p else s)

/-! ## Planes (R177, R180) -/

/-- Takes a group's plane back: it runs extended from its recorded arrivals (R180-R182). -/
def State.takePlane (t : BitVec 16) (g : BitVec 4) (s : State) : State :=
  (s.modGroup t g fun x => { x with plane := none }).extendedCheck t g

/-- The physical tiles of a group's members. -/
def State.groupPlaces (s : State) (t : BitVec 16) (b : BitVec 4) : List Nat :=
  ((s.harts.filter fun p => p.1.tile.tab == t && (p.2.bar b).member).map fun p => (s.mapEntry p.1.tile).ptile).eraseDups

/-- The corner and size of the block of a level that holds a tile (R177). -/
def blockOf (level p : Nat) : Nat × Nat := (p % 112 / 2 ^ ((level + 1) / 2), p / 112 / 2 ^ (level / 2))

/-- The level of the lowest node whose block holds every one of some tiles. -/
def rootLevel (ps : List Nat) : Nat :=
  ((List.range 15).find? fun l => match ps with
    | p :: rest => rest.all fun q => blockOf l q == blockOf l p
    | [] => true).getD 14

/-- Another group on the plane has a member in the block of a group's root, so that a node there serves it. -/
def State.planeBusy (s : State) (t : BitVec 16) (b : BitVec 4) (plane : BitVec 3) : Bool :=
  let ps := s.groupPlaces t b
  let l := rootLevel ps
  let mine := (ps.map (blockOf l)).headD (0, 0)
  s.tabs.any fun x => x.2.state.any fun g => g.2.plane == some plane && !(x.1 == t && g.1 == b) &&
    (s.groupPlaces x.1 g.1).any fun p => blockOf l p == mine

/-- The plane of a group that a join has widened goes back when a node of it would then serve two groups (R177, R180; DESIGN CHOICE, log
entry 73: the spec does not say which group gives way). -/
def State.keepOrTakePlane (t : BitVec 16) (b : BitVec 4) (s : State) : State :=
  match (s.group t b).plane with
  | some i => if s.planeBusy t b i then s.takePlane t b else s
  | none => s

/-! ## The forms -/

/-- The hart in focus is a member (R276). -/
def asMember (grp : BitVec 4) (s : State) (k : Out) : Out :=
  if (s.hart.bar grp).member then k else trap (mkTrap cILLEGAL 0x28) s

/-- An arrival waits until it may be made: it is a release at .w (R131, R277). -/
def State.arriveWaits (s : State) : Bool := s.heldBack s.focus true || s.relPending s.focus .w

/-- What an arrival does as a release before it is made (R134). -/
def State.arriving (s : State) : State := (s.passHolds s.focus).release s.focus true .w

/-- Records the hart's arrival for its next phase: at once on a plane, else on its way to the record (R180, R181). -/
def State.arrive (grp : BitVec 4) (s : State) : State :=
  let wired := (s.group s.focus.tile.tab grp).plane.isSome
  s.mod fun h => h.modBar grp fun b => { b with phase := b.phase + 1, passed := false, sent := wired, faulted := [] }

/-- Completes a BAR form that passes: PASSED = 1 and an acquire at .w (R277). -/
def passed (grp : BitVec 4) (s : State) : State :=
  (s.mod fun h => h.modBar grp fun b => { b with passed := true, faulted := [] }).dropL1 s.focus.tile

/-- The hart's last arrival was for a phase before p, in the order of the numbers modulo 2^32. -/
def HartBar.behind (p : BitVec 32) (b : HartBar) : Bool := decide ((p - 1 - b.phase).toNat < 2 ^ 31)

/-- Absent members that have not arrived for the phase p that the hart waits on (R174): those whose gang is not RESIDENT, be it for p
itself or, where the hart joined in mid-phase, for the one before it. (DEDUCED: log entry 66.) -/
def State.absentees (s : State) (grp : BitVec 4) (p : BitVec 32) : List HartId :=
  (s.barHarts s.focus.tile.tab grp).filter fun h =>
    let b := (s.hartOf h).bar grp
    !s.resident h.tile && b.member && b.behind p

/-- Waits in BAR.WAIT or BAR.SS; a block on an absent member raises the tile fault of its gang (R174, R182), once for each gang that is
absent while the block stands. -/
def barBlock (grp : BitVec 4) (s : State) : Out :=
  let b := s.hart.bar grp
  let gone := (s.absentees grp b.phase).foldl (fun (ts : List TileId) h => if ts.any (fun t => t.gang = h.tile.gang) then ts else ts ++ [h.tile]) []
  waitAt ((gone.filter fun t => !b.faulted.contains t.gang).foldl (fun s t => s.tileFault t false)
    (s.mod fun h => h.modBar grp fun b => { b with faulted := gone.map (·.gang) }))

/-- The waiting half of BAR.WAIT and BAR.SS. -/
def barWait (grp : BitVec 4) (s : State) : Out :=
  let s := s.passHolds s.focus
  if (s.hart.bar grp).passed then .next (retire s)
  else if (s.hart.bar grp).over then
    if s.heldBack s.focus false then waitAt s else .next (retire (passed grp s))
  else barBlock grp s

/-- BAR.ARR (R277, R179). -/
def execBarArr (grp : BitVec 4) (s : State) : Out :=
  asMember grp s
    (if !(s.hart.bar grp).passed then waitAt s
     else
       let s := s.arriving
       if s.arriveWaits then waitAt s else .next (retire (s.arrive grp)))

/-- BAR.WAIT (R277). -/
def execBarWait (grp : BitVec 4) (s : State) : Out := asMember grp s (barWait grp s)

/-- BAR.TEST (R277). -/
def execBarTest (d : Reg) (grp : BitVec 4) (s : State) : Out :=
  asMember grp s (withRegs [] [gRef d] false s
    (let b := s.hart.bar grp
     let v := BitVec.ofNat 64 (b.phase.toNat * 65536 + b2n b.over)
     let s := if b.over then passed grp s else s
     .next (retire (s.mod (·.setG d v)))))

/-- BAR.SS (R277, R144, R415). -/
def execBarSs (grp : BitVec 4) (s : State) : Out :=
  asMember grp s
    (let s := s.passHolds s.focus
     if s.unplaced s.focus ≠ 0 then waitAt s
     else if (s.hart.bar grp).passed then
       let s := s.arriving
       if s.arriveWaits then waitAt s else barBlock grp (s.arrive grp)
     else barWait grp s)

/-- BAR.CFG (R278). A join may widen the tree of a wired group (State.keepOrTakePlane). A hart that leaves before it has arrived for the current phase arrives with the change, as a release. (DEDUCED: log entry 29.) -/
def execBarCfg (a : Reg) (w : Bool) (grp : BitVec 4) (s : State) : Out :=
  if !s.inGroup s.focus grp then trap (mkTrap cILLEGAL 0x28) s
  else withRegs [gRef a] [] w s
    (let s := s.passHolds s.focus
     let join := (s.hart.gr a).getLsbD 0
     let b := s.hart.bar grp
     let g := s.group s.focus.tile.tab grp
     if join = b.member then .next (retire s)
     else if join then
       .next (retire ((s.mod fun h => h.modBar grp fun _ =>
         { member := true, phase := g.phase, passed := true, sent := true, seen := g.phase - 1, faulted := [] }).keepOrTakePlane
           s.focus.tile.tab grp))
     else if b.phase = g.phase - 1 then
       let s := s.arriving
       if s.arriveWaits then waitAt s
       else
         .next (retire (s.mod fun h => h.modBar grp fun b =>
           { b with member := false, phase := g.phase, passed := false, sent := g.plane.isSome }))
     else .next (retire (s.mod fun h => h.modBar grp fun b =>
       { b with member := false, passed := b.passed || b.phase != g.phase })))

end Sys2Proof.Machine
end

