-- ==== Sys2Proof/Machine/Control.lean ====
section
/-!
DEFINITION. Branches, jumps and the return stack (R214, R215, R234-R238).
-/

namespace Sys2Proof.Machine

/-- The target of a branch or jump: PC + offset · 4 (R234, R235). -/
def target (pc : Word) (off : Word) : Word := pc + off <<< 2

/-- A branch (R234). -/
def branch (c : Word → Word → Bool) (a b : Reg) (w : Bool) (off : BitVec 15) (s : State) : Out :=
  withRegs [gRef a, gRef b] [] w s
    (.next (if c (s.hart.gr a) (s.hart.gr b) then retireTo (target s.hart.pc (off.signExtend 64)) s else retire s))

def execBeq (a b : Reg) (w : Bool) (o : BitVec 15) (s : State) : Out := branch (· == ·) a b w o s
def execBne (a b : Reg) (w : Bool) (o : BitVec 15) (s : State) : Out := branch (· != ·) a b w o s
def execBlt (a b : Reg) (w : Bool) (o : BitVec 15) (s : State) : Out := branch (fun x y => x.ult y) a b w o s
def execBge (a b : Reg) (w : Bool) (o : BitVec 15) (s : State) : Out := branch (fun x y => !x.ult y) a b w o s
def execBlts (a b : Reg) (w : Bool) (o : BitVec 15) (s : State) : Out := branch (fun x y => x.slt y) a b w o s
def execBges (a b : Reg) (w : Bool) (o : BitVec 15) (s : State) : Out := branch (fun x y => !x.slt y) a b w o s

/-- JMP (R235). -/
def execJmp (off : BitVec 25) (s : State) : Out := .next (retireTo (target s.hart.pc (off.signExtend 64)) s)

/-! ## The return stack (R214) -/

def rsDepth (w : Word) : Nat := bits w 48 16
/-- The field PTR of SY.RSPILL (R215). -/
def rsPtr (w : Word) : Nat := bits w 3 45
/-- SY.RSPILL of a depth and a PTR, of which the field holds 45 bits (R215; DEDUCED, log entry 69). -/
def rsWord (depth ptr : Nat) : Word := atBits 48 16 depth ||| atBits 3 45 ptr
/-- The address PTR · 8 of a spill word (R214). -/
def rsAddr (ptr : Nat) : Word := BitVec.ofNat 64 (ptr * 8)

/-- A plain ST.D of the hart. -/
def plainStore (va data : Word) : Acc :=
  { kind := .store, exts := [{ va := va, len := 8, pos := 0 }], need := needW, align := 1, span := false, dev := false, wr := true,
    past := false, scope := .w, acq := false, rel := false, dest := none, data := data.setWidth 512, whole := true, x := 0, y := 0 }

/-- A plain LD.D whose value no register takes: a refill. -/
def plainLoad (va pc : Word) : Acc :=
  { kind := .load 8 false, exts := [{ va := va, len := 8, pos := 0 }], need := needR, align := 1, span := false, dev := false, wr := false,
    past := false, scope := .w, acq := false, rel := false, dest := none, data := 0, whole := false, x := pc, y := va }

def pushRet (ret : Word) (h : Hart) : Hart := { h with rstack := h.rstack ++ [ret] }

/-- Pushes the address of the next instruction, spilling the oldest entry to PTR · 8 when all 16 are held, and jumps: 8 is added to PTR, so
entries stand 64 bytes apart (R214). -/
def call (dst : Word) (s : State) : Out :=
  let h := s.hart
  if h.rstack.length < 16 then .next (retireTo dst (s.mod (pushRet (h.pc + 4))))
  else
    let a := plainStore (rsAddr (rsPtr h.sy.rspill)) (h.rstack.headD 0)
    access a s fun s ps =>
      .next (retireTo dst ((s.send s.focus a ps).mod fun x =>
        pushRet (h.pc + 4) { (x.modSy fun y => { y with rspill := rsWord (rsDepth y.rspill + 1) (rsPtr y.rspill + 8) }) with
          rstack := x.rstack.drop 1 }))

/-- A spill would overflow DEPTH (R214). -/
def Hart.spillFull (h : Hart) : Bool := decide (16 ≤ h.rstack.length) && rsDepth h.sy.rspill == 65535

def execCall (off : BitVec 25) (s : State) : Out :=
  if s.hart.spillFull then trap (mkTrap cILLEGAL 0x24) s else call (target s.hart.pc (off.signExtend 64)) s

/-- JR: a target not aligned to 4 raises ALIGN precisely (R236). -/
def execJr (a : Reg) (w : Bool) (s : State) : Out :=
  withRegs [gRef a] [] w s
    (if (s.hart.gr a).toNat % 4 ≠ 0 then trap (mkTrapAt cALIGN 0 (s.hart.gr a)) s else .next (retireTo (s.hart.gr a) s))

def execCallr (a : Reg) (w : Bool) (s : State) : Out :=
  if s.hart.spillFull then trap (mkTrap cILLEGAL 0x24) s
  else withRegs [gRef a] [] w s
    (if (s.hart.gr a).toNat % 4 ≠ 0 then trap (mkTrapAt cALIGN 0 (s.hart.gr a)) s else call (s.hart.gr a) s)

/-- The refill load that a RET of the focused hart has in flight, for this word and address. -/
def State.refill (s : State) (va : Word) : Option MemOp :=
  s.ops.find? fun o => decide (o.hart = s.focus) && o.kind == .load 8 false && o.dest.isNone && o.x == s.hart.pc && o.y == va

/-- RET: pops, refilling from memory at PTR · 8, PTR being 8 less, when no entry is held; it waits for the refill, and a fault or POISON of it is precise
at the RET with nothing changed (R214). -/
def execRet (s : State) : Out :=
  let h := s.hart
  match h.rstack.getLast? with
  | some ra => .next (retireTo ra (s.mod fun x => { x with rstack := x.rstack.dropLast }))
  | none =>
    let depth := rsDepth h.sy.rspill
    if depth = 0 then trap (mkTrap cILLEGAL 0x23) s
    else
      let ptr := (rsPtr h.sy.rspill + 2 ^ 45 - 8) % 2 ^ 45
      let va := rsAddr ptr
      match s.refill va with
      | none => access (plainLoad va h.pc) s fun s ps => waitAt (s.send s.focus (plainLoad va h.pc) ps)
      | some o =>
        if o.over then
          match o.poisoned with
          | some va => trap (mkTrapAt cPOISON 0 va) (s.dropOp o.id)
          | none =>
            .next (retireTo (o.val.setWidth 64) ((s.dropOp o.id).mod fun x =>
              x.modSy fun y => { y with rspill := rsWord (depth - 1) ptr }))
        else waitAt s

end Sys2Proof.Machine
end

