-- ==== Sys2Proof/Machine/Crypto.lean ====
section
/-!
DEFINITION. The ciphers the spec names: AES-128 of FIPS 197 for VRAND (R267), AES-256-XTS of IEEE 1619 for the bonded die (R98), and
KMAC256 of NIST SP 800-185 over Keccak-f[1600]
of FIPS 202 for state-image tags (R313).
-/

namespace Sys2Proof.Machine

/-! ## AES-128 (FIPS 197) -/

/-- Multiplication by x in GF(2^8) modulo x^8 + x^4 + x^3 + x + 1. -/
def gfDouble (a : Nat) : Nat := if a < 128 then 2 * a else (2 * a - 256) ^^^ 0x1B

/-- Multiplication in GF(2^8) over the bits of b. -/
def gfMul : Nat → Nat → Nat → Nat
  | 0, _, _ => 0
  | n + 1, a, b => (if b % 2 = 1 then a else 0) ^^^ gfMul n (gfDouble a) (b / 2)

/-- a^254: the inverse of a nonzero element, and zero for zero. -/
def gfInv (a : Nat) : Nat :=
  let m := gfMul 8
  let a2 := m a a
  let a4 := m a2 a2
  let a8 := m a4 a4
  let a16 := m a8 a8
  let a32 := m a16 a16
  let a64 := m a32 a32
  let a128 := m a64 a64
  m (m (m a2 a4) (m a8 a16)) (m (m a32 a64) a128)

/-- A byte rotated left. -/
def rotByte (x n : Nat) : Nat := (x * 2 ^ n) % 256 + x / 2 ^ (8 - n)

/-- The S-box. -/
def sbox (a : Nat) : Nat :=
  let b := gfInv a
  b ^^^ rotByte b 1 ^^^ rotByte b 2 ^^^ rotByte b 3 ^^^ rotByte b 4 ^^^ 0x63

def xorBytes (a b : List Nat) : List Nat := List.zipWith (· ^^^ ·) a b

/-- The next round key: four words of four bytes. -/
def nextKey (rcon : Nat) (k : List Nat) : List Nat :=
  let w := fun i => (k.drop (4 * i)).take 4
  let t := ((w 3).drop 1 ++ (w 3).take 1).map sbox
  let w0 := xorBytes (xorBytes (w 0) t) [rcon, 0, 0, 0]
  let w1 := xorBytes (w 1) w0
  let w2 := xorBytes (w 2) w1
  w0 ++ w1 ++ w2 ++ xorBytes (w 3) w2

/-- ShiftRows on 16 bytes in column order. -/
def shiftRows (st : List Nat) : List Nat := (List.range 16).map fun i => st.getD ((i + 4 * (i % 4)) % 16) 0

/-- MixColumns on one column. -/
def mixColumn (c : List Nat) : List Nat :=
  (List.range 4).map fun r =>
    let x := fun j => c.getD ((r + j) % 4) 0
    gfDouble (x 0) ^^^ gfDouble (x 1) ^^^ x 1 ^^^ x 2 ^^^ x 3

def mixColumns (st : List Nat) : List Nat := (List.range 4).flatMap fun c => mixColumn ((st.drop (4 * c)).take 4)

/-- Rounds n down to the last, which mixes no columns. -/
def aesRounds : Nat → Nat → List Nat → List Nat → List Nat
  | 0, _, _, st => st
  | n + 1, rcon, key, st =>
    let key := nextKey rcon key
    let st := shiftRows (st.map sbox)
    aesRounds n (gfDouble rcon) key (xorBytes (if n = 0 then st else mixColumns st) key)

/-- AES-128 of a block of 16 bytes. -/
def aes128 (key block : List Nat) : List Nat := aesRounds 10 1 key (xorBytes block key)

/-- The n bytes of a number, lowest first. -/
def natBytes : Nat → Nat → List Nat
  | 0, _ => []
  | n + 1, v => v % 256 :: natBytes n (v / 256)

def bytesNat : List Nat → Nat
  | [] => 0
  | b :: bs => b + 256 * bytesNat bs

/-- VRAND: four blocks of the counter mode of R267. -/
def vrand (a b : VWord) : VWord :=
  let key := natBytes 16 (a.toNat % 2 ^ 128)
  let block := fun i => bytesNat (aes128 key (natBytes 16 ((b.toNat + i) % 2 ^ 128)))
  BitVec.ofNat 512 (block 0 + 2 ^ 128 * (block 1 + 2 ^ 128 * (block 2 + 2 ^ 128 * block 3)))

/-! ## AES-256 (FIPS 197) and XTS (IEEE 1619) -/

/-- The next eight words of a 256-bit key schedule. -/
def nextKey256 (rcon : Nat) (k : List Nat) : List Nat :=
  let w := fun i => (k.drop (4 * i)).take 4
  let t := ((w 7).drop 1 ++ (w 7).take 1).map sbox
  let w0 := xorBytes (xorBytes (w 0) t) [rcon, 0, 0, 0]
  let w1 := xorBytes (w 1) w0
  let w2 := xorBytes (w 2) w1
  let w3 := xorBytes (w 3) w2
  let w4 := xorBytes (w 4) (w3.map sbox)
  let w5 := xorBytes (w 5) w4
  let w6 := xorBytes (w 6) w5
  w0 ++ w1 ++ w2 ++ w3 ++ w4 ++ w5 ++ w6 ++ xorBytes (w 7) w6

/-- Pairs of round keys from a key on. -/
def roundKeys256 : Nat → Nat → List Nat → List (List Nat)
  | 0, _, _ => []
  | n + 1, rcon, k => k.take 16 :: k.drop 16 :: roundKeys256 n (gfDouble rcon) (nextKey256 rcon k)

/-- The 15 round keys of a 256-bit key. -/
def keys256 (key : List Nat) : List (List Nat) := (roundKeys256 8 1 key).take 15

/-- The rounds under the keys left; the last mixes no columns. -/
def encRounds : List (List Nat) → List Nat → List Nat
  | [], st => st
  | k :: ks, st =>
    let st := shiftRows (st.map sbox)
    encRounds ks (xorBytes (if ks.isEmpty then st else mixColumns st) k)

/-- AES-256 of a block of 16 bytes under its round keys. -/
def aes256 (ks : List (List Nat)) (block : List Nat) : List Nat := encRounds (ks.drop 1) (xorBytes block (ks.headD []))

/-- The inverse of the S-box. -/
def invSbox (b : Nat) : Nat := gfInv (rotByte b 1 ^^^ rotByte b 3 ^^^ rotByte b 6 ^^^ 0x05)

def invShiftRows (st : List Nat) : List Nat := (List.range 16).map fun i => st.getD ((i + 12 * (i % 4)) % 16) 0

/-- The inverse of MixColumns on one column: MixColumns three times, its fourth power being the identity. -/
def invMixColumns (st : List Nat) : List Nat := mixColumns (mixColumns (mixColumns st))

/-- The inverse rounds, from the keys in falling order. -/
def decRounds : List (List Nat) → List Nat → List Nat
  | [], st => st
  | k :: ks, st =>
    let st := xorBytes ((invShiftRows st).map invSbox) k
    decRounds ks (if ks.isEmpty then st else invMixColumns st)

/-- The inverse of AES-256. -/
def unaes256 (ks : List (List Nat)) (block : List Nat) : List Nat :=
  decRounds (ks.reverse.drop 1) (xorBytes block (ks.reverse.headD []))

/-- The tweak multiplied by the primitive element, as a little-endian number of 128 bits. -/
def tweakDouble (t : Nat) : Nat := if t < 2 ^ 127 then 2 * t else (2 * t - 2 ^ 128) ^^^ 0x87

/-- The blocks of a data unit under a block cipher and the tweaks from one on. -/
def xtsBlocks (f : List Nat → List Nat) : Nat → Nat → List Nat → List Nat
  | 0, _, _ => []
  | n + 1, t, bs =>
    let m := natBytes 16 t
    xorBytes (f (xorBytes (bs.take 16) m)) m ++ xtsBlocks f n (tweakDouble t) (bs.drop 16)

/-- AES-256-XTS of a 64-byte data unit under a pair of keys and a tweak (R98). -/
def xtsEncrypt (k1 k2 : List Nat) (tweak : Nat) (bs : List Nat) : List Nat :=
  xtsBlocks (aes256 (keys256 k1)) 4 (bytesNat (aes256 (keys256 k2) (natBytes 16 tweak))) bs

/-- Its inverse. -/
def xtsDecrypt (k1 k2 : List Nat) (tweak : Nat) (bs : List Nat) : List Nat :=
  xtsBlocks (unaes256 (keys256 k1)) 4 (bytesNat (aes256 (keys256 k2) (natBytes 16 tweak))) bs

/-! ## Keccak-f[1600] (FIPS 202) -/

def rotl64 (v n : Nat) : Nat := (v * 2 ^ n) % 2 ^ 64 + v / 2 ^ (64 - n)

/-- The round constants. -/
def keccakRC : List Nat :=
  [0x0000000000000001, 0x0000000000008082, 0x800000000000808A, 0x8000000080008000, 0x000000000000808B, 0x0000000080000001,
   0x8000000080008081, 0x8000000000008009, 0x000000000000008A, 0x0000000000000088, 0x0000000080008009, 0x000000008000000A] ++
  [0x000000008000808B, 0x800000000000008B, 0x8000000000008089, 0x8000000000008003, 0x8000000000008002, 0x8000000000000080,
   0x000000000000800A, 0x800000008000000A, 0x8000000080008081, 0x8000000000008080, 0x0000000080000001, 0x8000000080008008]

/-- The rotation of lane x + 5 y. -/
def keccakRot : List Nat :=
  [0, 1, 62, 28, 27, 36, 44, 6, 55, 20, 3, 10, 43, 25, 39, 41, 45, 15, 21, 8, 18, 2, 61, 56, 14]

/-- One round on the 25 lanes. -/
def keccakRound (a : List Nat) (rc : Nat) : List Nat :=
  let l := fun i => a.getD i 0
  let c := (List.range 5).map fun x => l x ^^^ l (x + 5) ^^^ l (x + 10) ^^^ l (x + 15) ^^^ l (x + 20)
  let d := (List.range 5).map fun x => c.getD ((x + 4) % 5) 0 ^^^ rotl64 (c.getD ((x + 1) % 5) 0) 1
  let t := (List.range 25).map fun i => rotl64 (l i ^^^ d.getD (i % 5) 0) (keccakRot.getD i 0)
  -- lane (x, y) of the next state is lane (x + 3 y, x) of t
  let b := (List.range 25).map fun i => t.getD ((i % 5 + 3 * (i / 5)) % 5 + 5 * (i % 5)) 0
  let n := (List.range 25).map fun i =>
    let row := 5 * (i / 5)
    let p := b.getD (row + (i + 1) % 5) 0
    b.getD i 0 ^^^ ((2 ^ 64 - 1 - p) &&& b.getD (row + (i + 2) % 5) 0)
  match n with
  | x :: rest => (x ^^^ rc) :: rest
  | [] => []

def keccakF (a : List Nat) : List Nat := keccakRC.foldl keccakRound a

/-- Absorbs whole blocks of 136 bytes. -/
def absorb : Nat → List Nat → List Nat → List Nat
  | 0, _, a => a
  | n + 1, data, a =>
    let blk := (List.range 17).map fun i => bytesNat ((data.drop (8 * i)).take 8)
    absorb n (data.drop 136) (keccakF ((List.range 25).map fun i => a.getD i 0 ^^^ blk.getD i 0))

/-- The sponge of capacity 512 with a domain suffix: the first n bytes, n at most 136. -/
def sponge (suffix : Nat) (data : List Nat) (n : Nat) : List Nat :=
  let pad := 136 - data.length % 136
  let tail := if pad = 1 then [suffix ^^^ 0x80] else suffix :: List.replicate (pad - 2) 0 ++ [0x80]
  let all := data ++ tail
  let a := absorb (all.length / 136) all (List.replicate 25 0)
  ((a.flatMap fun l => natBytes 8 l)).take n

/-! ## KMAC256 (SP 800-185) -/

/-- The bytes of a number, highest first, at least one. -/
def beBytes (x : Nat) : List Nat := (natBytes (if x = 0 then 1 else x.log2 / 8 + 1) x).reverse

def leftEncode (x : Nat) : List Nat := (beBytes x).length :: beBytes x
def rightEncode (x : Nat) : List Nat := beBytes x ++ [(beBytes x).length]
def encodeString (s : List Nat) : List Nat := leftEncode (8 * s.length) ++ s

/-- bytepad to 136 bytes. -/
def bytepad (x : List Nat) : List Nat :=
  let z := leftEncode 136 ++ x
  z ++ List.replicate ((136 - z.length % 136) % 136) 0

/-- KMAC256 with an output of 128 bits. -/
def kmac256 (key data custom : List Nat) : List Nat :=
  let kmac := [0x4B, 0x4D, 0x41, 0x43]
  sponge 0x04 (bytepad (encodeString kmac ++ encodeString custom) ++ bytepad (encodeString key) ++ data ++ rightEncode 128) 16

/-- The customisation string "Umdar state image" (R313). -/
def imageCustom : List Nat :=
  [0x55, 0x6D, 0x64, 0x61, 0x72, 0x20, 0x73, 0x74, 0x61, 0x74, 0x65, 0x20, 0x69, 0x6D, 0x61, 0x67, 0x65]

/-- The tag of a state image's header and payload (R313). -/
def imageTag (key : List Byte) (data : List Byte) : List Byte :=
  (kmac256 (key.map (·.toNat)) (data.map (·.toNat)) imageCustom).map (BitVec.ofNat 8)

end Sys2Proof.Machine
end

