-- ==== Sys2Proof/Machine/Engine.lean ====
section
/-!
DEFINITION. What the engines of a tile share (R138-R140, R281, R286, R421): translation of an operand's pages, words read and
written as actions at their homes, claims, and the checks of operands at issue.
-/

namespace Sys2Proof.Machine

/-! ## Translation by an engine (R28-R33) -/

/-- The translation of a paged address for an engine of a tile: the L2 TLB, or a walk that fills it (R32). -/
def State.engineLeaf (t : TileId) (root va : Nat) (s : State) : State × Except Nat TlbEntry :=
  match (s.tile t).tlb2.find? (·.covers root va) with
  | some e => (s, .ok e)
  | none =>
    match s.walkFrom root va 4 0 root with
    | (s, .ok e) => (s.modTile t fun x => { x with tlb2 := tlb2Add e x.tlb2 }, .ok e)
    | (s, .error r) => (s, .error r)

/-- Permissions of a leaf for an engine, with the reason (R31). -/
def leafReason (user : Bool) (n : Need) (leaf : Word) : Option Nat :=
  if user && !leafU leaf then some 0x08
  else if n.r && !leafR leaf then some 0x05
  else if n.w && !leafW leaf then some 0x06
  else none

/-! ## Where a word of an operand stands -/

/-- A place that an engine reads or writes. -/
inductive Place where
  | home (h : Home)
  | peer (wafer addr : Nat)
deriving DecidableEq, Repr

/-- The answer of an engine's translation. -/
inductive EngTr where
  | ok (p : Place)
  | stop (reason : Nat)
  /-- The home serves no access now (R21). -/
  | hold
deriving DecidableEq, Repr

/-- What an engine translates for: the hart whose command it is, its mode and root. -/
structure EngCtx where
  hart : HartId
  user : Bool
  root : Nat
deriving DecidableEq, Repr

/-- The key of a kept translation. -/
def pageKey (va : Word) (w : Bool) : Word := setBits va 0 16 (b2n w)

/-- The peer wafer that a wafer field names can be reached (R46). -/
def State.peerUsable (s : State) (t : BitVec 16) (wafer addr : Nat) : Bool :=
  decide (wafer < 576) && Config.peerOk wafer addr s.tick &&
    match s.tab? t with
    | some x => (find wafer x.peers).isSome
    | none => false

/-- Holds an access to a slice whose home serves none now, and reports it where the entry is FRESH (R21, R23) or cannot be read (R22). -/
def State.holdAt (s : State) : Home → State
  | .slice t _ => if s.entryBad t then (if (s.mapEntry t).bad then s else s.meetBadEntry t) else s.report t
  | _ => s

/-- The place of a word of an operand, with the translations kept, those that a peer wafer has made among them (R46, R286, R421). -/
def State.engineTr (c : EngCtx) (n : Need) (pages : List (Word × Home)) (va : Word) (s : State) : State × List (Word × Home) × EngTr :=
  let at' := fun (s : State) (pages : List (Word × Home)) (h : Home) =>
    if s.homeOpen c.hart h then (s, pages, EngTr.ok (.home h)) else (s.holdAt h, pages, EngTr.hold)
  match range va with
  | .paged =>
    match pages.find? fun p => p.1 == pageKey va n.w with
    | some p => at' s pages (p.2.plus (va.toNat % 65536))
    | none =>
      match s.engineLeaf c.hart.tile c.root va.toNat with
      | (s, .error r) => (s, pages, .stop r)
      | (s, .ok e) =>
        match leafReason c.user n e.leaf with
        | some r => (s, pages, .stop r)
        | none =>
          let h := leafHome e.leaf e.bits va.toNat
          at' s (pages ++ [(pageKey va n.w, h.align 65536)]) h
  | .slice vt off =>
    let t : TileId := { tab := c.hart.tile.tab, vt := vt }
    if !s.validVt t || decide ((s.mapEntry t).st = .invalid) then (s, pages, .stop 0x02) else at' s pages (.slice t off)
  | .own off => at' s pages (.slice c.hart.tile off)
  | .peer w a =>
    if pages.any fun p => p.1 == pageKey va n.w then (s, pages, .ok (.peer w a))
    else if s.peerUsable c.hart.tile.tab w a then (s, pages ++ [(pageKey va n.w, .dev 0)], .ok (.peer w a)) else (s, pages, .stop 0x0B)
  | .dev _ => (s, pages, .stop 0x0A)
  | .none => (s, pages, .stop 0x01)

/-! ## Words -/

/-- A peer wafer's word (DESIGN CHOICE, log entry 8). -/
def peerWord (wafer addr tick : Nat) : Nat := leNat ((List.range 8).map fun i => Config.peerByte wafer (addr + i) tick)

/-- A plain read of a word by an engine: its tag and data; a page that is not VALID reads as POISON with its record (R37). -/
def State.engineRead (t : TileId) (p : Place) (s : State) : State × Tag × Nat :=
  match p with
  | .peer w a => (s, Tag.ofCode (Config.peerTag w a s.tick).toNat, peerWord w a s.tick)
  | .home h =>
    let s := s.dropLine t h
    if !s.pageOk h then (s.logDpa h, .poison, 0)
    else
      let s := (s.track (s.fromTile t) h).detect h
      (s, s.tagOf h, s.loadNat h 8)

/-- The hart has written through a host port since its last flushing read there (R106). -/
def State.wroteTo (o : HartId) (h : Home) (s : State) : State :=
  match h with
  | .host q _ => s.modHart o fun x => if x.hostWrote.contains q then x else { x with hostWrote := x.hostWrote ++ [q] }
  | _ => s

/-- A fill at .s is a release that follows host writes of the hart: their flushing reads are still to be sent (R106, R140, R317). -/
def State.flushDue (s : State) (o : HartId) (sc : Scope) : Bool := decide (sc = .s) && (s.hartOf o).hostWrote != []

/-- Flushing reads of the hart are on their way (R106). -/
def State.flushing (s : State) (o : HartId) (sc : Scope) : Bool :=
  decide (sc = .s) && s.ops.any fun q => decide (q.hart = o) && q.kind == .flush && !q.over

/-- An action of the state table on a word by an engine of a hart, with data; false where it did not go through: then nothing is written,
and an error that a write would have met stays (R61). -/
def State.engineWrite (o : HartId) (p : Place) (a : TagAct) (v : Nat) (s : State) : State × Bool :=
  match p with
  | .peer w x =>
    let row := tagRow a (Tag.ofCode (Config.peerTag w x s.tick).toNat)
    (s, !row.fault && !row.wait)
  | .home h =>
    let s := s.dropLine o.tile h
    if !s.pageOk h then (s.logDpa h, false)
    else
      let s := s.track (s.fromTile o.tile) h
      let row := tagRow a (s.tagOf h)
      if row.fault || row.wait then (s, false) else ((((s.detectWrite h [h]).act a h 255 v).1).wroteTo o h, true)

/-! ## Claims (R139) -/

/-- Claims the granules of a home range for a command. -/
def State.claim (t : TileId) (id : Nat) (h : Home) (len : Nat) (s : State) : State :=
  if len = 0 then s
  else s.modTile t fun x => { x with claims := x.claims ++ [(id, h.key / 64 * 64, (h.key + len + 63) / 64 * 64)] }

/-- Frees one granule of a command. -/
def freeIn (id k : Nat) (cs : List (Nat × Nat × Nat)) : List (Nat × Nat × Nat) :=
  cs.flatMap fun c =>
    if c.1 = id ∧ c.2.1 ≤ k ∧ k < c.2.2 then
      (if c.2.1 < k then [(id, c.2.1, k)] else []) ++ (if k + 64 < c.2.2 then [(id, k + 64, c.2.2)] else [])
    else [c]

def State.unclaim (t : TileId) (id : Nat) (h : Home) (s : State) : State :=
  s.modTile t fun x => { x with claims := freeIn id ((h.align 64).key) x.claims }

/-- Frees every granule of a command. -/
def State.unclaimAll (t : TileId) (id : Nat) (s : State) : State :=
  s.modTile t fun x => { x with claims := x.claims.filter fun c => c.1 != id }

/-- The home of an address by the page tables as they stand, without effect: what the NI claims ahead of the command. -/
def State.peekHome (s : State) (c : EngCtx) (va : Word) : Option Home :=
  match range va with
  | .paged =>
    match s.engineLeaf c.hart.tile c.root va.toNat with
    | (_, .ok e) => some (leafHome e.leaf e.bits va.toNat)
    | _ => none
  | .slice vt off => some (.slice { tab := c.hart.tile.tab, vt := vt } off)
  | .own off => some (.slice c.hart.tile off)
  | _ => none

/-- Claims an extent of addresses, page by page. -/
def State.claimVa (c : EngCtx) (id : Nat) : Nat → Word → Nat → State → State
  | 0, _, _, s => s
  | f + 1, va, len, s =>
    if len = 0 then s
    else
      let n := Nat.min len (65536 - va.toNat % 65536)
      let s := match s.peekHome c va with
        | some h => s.claim c.hart.tile id h n
        | none => s
      State.claimVa c id f (va + BitVec.ofNat 64 n) (len - n) s

/-! ## Checks of operands at issue (R281, R421) -/

/-- An operand: its extent, what it needs, whether it may stand on a peer wafer, whether it needs tags (R81, R85), and whether U mode
takes PRIV for one in the device-register window: a copy operand (R47, R292), where a matrix operand takes PROTECTION (R304, R332);
and whether its address must be a multiple of 8 beside the checks of its own form. -/
structure Operand where
  va   : Word
  len  : Nat
  need : Need
  peer : Bool
  tags : Bool
  priv : Bool
  al   : Bool
deriving DecidableEq, Repr

/-- The whole extent lies in one range, and in one slice window (R13, R281). One that reaches past the last address leaves both. -/
def extentFault (o : Operand) : Option XFault :=
  let past := decide (2 ^ 64 < o.va.toNat + o.len)
  let last := o.va + BitVec.ofNat 64 (o.len - 1)
  if o.al ∧ o.va.toNat % 8 ≠ 0 then some { rank := 1, level := 0, cause := cALIGN, reason := 0, va := o.va }
  else if (if past then windowOf o.va ≠ 0 else windowOf o.va ≠ windowOf last) then some { rank := 1, level := 0, cause := cALIGN, reason := 0, va := o.va }
  else if past ∨ range last = .none then
    some { rank := 2, level := 0, cause := cPAGE, reason := 1, va := if range o.va = .paged then BitVec.ofNat 64 (2 ^ 48) else o.va }
  else if rangeNo o.va ≠ rangeNo last then some { rank := 1, level := 0, cause := cALIGN, reason := 0, va := o.va }
  else none

/-- The translation of an operand at an address, for the hart that issues (R11-R15). -/
def operandTr (s : State) (h : HartId) (o : Operand) (va : Word) : Tr :=
  match range va with
  | .peer _ _ => if o.peer then .ok (.dev 0) false else tr s h o.need va
  | .dev _ => if o.priv then devForm false va (tr s h o.need va) else xf 3 cPROT 0x0A va
  | _ =>
    match tr s h o.need va with
    | .ok home c =>
      match home with
      | .host _ _ => if o.tags then xf 9 cFE 0 va else .ok home c
      | _ => .ok home c
    | x => x

/-- Checks operands on the addresses given for each; goes on, waits for translations, or takes the fault of R15. -/
def withOperands (os : List (Operand × List Word)) (s : State) (k : State → Out) : Out :=
  let h := s.focus
  let trs := os.flatMap fun o => o.2.map fun va => operandTr s h o.1 va
  let fs := (os.filterMap fun o => extentFault o.1) ++ trs.filterMap fun t => match t with | .fault f => some f | _ => none
  let walks := trs.filterMap fun t => match t with | .miss va => some va | _ => none
  let maps := trs.filterMap fun t => match t with | .mapMiss v => some v | _ => none
  match firstFault fs with
  | some f => if f.rank ≤ 5 ∨ (walks = [] ∧ maps = []) then trap f.posted s else waitAt (s.seek h walks maps)
  | none => if walks = [] ∧ maps = [] then k s else waitAt (s.seek h walks maps)

/-- ALIGN of operand addresses that must be multiples of 8, at the lowest of them (R15, R281). -/
def alignOps (vas : List Word) : Option Posted :=
  (firstFault ((vas.filter fun a => a.toNat % 8 ≠ 0).map fun a => ({ rank := 1, level := 0, cause := cALIGN, reason := 0, va := a } : XFault))).map XFault.posted

/-- The context of a command issued by the hart in focus. -/
def State.engCtx (s : State) : EngCtx := { hart := s.focus, user := s.hart.isU, root := s.hart.root }

end Sys2Proof.Machine
end

