-- ==== Sys2Proof/Machine/Copy.lean ====
section
/-!
DEFINITION. The copy engine (R80-R83, R85, R138-R140, R279-R290, R403), and the reading and checking of state images (R313,
R316), which the matrix engine shares.
-/

namespace Sys2Proof.Machine

/-! ## State images (R313) -/

/-- The fields of an image header that its reader uses. -/
structure ImgHdr where
  fmt    : Nat
  rows   : Nat
  cols   : Nat
deriving DecidableEq, Repr

/-- Bytes of an element: A40 packed, F32, BF16 (R313). -/
def imgElem (fmt : Nat) : Nat :=
  match fmt with
  | 0x14 => 5
  | 0x0F => 4
  | 0x11 => 2
  | _ => 0

/-- P, the payload's bytes. -/
def ImgHdr.plen (h : ImgHdr) : Nat := h.rows * h.cols * imgElem h.fmt
/-- P8. -/
def ImgHdr.plen8 (h : ImgHdr) : Nat := 8 * ((h.plen + 7) / 8)
/-- The image's length. -/
def ImgHdr.length (h : ImgHdr) : Nat := 80 + h.plen8

def field (b : List Byte) (off n : Nat) : Nat := leNat ((b.drop off).take n)

def imgMagic : Nat := 0x474D495352444D55

/-- The size fields of a header, when they name an image. -/
def imgSize (b : List Byte) : Option ImgHdr :=
  let h : ImgHdr := { fmt := field b 0x0C 1, rows := field b 0x10 2, cols := field b 0x12 2 }
  if imgElem h.fmt != 0 && 1 ≤ h.rows && h.rows ≤ 256 && 1 ≤ h.cols && h.cols ≤ 256 then some h else none

/-- Every other field of a header, and the padding (R313, R316). -/
def imgFields (h : ImgHdr) (b : List Byte) : Bool :=
  field b 0 8 == imgMagic && field b 8 2 == 1 && field b 0x0D 1 < 2 && field b 0x0E 2 == 0 && field b 0x16 2 == 0 &&
    field b 0x18 4 == h.plen && field b 0x1C 36 == 0 && field b (0x40 + h.plen) (h.plen8 - h.plen) == 0

/-- The largest image (R313). -/
def imgMax : Nat := 327760

/-- What reading words answers. -/
inductive Words where
  | ok (bs : List Byte)
  | poison (i : Nat)
  | stop (i reason : Nat)
  | hold
deriving DecidableEq, Repr

/-- Reads n words of an operand from word i on, with plain reads. -/
def State.readWords (c : EngCtx) (base : Word) : Nat → Nat → List (Word × Home) → State → State × List (Word × Home) × Words
  | 0, _, ps, s => (s, ps, .ok [])
  | n + 1, i, ps, s =>
    match s.engineTr c needR ps (base + BitVec.ofNat 64 (8 * i)) with
    | (s, ps, .stop r) => (s, ps, .stop i r)
    | (s, ps, .hold) => (s, ps, .hold)
    | (s, ps, .ok p) =>
      match s.engineRead c.hart.tile p with
      | (s, .poison, _) => (s, ps, .poison i)
      | (s, _, v) =>
        match State.readWords c base n (i + 1) ps s with
        | (s, ps, .ok bs) => (s, ps, .ok (leBytes 8 v ++ bs))
        | r => r

/-- What checking an image answers. -/
inductive ImgEnd where
  | ok (h : ImgHdr) (bs : List Byte)
  | bad (i reason : Nat)
  | hold
deriving DecidableEq, Repr

/-- An image-key entry of a tableau (R314). -/
def State.imageKey (s : State) (t : BitVec 16) (k : BitVec 4) : Option (List Byte) :=
  match s.tab? t with
  | some x => find k x.keys
  | none => none

/-- Words of an image that its reader reads, from what it has read: the header, then as many as its PLEN gives it, within the limit (R289,
R316; DEDUCED, log entry 75). -/
def imgWords (limit : Nat) (bs : List Byte) : Nat :=
  let length := if bs.length < 64 then 64 else Nat.max 64 (Nat.min imgMax (80 + 8 * ((field bs 0x18 4 + 7) / 8)))
  (Nat.min limit length + 7) / 8

/-- The checks of an image that has been read (R316): its header or the reason. -/
def judgeImage (k : List Byte) (limit : Nat) (bs : List Byte) : Except Nat ImgHdr :=
  match imgSize bs with
  | none => .error 0x33
  | some h =>
    if limit < h.length ∨ imgFields h bs = false then .error 0x33
    else if imageTag k (bs.take (0x40 + h.plen8)) ≠ (bs.drop (0x40 + h.plen8)).take 16 then .error 0x32
    else .ok h

/-- Reads and checks an image in the order of R316: the key, POISON words, the fields, the tag. -/
def State.readImage (c : EngCtx) (key : BitVec 4) (base : Word) (limit : Nat) (ps : List (Word × Home)) (s : State) :
    State × List (Word × Home) × ImgEnd :=
  match s.imageKey c.hart.tile.tab key with
  | none => (s, ps, .bad 0 0x36)
  | some k =>
    match s.readWords c base (imgWords limit []) 0 ps with
    | (s, ps, .hold) => (s, ps, .hold)
    | (s, ps, .stop i r) => (s, ps, .bad i r)
    | (s, ps, .poison i) => (s, ps, .bad i 0x30)
    | (s, ps, .ok hd) =>
      match s.readWords c base (imgWords limit hd - hd.length / 8) (hd.length / 8) ps with
      | (s, ps, .hold) => (s, ps, .hold)
      | (s, ps, .stop i r) => (s, ps, .bad i r)
      | (s, ps, .poison i) => (s, ps, .bad i 0x30)
      | (s, ps, .ok rest) =>
        match judgeImage k limit (hd ++ rest) with
        | .ok h => (s, ps, .ok h (hd ++ rest))
        | .error r => (s, ps, .bad 0 r)

/-! ## A command's words -/

/-- Words of one row in the command's word order; an image has 8,192 data words and 128 tag words (R82). R285 counts FIRST in that order
and leaves it open for the image kinds: image out counts the 8,320 words that it writes, image in the 8,192 words of its page (DEDUCED, log
entry 97). -/
def CpCmd.rowWords (c : CpCmd) : Nat :=
  match c.kind with
  | .imageOut => 8320
  | .imageIn => 8192
  | .verify => 1
  | _ => c.count / 8

def CpCmd.total (c : CpCmd) : Nat := c.rows * c.rowWords

/-- The address of word i of the destination. -/
def CpCmd.dstAt (c : CpCmd) (i : Nat) : Word :=
  c.dst + BitVec.ofNat 64 (i / c.rowWords) * c.dstride + BitVec.ofNat 64 (8 * (i % c.rowWords))

/-- The address of word i of the source. -/
def CpCmd.srcAt (c : CpCmd) (i : Nat) : Word :=
  c.src + BitVec.ofNat 64 (i / c.rowWords) * c.sstride + BitVec.ofNat 64 (8 * (i % c.rowWords))

/-- A word from i on, before another, lies in the granule of an address. -/
def CpCmd.touches (c : CpCmd) (i last : Nat) (va : Word) : Bool :=
  let g := va.toNat / 64 * 64
  let rw := c.rowWords
  (List.range c.rows).any fun r =>
    let a := Nat.max i (r * rw)
    let b := Nat.min last ((r + 1) * rw)
    decide (a < b) && decide ((c.dstAt a).toNat < g + 64) && decide (g < (c.dstAt a).toNat + 8 * (b - a))

def CpCmd.ctx (c : CpCmd) : EngCtx := { hart := c.hart, user := c.user, root := c.root }

/-- How a word ends: performed, with a per-word error or not; the command stops there; or its home serves no access now. -/
inductive WordEnd where
  | done (err : Bool)
  | stop (reason : Nat)
  | hold
deriving DecidableEq, Repr

/-- A word's step on a state: the state, the command with its kept translations, and the end. -/
abbrev WordRes := State × CpCmd × WordEnd

/-- A host place. -/
def Place.isHost : Place → Bool
  | .home (.host _ _) => true
  | _ => false

/-- Goes on with the place of an address; a host page where tags are needed stops the command (R81, R286). -/
def withPlace (c : CpCmd) (n : Need) (tags : Bool) (va : Word) (s : State) (k : State → CpCmd → Place → WordRes) : WordRes :=
  match s.engineTr c.ctx n c.pages va with
  | (s, ps, .ok p) => if tags && p.isHost then (s, { c with pages := ps }, .stop 0x35) else k s { c with pages := ps } p
  | (s, ps, .stop r) => (s, { c with pages := ps }, .stop r)
  | (s, ps, .hold) => (s, { c with pages := ps }, .hold)

/-- What a source word of a tag and data does to its destination (R80). -/
def copyWord (mode : Nat) (o : HartId) (dst : Place) (tag : Tag) (v : Nat) (s : State) : State × Bool :=
  match mode with
  | 0 => if tag = .poison then ((s.engineWrite o dst (.set .poison) 0).1, true) else (s.engineWrite o dst .write v).map id (!·)
  | 1 =>
    match tag with
    | .full => (s.engineWrite o dst .write v).map id (!·)
    | .poison => (s.engineWrite o dst (.set .poison) 0).map id (!·)
    | _ => (s.engineWrite o dst .emptying v).map id (!·)
  | 2 => (s.engineWrite o dst .write v).map id (!·)
  | _ => if tag = .poison then (s, true) else (s.engineWrite o dst .filling v).map id (!·)

/-- The source word of a mode: a plain read, or a take that leaves it EMPTY (R80). None for a per-word error. -/
def copySource (mode : Nat) (o : HartId) (p : Place) (s : State) : State × Option (Tag × Nat) :=
  match s.engineRead o.tile p with
  | (s, tag, v) =>
    if mode = 2 then
      if tag = .full then ((s.engineWrite o p .taking 0).1, some (tag, v)) else (s, none)
    else (s, some (tag, v))

/-- What word i of a command needs, in order: the permissions, whether a host page is refused for its tags (R81), and the address. -/
def CpCmd.needs (c : CpCmd) (i : Nat) : List (Need × Bool × Word) :=
  match c.kind with
  | .fill => [(needW, c.mode == 3, c.dstAt i)]
  | .imageOut =>
    let k := i % 8320
    (if k < 8192 then [(needR, true, c.src + BitVec.ofNat 64 (i / 8320) * c.sstride + BitVec.ofNat 64 (8 * k))] else []) ++
      [(needW, false, c.dstAt i)]
  | .imageIn =>
    let img := c.src + BitVec.ofNat 64 (i / 8192) * c.sstride
    [(needR, false, img + BitVec.ofNat 64 (65536 + 8 * (i % 8192 / 64))), (needR, false, img + BitVec.ofNat 64 (8 * (i % 8192))),
      (needW, true, c.dstAt i)]
  | _ => [({ needR with w := c.mode != 0 }, c.mode == 2, c.srcAt i), (needW, c.mode == 1 || c.mode == 3, c.dstAt i)]

/-- Goes on with the places of what a word needs. -/
def withPlaces : List (Need × Bool × Word) → CpCmd → State → (State → CpCmd → List Place → WordRes) → WordRes
  | [], c, s, k => k s c []
  | n :: ns, c, s, k => withPlace c n.1 n.2.1 n.2.2 s fun s c p => withPlaces ns c s fun s c ps => k s c (p :: ps)

/-- One word of a command at its places (R80, R83, R284). In an image in, a word whose tag word is POISON becomes POISON with a per-word error
(DESIGN CHOICE, log entry 98). -/
def CpCmd.wordAt (c : CpCmd) (i : Nat) (ps : List Place) (s : State) : WordRes :=
  let t := c.hart.tile
  match c.kind, ps with
  | .fill, [d] =>
    let r := copyWord c.mode c.hart d .full (elem c.pattern 8 ((c.dstAt i).toNat / 8 % 8)) s
    (r.1, c, .done r.2)
  | .imageOut, [p, d] =>
    match s.engineRead t p with
    | (s, tag, v) =>
      if tag = .parked ∨ tag = .poison then (s, c, .stop 0x31)
      else
        let tags := (if i % 8320 = 0 then 0 else c.tags) + b2n (tag == .full) * 2 ^ (i % 8320)
        let r := s.engineWrite c.hart d .write v
        (r.1, { c with tags := tags }, .done !r.2)
  | .imageOut, [d] =>
    let r := s.engineWrite c.hart d .write (c.tags / 2 ^ (64 * (i % 8320 - 8192)) % 2 ^ 64)
    (r.1, c, .done !r.2)
  | .imageIn, [q, p, d] =>
    match s.engineRead t q with
    | (s, qt, bitsW) =>
      match s.engineRead t p with
      | (s, pt, v) =>
        if qt = .poison ∨ pt = .poison then ((s.engineWrite c.hart d (.set .poison) 0).1, c, .done true)
        else
          let r := s.engineWrite c.hart d (if bitsW.testBit (i % 8192 % 64) then .write else .emptying) v
          (r.1, c, .done !r.2)
  | _, [p, d] =>
    match copySource c.mode c.hart p s with
    | (s, none) => (s, c, .done true)
    | (s, some (tag, v)) =>
      let r := copyWord c.mode c.hart d tag v s
      (r.1, c, .done r.2)
  | _, _ => (s, c, .hold)

/-- The next word of a command. -/
def CpCmd.word (c : CpCmd) (s : State) : WordRes := withPlaces (c.needs c.next) c s fun s d ps => d.wordAt c.next ps s

/-! ## The engine -/

/-- The command with an identifier. -/
def State.cp? (s : State) (id : Nat) : Option CpCmd := (s.harts.flatMap fun p => p.2.cps).find? fun c => c.id == id

def State.setCp (c : CpCmd) (s : State) : State :=
  s.modHart c.hart fun h => { h with cps := h.cps.map fun x => if x.id = c.id then c else x }

/-- A word has been performed: the count of errors, and the granule when no word that is still to come lies in it (R139): none up to
`last`, nor of the other words named. -/
def State.wordDone (c : CpCmd) (err : Bool) (last : Nat) (others : List (Nat × Nat)) (s : State) : State × CpCmd :=
  let i := c.next
  let c' := { c with next := i + 1, nerr := if err then Nat.min (c.nerr + 1) 0xFFFFFF else c.nerr,
                     firstBad := if err then some (Nat.min i (c.firstBad.getD i)) else c.firstBad }
  if ((i + 1, last) :: others).any fun w => c.touches w.1 w.2 (c.dstAt i) then (s, c')
  else
    match s.peekHome c.ctx (c.dstAt i) with
    | some h => (s.unclaim c.hart.tile c.id h, c')
    | none => (s, c')

/-- A per-word error counts, up to 2^24 - 1 (R285). -/
def CpCmd.nerrUp (c : CpCmd) : Nat := Nat.min (c.nerr + 1) 0xFFFFFF

/-- The words of one line, ascending, before `last`; at most eight. A word of an image that is PARKED or POISON ends the command with a per-word
error (R83). -/
def State.copyLine (last : Nat) (others : List (Nat × Nat)) : Nat → CpCmd → State → State × CpCmd
  | 0, c, s => (s, c)
  | n + 1, c, s =>
    match c.word s with
    | (s, c, .hold) => (s, c)
    | (s, c, .stop r) =>
      (s.unclaimAll c.hart.tile c.id,
        { c with stopped := some c.next, reason := r, nerr := if r = 0x31 then c.nerrUp else c.nerr })
    | (s, c, .done err) =>
      match s.wordDone c err last others with
      | (s, c) => if c.next < last ∧ (c.dstAt c.next).toNat % 64 ≠ 0 then State.copyLine last others n c s else (s, c)

/-! ## Copies through the peer window (R403) -/

/-- A copy through the peer window. -/
def CpCmd.peer (c : CpCmd) : Bool :=
  let isPeer := fun (va : Word) => match range va with | .peer _ _ => true | _ => false
  c.kind != .verify && (isPeer c.dst || isPeer c.src)

/-- Pieces that a copy may have at work: one for each of the 72 planes; an image out has one, since its tag words need every word before
them (R82, R140). -/
def CpCmd.width (c : CpCmd) : Nat := if c.kind = .imageOut then 1 else 72

/-- Why a word from i on cannot be reached, if one of the next n cannot: translations are kept, so those that can be stay so (R286). -/
def State.unreached (i : Nat) : Nat → CpCmd → State → WordRes × Nat
  | 0, c, s => ((s, c, .hold), i)
  | n + 1, c, s =>
    match withPlaces (c.needs i) c s fun s c _ => (s, c, .done false) with
    | (s, c, .stop r) => ((s, c, .stop r), i)
    | (s, c, _) => State.unreached (i + 1) n c s

/-- Sends the next piece of 4 KiB, on the plane of its turn, once every word of it has been found to be reachable; a word that is not ends the
command's pieces there, so that no word after it is read or written (R286). -/
def State.openPiece (r : State × CpCmd) : State × CpCmd :=
  let c := r.2
  if c.pieces.length < c.width ∧ c.next < c.total ∧ c.stopped = none then
    let last := Nat.min (c.next + 512) c.total
    let send := fun (c : CpCmd) (last : Nat) =>
      { c with pieces := if c.next < last then c.pieces ++ [{ next := c.next, last := last, plane := c.next / 512 % 72 }] else c.pieces,
               next := last }
    match State.unreached c.next (last - c.next) c r.1 with
    | ((s, c, .stop x), i) => (s, { send c i with stopped := some i, reason := x })
    | ((s, c, _), _) => (s, send c last)
  else r

/-- The pieces of a command, with the one that goes on now: any of them, for they have no order among themselves (R140, R403;
Config.freePiece). -/
def CpCmd.pick (c : CpCmd) (tick : Nat) : Option (List CpPiece × CpPiece × List CpPiece) :=
  let i := Config.freePiece tick % Nat.max 1 c.pieces.length
  (c.pieces[i]?).map fun p => (c.pieces.take i, p, c.pieces.drop (i + 1))

/-- One line of a peer copy: the pieces that have a plane are sent, else one at work goes on. A word at which it stops ends the pieces behind
it; those before it go on (R286, R403; DEDUCED, log entry 68). -/
def State.pieceLine (c : CpCmd) (s : State) : State × CpCmd :=
  let sent := (List.range c.width).foldl (fun r _ => State.openPiece r) (s, c)
  if sent.2.pieces.length ≠ c.pieces.length ∨ sent.2.stopped ≠ c.stopped then sent
  else
    match c.pick s.tick with
    | some (before, p, after) =>
      let others := (before ++ after).map (fun q => (q.next, q.last)) ++ [(c.next, c.total)]
      let r := s.copyLine p.last others 8 { c with next := p.next, stopped := none, reason := 0 }
      let d := { r.2 with next := c.next, pieces := before ++ (if r.2.next < p.last then [{ p with next := r.2.next }] else []) ++ after }
      match r.2.stopped with
      | some i => (r.1, { d with stopped := some i, pieces := (before ++ after).filter fun q => decide (q.next < i) })
      | none => (r.1, { d with stopped := c.stopped, reason := c.reason })
    | none => (s, c)

/-- A line of CP.VERIFY: the next words of the image are read, at most eight, or the image that has been read is judged (R280, R289). The
POISON word that ends it is a per-word error, as for every plain read of an engine (R57, R285). -/
def State.verify (c : CpCmd) (s : State) : State × CpCmd :=
  match s.imageKey c.hart.tile.tab c.key with
  | none => (s, { c with stopped := some 0, reason := 0x36 })
  | some k =>
    let i := c.read.length / 8
    let n := imgWords c.count c.read
    if i < n then
      match s.readWords c.ctx c.dst (Nat.min 8 (n - i)) i c.pages with
      | (s, ps, .hold) => (s, { c with pages := ps })
      | (s, ps, .stop j r) => (s, { c with pages := ps, stopped := some j, reason := r })
      | (s, ps, .poison j) => (s, { c with pages := ps, stopped := some j, reason := 0x30, nerr := c.nerrUp })
      | (s, ps, .ok bs) => (s, { c with pages := ps, read := c.read ++ bs })
    else
      match judgeImage k c.count c.read with
      | .ok h => (s, { c with next := 1, length := h.length })
      | .error r => (s, { c with stopped := some 0, reason := r })

/-- The completion value (R285). -/
def CpCmd.value (c : CpCmd) : Word :=
  match c.stopped with
  | some i => atBits 62 1 1 ||| atBits 56 6 c.reason ||| atBits 32 24 c.nerr ||| atBits 0 32 i
  | none =>
    if c.nerr = 0 then atBits 0 32 c.length
    else atBits 62 1 1 ||| atBits 56 6 0x30 ||| atBits 32 24 c.nerr ||| atBits 0 32 (c.firstBad.getD 0)

/-- The completion fill, once the word's home serves it; the command is then complete (R85, R140). One at .s waits for the flushing
reads that follow the host writes before it (R106). -/
def State.copyFill (c : CpCmd) (s : State) : State :=
  if s.flushDue c.hart c.scope then s.flushPorts c.hart
  else if s.flushing c.hart c.scope then s
  else if s.homeOpen c.hart c.cwHome then
    let s := (s.completionFill c.cwHome c.value).unclaimAll c.hart.tile c.id
    s.modHart c.hart fun h => { h with cps := h.cps.filter fun x => x.id != c.id }
  else s.holdAt c.cwHome

/-- COPY_COMMAND_START: the tile's oldest command that has not started starts, at most four at once (R280); the hart's earlier
accesses come first (R93, R138). -/
def execCopyCommandStart (t : TileId) (s : State) : Out :=
  let cps := t.harts.flatMap fun h => (s.hartOf h).cps
  let run := cps.filter (·.started)
  let oldest := (cps.filter fun c => !c.started).foldl (fun (b : Option CpCmd) c => match b with
    | some x => if c.id < x.id then some c else some x
    | none => some c) none
  .next (match oldest with
    | some c =>
      if s.resident t && decide (run.length < 4) && !s.pendingOp c.hart true true (fun n => decide (n < c.id)) then
        s.setCp { c with started := true }
      else s
    | none => s)

/-- COPY_LINE: the words of one line, or the completion fill (R280, R282). -/
def execCopyLine (op : Nat) (s : State) : Out :=
  .next (match s.cp? op with
    | some c =>
      if !c.started || !s.resident c.hart.tile then s
      else if c.pieces = [] ∧ (c.stopped.isSome || decide (c.total ≤ c.next)) then s.copyFill c
      else
        let r := if c.kind = .verify then s.verify c else if c.peer then s.pieceLine c else s.copyLine c.total [] 8 c
        r.1.setCp r.2
    | none => s)

/-- The lowest word of a peer copy that has not been performed: of its first piece at work, or of those still to be sent. -/
def CpCmd.firstLeft (c : CpCmd) : Option Nat :=
  match c.pieces with
  | p :: _ => some p.next
  | [] => if c.stopped.isNone && decide (c.next < c.total) then some c.next else none

/-- PEER_PIECE_RESEND: a piece lost to a link failure is sent again on another plane, and its words are still to be performed; with no
plane that reaches the peer the command ends with PEER_WAFER at the first word that has not been performed, and none is performed after
(R286, R403). (DESIGN CHOICE: log entries 8, 68.) -/
def execPeerPieceResend (op : Nat) (plane : Option Nat) (s : State) : Out :=
  .next (match s.cp? op with
    | some c =>
      if !c.started || !c.peer then s
      else
        match plane with
        | some n =>
          match c.pick s.tick with
          | some (before, p, after) => if n < 72 ∧ n ≠ p.plane then s.setCp { c with pieces := before ++ { p with plane := n } :: after } else s
          | none => s
        | none =>
          match c.firstLeft with
          | some i => s.setCp { c with pieces := [], stopped := some i, reason := 0x0B }
          | none => s
    | none => s)

/-! ## Issue (R279-R284, R289, R290) -/

/-- The lowest address and the length of rows of a length and a stride. -/
def bounds (base stride : Word) (rows len : Nat) : Word × Nat :=
  let far := (rows - 1 : Nat) * stride.toInt
  if 0 ≤ far then (base, far.toNat + len) else (base + BitVec.ofInt 64 far, (-far).toNat + len)

def cwOperand (va : Word) : Operand := { va := va, len := 8, need := needW, peer := false, tags := true, priv := true, al := false }

/-- The kept translation of an operand's first page. -/
def firstPage (s : State) (o : Operand) : List (Word × Home) :=
  match range o.va, operandTr s s.focus o o.va with
  | .paged, .ok h _ => [(pageKey o.va o.need.w, h.align 65536)]
  | _, _ => []

/-- Puts a command that passed its checks into the engine's queue, with its claims; a command without words fills its completion
word at once, unless an earlier access of its hart is still on its way (R138, R281). -/
def State.enqueueCp (c : CpCmd) (s : State) : State :=
  if c.kind ≠ .verify ∧ c.total = 0 ∧ s.pendingOp c.hart true true (fun n => decide (n < c.id)) = false then
    (s.mod fun h => { h with cps := h.cps ++ [{ c with started := true }] }).copyFill c
  else
    let s := s.mod fun h => { h with cps := h.cps ++ [c] }
    if c.kind = .verify then s
    else (List.range c.rows).foldl (fun s r => s.claimVa c.ctx c.id 262146 (c.dst + BitVec.ofNat 64 r * c.dstride) (8 * c.rowWords)) s

/-- The checks 4 and 5 of R281 and the issue of a command. -/
def cpIssue (c : CpCmd) (os : List Operand) (cw : Word) (s : State) : Out :=
  withOperands ((os ++ [cwOperand cw]).map fun o => (o, [o.va])) s fun s =>
    let s := s.passHolds s.focus
    if s.heldBack s.focus true then waitAt s
    else
      match operandTr s s.focus (cwOperand cw) cw with
      | .ok home _ =>
        let c := { c with id := s.nextId, cwHome := home, pages := os.flatMap (firstPage s) }
        let s := (s.fresh).enqueueCp c
        .next (retireCmd { s with ops := s.ops.filter fun o => !(decide (o.hart = s.focus) && o.isRefill) })
      | _ => waitAt s

/-- A command of the hart in focus before its fields are set. -/
def State.newCp (s : State) (kind : CpKind) (mode : Nat) (sc : Scope) : CpCmd :=
  { id := 0, hart := s.focus, kind := kind, mode := mode, scope := sc, dst := 0, src := 0, count := 0, rows := 1, sstride := 0,
    dstride := 0, pattern := 0, key := 0, cwHome := .dev 0, user := s.hart.isU, root := s.hart.root, started := false,
    next := 0, nerr := 0, firstBad := none, reason := 0, stopped := none, tags := 0, length := 0, pages := [], pieces := [], read := [] }

/-- At most eight commands of a hart are not complete (R280). -/
def State.cpRoom (s : State) (k : Out) : Out := if 8 ≤ s.hart.cps.length then waitAt s else k

def dstOperand (va : Word) (len : Nat) (tags : Bool) : Operand := { va := va, len := len, need := needW, peer := true, tags := tags, priv := true, al := false }
def srcOperand (va : Word) (len : Nat) (mode : Nat) : Operand :=
  { va := va, len := len, need := { needR with w := mode != 0 }, peer := true, tags := mode == 2, priv := true, al := false }

/-- The checks 2 and 3 on a byte count (R281). -/
def countChecks (vas : List Word) (count : Word) (s : State) (k : Out) : Out :=
  match alignOps vas with
  | some t => trap t s
  | none =>
    if count.toNat % 8 ≠ 0 then trap (mkTrap cALIGN 0) s
    else if 2 ^ 34 < count.toNat then trap (mkTrap cENGINE 0x37) s
    else k

/-- CP.COPY (R282). (DEDUCED: log entry 25.) -/
def execCpCopy (d a b : Reg) (w : Bool) (c : Reg) (mode : BitVec 2) (sc : Scope) (s : State) : Out :=
  withRegs [gRef a, gRef b, gRef c, gRef d] [] w s (s.cpRoom
    (let h := s.hart
     let n := h.gr b
     countChecks [h.gr d, h.gr a, h.gr c] n s
       (cpIssue { s.newCp .copy mode.toNat sc with dst := h.gr d, src := h.gr a, count := n.toNat }
         (if n = 0 then [] else
           [dstOperand (h.gr d) n.toNat (mode == 1 || mode == 3), srcOperand (h.gr a) n.toNat mode.toNat]) (h.gr c) s)))

/-- CP.FILLV: modes 1 and 2 are ILLEGAL (R284). -/
def execCpFillv (d a b : Reg) (w : Bool) (c : Reg) (mode : BitVec 2) (sc : Scope) (s : State) : Out :=
  if mode = 1 ∨ mode = 2 then trap (mkTrap cILLEGAL 0x21) s
  else withRegs [vRef a, gRef b, gRef c, gRef d] [] w s (s.cpRoom
    (let h := s.hart
     let n := h.gr b
     countChecks [h.gr d, h.gr c] n s
       (cpIssue { s.newCp .fill mode.toNat sc with dst := h.gr d, count := n.toNat, pattern := h.vr a }
         (if n = 0 then [] else [dstOperand (h.gr d) n.toNat (mode == 3)]) (h.gr c) s)))

/-- CP.VERIFY (R289). Its length limit is a count of the check of COUNT (R281, R292; DEDUCED, log entry 25); a limit of 0 does not make it
a command of count 0: the check runs and ends as R289 gives it (DESIGN CHOICE, log entry 75). -/
def execCpVerify (d a b : Reg) (w : Bool) (c : Reg) (sc : Scope) (s : State) : Out :=
  withRegs [gRef a, gRef b, gRef c, gRef d] [] w s (s.cpRoom
    (let h := s.hart
     let limit := (h.gr a).toNat
     match alignOps [h.gr d, h.gr c] with
     | some t => trap t s
     | none =>
       if 2 ^ 34 < limit then trap (mkTrap cENGINE 0x37) s
       else
         cpIssue { s.newCp .verify 0 sc with dst := h.gr d, count := limit, key := (h.gr b).setWidth 4 }
           [{ va := h.gr d, len := Nat.max 1 (Nat.min limit imgMax), need := needR, peer := true, tags := false, priv := true, al := false }] (h.gr c) s))

/-- The descriptor's load (R283). -/
def descAcc (va pc : Word) : Acc :=
  { kind := .vload, exts := [{ va := va, len := 32, pos := 0 }], need := needR, align := 8, span := false, dev := false, wr := false,
    past := false, scope := .w, acq := false, rel := false, dest := none, data := 0, whole := false, x := pc, y := va }

/-- A load whose instruction takes the value: it waits for it, and a fault or POISON is precise there (R283; that POISON, which R292 does not
list for CP.COPY2, is such a fault is DEDUCED, log entry 75). -/
def loadThen (a : Acc) (s : State) (k : State → VWord → Out) : Out :=
  match s.ops.find? fun o => decide (o.hart = s.focus) && o.isRefill && o.kind == a.kind && o.x == a.x && o.y == a.y with
  | some o =>
    if o.over then
      match o.poisoned with
      | some va => trap (mkTrapAt cPOISON 0 va) s
      | none => k s o.val
    else waitAt s
  | none =>
    access a s fun s ps =>
      if a.allAlias then
        match s.performAll a (partsOf a ps) a.data with
        | (s, .done v) => k s v
        | (s, .poison va) => trap (mkTrapAt cPOISON 0 va) s
        | (s, .wait) => waitAt s
      else waitAt (s.send s.focus a ps)

/-- A descriptor (R283). -/
structure Desc where
  rowBytes : Nat
  rows     : Nat
  kind     : Nat
  sstride  : Word
  dstride  : Word
deriving DecidableEq, Repr

def descOf (v : VWord) : Desc :=
  let w := fun i => BitVec.ofNat 64 (elem v 8 i)
  { rowBytes := bits (w 0) 0 32, rows := bits (w 0) 32 16 + 1, kind := bits (w 0) 48 4, sstride := w 1, dstride := w 2 }

/-- A descriptor that raises DESC: reserved bits or KIND, its shape, or an image with a tag mode (R283). -/
def descBad (v : VWord) (src dst : Word) (mode : Nat) : Bool :=
  let x := descOf v
  let page := fun (a stride : Word) => a.toNat % 65536 == 0 && (x.rows == 1 || stride.toNat % 65536 == 0)
  bits (BitVec.ofNat 64 (elem v 8 0)) 52 12 != 0 || elem v 8 3 != 0 || decide (2 < x.kind) ||
    (x.kind == 0 && (x.rowBytes % 8 != 0 || x.rowBytes == 0)) || (x.kind != 0 && mode != 0) ||
    (x.kind == 1 && !page src x.sstride) || (x.kind == 2 && !page dst x.dstride)

/-- CP.COPY2 once its descriptor is read (R281, R283). The source of an image out lies in HBM or a slice: one in the peer window raises
PROTECTION with PEER_DIRECT at issue (R45; DEDUCED, log entry 90). -/
def cp2 (x : Desc) (dst src cw : Word) (mode : Nat) (sc : Scope) (s : State) : Out :=
  if x.sstride.toNat % 8 ≠ 0 ∨ x.dstride.toNat % 8 ≠ 0 then trap (mkTrap cALIGN 0) s
  else
    let sl := if x.kind = 0 then x.rowBytes else if x.kind = 1 then 65536 else 66560
    let dl := if x.kind = 0 then x.rowBytes else if x.kind = 1 then 66560 else 65536
    if 2 ^ 34 < x.rows * Nat.max sl dl then trap (mkTrap cENGINE 0x37) s
    else
      let kind := if x.kind = 0 then CpKind.rows else if x.kind = 1 then .imageOut else .imageIn
      let sb := bounds src x.sstride x.rows sl
      let db := bounds dst x.dstride x.rows dl
      cpIssue { s.newCp kind mode sc with dst := dst, src := src, count := x.rowBytes, rows := x.rows, sstride := x.sstride, dstride := x.dstride }
        [dstOperand db.1 db.2 (mode == 1 || mode == 3 || x.kind == 2),
         { srcOperand sb.1 sb.2 mode with tags := mode == 2 || x.kind == 1, peer := x.kind != 1 }] cw s

/-- CP.COPY2 (R283): ALIGN of the operands, the faults of the descriptor's read, DESC, ALIGN of the strides, COUNT, then the other checks of
R281, an order the spec leaves open. (DEDUCED: log entry 25; DESIGN CHOICE: log entry 75.) -/
def execCpCopy2 (d a b : Reg) (w : Bool) (c : Reg) (mode : BitVec 2) (sc : Scope) (s : State) : Out :=
  withRegs [gRef a, gRef b, gRef c, gRef d] [] w s (s.cpRoom
    (let h := s.hart
     match alignOps [h.gr d, h.gr a, h.gr b, h.gr c] with
     | some t => trap t s
     | none =>
       loadThen (descAcc (h.gr b) h.pc) s fun s v =>
         if descBad v (h.gr a) (h.gr d) mode.toNat then trap (mkTrap cENGINE 0x34) s
         else cp2 (descOf v) (h.gr d) (h.gr a) (h.gr c) mode.toNat sc s))

/-- CP.WAIT: an acquire at its scope (R290). -/
def execCpWait (sc : Scope) (s : State) : Out :=
  if s.hart.cps ≠ [] then waitAt s
  else .next (retire (if Scope.wide sc then s.dropL1 s.focus.tile else s))

end Sys2Proof.Machine
end

