-- ==== Sys2Proof/Machine/Bond.lean ====
section
/-!
DEFINITION. The bonded die (R96-R101): key slots, the tweaks and the ciphertext of its 64-byte units, and the units of granules.
-/

namespace Sys2Proof.Machine

/-! ## Key slots (R99) -/

/-- The number of the key slot that holds a tableau's key. -/
def Cluster.keyOf (c : Cluster) (t : BitVec 16) : Option (BitVec 2) :=
  [(0 : BitVec 2), 1, 2, 3].find? fun i => match c.keys.getD i.toNat none with
    | some k => decide (k.tab = t)
    | none => false

/-- A key slot that holds no key. -/
def Cluster.freeKeySlot (c : Cluster) : Option (BitVec 2) := [(0 : BitVec 2), 1, 2, 3].find? fun i => (c.keys.getD i.toNat none).isNone

/-- Firmware loads a tableau's key into a free slot, unless the cluster holds it. -/
def Cluster.loadKey (k : KeySlot) (c : Cluster) : Cluster :=
  match c.keyOf k.tab, c.freeKeySlot with
  | none, some i => { c with keys := c.keys.setIfInBounds i.toNat (some k) }
  | _, _ => c

/-- Zeroes the slots of the tableaux that a test picks. -/
def Cluster.dropKeys (p : BitVec 16 → Bool) (c : Cluster) : Cluster :=
  { c with keys := c.keys.map fun k => match k with
      | some k => if p k.tab then none else some k
      | none => none }

/-- The key of a tableau as a cluster's slot takes it. -/
def State.keysOf (s : State) (t : BitVec 16) : KeySlot :=
  match s.tab? t with
  | some x => { tab := t, k1 := x.xts.1, k2 := x.xts.2 }
  | none => { tab := t, k1 := 0, k2 := 0 }

/-! ## Units (R98) -/

/-- A unit under a key and a tweak, as it stands on the bonded die. -/
def KeySlot.encrypt (k : KeySlot) (tweak : Nat) (x : VWord) : VWord :=
  BitVec.ofNat 512 (bytesNat (xtsEncrypt (natBytes 32 k.k1.toNat) (natBytes 32 k.k2.toNat) tweak (natBytes 64 x.toNat)))

/-- A unit read back into the logic wafer. -/
def KeySlot.decrypt (k : KeySlot) (tweak : Nat) (x : VWord) : VWord :=
  BitVec.ofNat 512 (bytesNat (xtsDecrypt (natBytes 32 k.k1.toNat) (natBytes 32 k.k2.toNat) tweak (natBytes 64 x.toNat)))

/-- The tweak of a B-store unit. -/
def bTweak (gid u : Nat) : Nat := gid * 4096 + u

/-- The tweak of a shadow unit: the dense vtile index, the context and the unit. -/
def shadowTweak (i c u : Nat) : Nat := 2 ^ 127 + i * 2 ^ 23 + c * 2 ^ 17 + u

/-- The context number of the slot that hart j maps under a name. -/
def slotContext (j : BitVec 2) (n : KReg) : Nat := 1 + 8 * j.toNat + n.toNat

/-! ## Granules (R97) -/

/-- The key a granule's units are read and written under: that of its key slot. -/
def State.granuleKey (s : State) (g : Granule) : KeySlot :=
  match g.cluster with
  | some c => ((s.cluster c).keys.getD g.key.toNat none).getD (s.keysOf g.tab)
  | none => s.keysOf g.tab

/-- The data of unit u. -/
def Granule.unit (g : Granule) (k : KeySlot) (gid u : Nat) : VWord :=
  match find u g.units with
  | some x => k.decrypt (bTweak gid u) x
  | none => 0

/-- Writes unit u. -/
def Granule.setUnit (k : KeySlot) (gid u : Nat) (x : VWord) (g : Granule) : Granule :=
  { g with units := if x = 0 then del u g.units else put u (k.encrypt (bTweak gid u) x) g.units }

/-- Bytes [off, off + len) of column j as a number. -/
def Granule.colBytes (g : Granule) (k : KeySlot) (gid j off len : Nat) : Nat :=
  ((List.range ((off % 64 + len + 63) / 64)).foldr (fun i acc => (g.unit k gid (16 * j + off / 64 + i)).toNat + 2 ^ 512 * acc) 0) /
    2 ^ (8 * (off % 64)) % 2 ^ (8 * len)

/-- Writes the first len bytes of a column. -/
def Granule.setCol (k : KeySlot) (gid j len x : Nat) (g : Granule) : Granule :=
  (List.range ((len + 63) / 64)).foldl (fun g i => g.setUnit k gid (16 * j + i) (BitVec.ofNat 512 (x / 2 ^ (512 * i)))) g

end Sys2Proof.Machine
end

