-- ==== Sys2Proof/Machine/Matrix.lean ====
section
/-!
DEFINITION. The matrix engine (R158, R293-R321, R421): slots and their owners, the issue checks of its forms, the lanes and
their choice, and the units of its commands.
-/

namespace Sys2Proof.Machine

/-! ## Clusters and slots -/

/-- The cluster of a physical tile number (R2). -/
def clusterOf (p : Nat) : Nat := p / 112 / 2 * 56 + p % 112 / 2

/-- The cluster a tile stands on. -/
def State.clusterAt (s : State) (t : TileId) : Nat := clusterOf (s.mapEntry t).ptile

def State.modSlot (ref : SlotRef) (f : AccSlot → AccSlot) (s : State) : State :=
  s.modCluster ref.cluster fun c => { c with slots := (c.slots.set! ref.slot (f (c.slots.getD ref.slot AccSlot.reset))) }

def State.slotAt (s : State) (ref : SlotRef) : AccSlot := (s.cluster ref.cluster).slots.getD ref.slot AccSlot.reset

/-- The slot a command reaches, through its hart's map only (R298). -/
def State.slotRef (s : State) (c : MxCmd) : Option SlotRef := find c.n (s.hartOf c.hart).slots

/-- An element of the slot a command names. A command that starts behind the MX.FREE of its slot has none: its elements
are free values (DESIGN CHOICE, log entry 9). -/
def State.elemAt (s : State) (c : MxCmd) (i j : Nat) : Nat :=
  match s.slotRef c with
  | some r => (look 0 (256 * i + j) (s.slotAt r).acc).toNat
  | none => (Config.freeElem s.tick i j).toNat

/-- The elements of a slot changed at keys in order. -/
def setElems (xs : List (Nat × Nat)) (a : AccSlot) : AccSlot :=
  { a with acc := xs.foldl (fun m p => store 0 p.1 (BitVec.ofNat 40 p.2) m) a.acc }

def State.setElems (c : MxCmd) (xs : List (Nat × Nat)) (s : State) : State :=
  match s.slotRef c with
  | some r => s.modSlot r (Machine.setElems xs)
  | none => s

/-! ## Commands -/

/-- The slot name a command uses. -/
def MxCmd.slot? (c : MxCmd) : Option KReg :=
  match c.kind with
  | .bld => none
  | .sync _ => none
  | _ => some c.n

/-- The lanes (R294, R300): array 0, slot 1, B 2. A word-form MX.SYNC runs on none. -/
def MxCmd.lane (c : MxCmd) : Option Nat :=
  match c.kind with
  | .mac _ _ => some 0
  | .delta _ _ => some 0
  | .qry _ => some 0
  | .bld => some 2
  | .sync _ => none
  | _ => some 1

/-- A command that reads or writes memory. -/
def MxCmd.memory (c : MxCmd) : Bool :=
  match c.kind with
  | .mac _ _ | .delta _ _ | .qry _ | .bld | .spill | .load => true
  | _ => false

def MxCmd.engCtx (c : MxCmd) : EngCtx := { hart := c.hart, user := c.user, root := c.root }

/-! The format context (R296) -/

def ctxA (w : Word) : Nat := bits w 0 5
def ctxB (w : Word) : Nat := bits w 8 5
def ctxO (w : Word) : Nat := bits w 16 5
def ctxSat (w : Word) : Bool := w.getLsbD 21
def ctxNm (w : Word) : Bool := w.getLsbD 22

/-- The width m of an operand format (R186). -/
def fmtM (code : Nat) : Nat :=
  match fmtOf code with
  | .block m _ => m
  | .flt .f64 => 53 | .flt .f32 => 24 | .flt .f16 => 11 | .flt .bf16 => 8 | .flt .e4m3 => 4 | .flt .e5m2 => 3
  | .flt .a40 => 32
  | .int _ n => n
  | .pm1 => 1
  | .none => 1

def isBlock (code : Nat) : Bool := decide (code ≤ 0x0D)

def isFloat (code : Nat) : Bool := match fmtOf code with | .flt _ => true | _ => false

/-- Elements of K in one block line of a format; 32 for others. -/
def fmtLine (code : Nat) : Nat :=
  match fmtOf code with
  | .block m l => lineK m l
  | _ => 32

/-- Kmax (R303). -/
def kMax (code : Nat) : Nat :=
  match fmtOf code with
  | .block m l => 8 * lineK m l
  | f => 8192 / f.laneBits

/-- Bytes of a run of n elements (R188, R189). -/
def runBytes (code n : Nat) : Nat :=
  match fmtOf code with
  | .block m l => 128 * ((n + lineK m l - 1) / lineK m l)
  | f => (n * f.laneBits + 7) / 8

/-- The byte spans of a run that hold its elements lo to hi - 1: of each block line its header and those mantissas. -/
def runSpans (code lo hi : Nat) : List (Nat × Nat) :=
  match fmtOf code with
  | .block m l =>
    let per := lineK m l
    (List.range ((hi - 1) / per + 1 - lo / per)).flatMap fun i =>
      let n := lo / per + i
      let a := Nat.max lo (n * per) - n * per
      let b := Nat.min hi ((n + 1) * per) - n * per
      [(128 * n, 8), (128 * n + 8 + a * m / 8, (b * m + 7) / 8 - a * m / 8)]
  | f => [(lo * f.laneBits / 8, (hi * f.laneBits + 7) / 8 - lo * f.laneBits / 8)]

/-- The values of elements lo to hi - 1 of a run, given its bytes by span offset. F64, F32, F16 and BF16 operands carry the NaN and the
infinities of R193 into the products, beside those of E4M3 and E5M2 that R203 names. (DEDUCED: log entry 60.) -/
def runVals (code : Nat) (nm : Bool) (lo hi : Nat) (get : Nat → Nat) : List Val :=
  match fmtOf code with
  | .block m l =>
    let per := lineK m l
    (List.range (hi - lo)).map fun i =>
      let e := lo + i
      let n := e / per
      let a := Nat.max lo (n * per) - n * per
      let start := 128 * n + 8 + a * m / 8
      let code := get start / 2 ^ (e % per * m - 8 * (a * m / 8)) % 2 ^ m
      let M := intOf true m code
      .fin (M < 0) M.natAbs (((get (128 * n) / 2 ^ (8 * (e % per / blockK l)) % 256 : Nat) : Int) - 127 - ((m : Int) - 1))
  | f =>
    let w := f.laneBits
    let b0 := lo * w / 8
    (List.range (hi - lo)).map fun i => f.decode nm (get b0 / 2 ^ ((lo + i) * w - 8 * b0) % 2 ^ w)

/-! ## Reading and writing memory -/

/-- What an engine's reading answers: the values, a failure with its reason, or a home that serves no access now. -/
inductive EngRead (α : Type) where
  | ok (a : α)
  | fail (reason : Nat)
  | hold

abbrev Pages := List (Word × Home)

/-- Bytes [off, off + len) of a run, by whole words. -/
def State.readRun (c : EngCtx) (base : Word) (off len : Nat) (ps : Pages) (s : State) : State × Pages × EngRead Nat :=
  let a := base + BitVec.ofNat 64 off
  let sh := a.toNat % 8
  match s.readWords c (a - BitVec.ofNat 64 sh) ((sh + len + 7) / 8) 0 ps with
  | (s, ps, .ok bs) => (s, ps, .ok (leNat ((bs.drop sh).take len)))
  | (s, ps, .poison _) => (s, ps, .fail 0x30)
  | (s, ps, .stop _ r) => (s, ps, .fail r)
  | (s, ps, .hold) => (s, ps, .hold)

/-- Reads spans of a run. -/
def State.readSpans (c : EngCtx) (base : Word) : List (Nat × Nat) → Pages → State → State × Pages × EngRead (List (Nat × Nat))
  | [], ps, s => (s, ps, .ok [])
  | (off, len) :: rest, ps, s =>
    match s.readRun c base off len ps with
    | (s, ps, .ok x) =>
      match State.readSpans c base rest ps s with
      | (s, ps, .ok xs) => (s, ps, .ok ((off, x) :: xs))
      | r => r
    | (s, ps, .fail r) => (s, ps, .fail r)
    | (s, ps, .hold) => (s, ps, .hold)

/-- The values of elements lo to hi - 1 of each of the runs at the addresses. -/
def State.readRuns (c : EngCtx) (code : Nat) (nm : Bool) (lo hi : Nat) : List Word → Pages → State →
    State × Pages × EngRead (List (List Val))
  | [], ps, s => (s, ps, .ok [])
  | a :: rest, ps, s =>
    match s.readSpans c a (runSpans code lo hi) ps with
    | (s, ps, .ok xs) =>
      match State.readRuns c code nm lo hi rest ps s with
      | (s, ps, .ok vs) => (s, ps, .ok (runVals code nm lo hi (fun o => findD o xs 0) :: vs))
      | r => r
    | (s, ps, .fail r) => (s, ps, .fail r)
    | (s, ps, .hold) => (s, ps, .hold)

/-- The places of n words from an address on. -/
def State.placesOf (c : EngCtx) : Nat → Word → Pages → State → State × Pages × EngRead (List Place)
  | 0, _, ps, s => (s, ps, .ok [])
  | n + 1, va, ps, s =>
    match s.engineTr c needW ps va with
    | (s, ps, .ok p) =>
      match State.placesOf c n (va + 8) ps s with
      | (s, ps, .ok qs) => (s, ps, .ok (p :: qs))
      | r => r
    | (s, ps, .stop r) => (s, ps, .fail r)
    | (s, ps, .hold) => (s, ps, .hold)

/-- Whole-word plain writes that leave each word FULL (R56); false where one did not go through (R37). -/
def State.putBytesAt (o : HartId) : List Place → List Byte → State → State × Bool
  | [], _, s => (s, true)
  | p :: ps, bs, s =>
    let r := s.engineWrite o p .write (leNat (bs.take 8))
    let q := State.putBytesAt o ps (bs.drop 8) r.1
    (q.1, r.2 && q.2)

/-! ## Completion (R318) -/

def State.mx? (s : State) (id : Nat) : Option MxCmd := (s.harts.flatMap fun p => p.2.mxq).find? fun c => c.id == id

def State.setMx (c : MxCmd) (s : State) : State :=
  s.modHart c.hart fun h => { h with mxq := h.mxq.map fun x => if x.id = c.id then c else x }

def Cluster.laneOf (c : Cluster) (l : Nat) : Lane := if l = 0 then c.array else if l = 1 then c.slot else c.bload

def Cluster.setLane (l : Nat) (x : Lane) (c : Cluster) : Cluster :=
  if l = 0 then { c with array := x } else if l = 1 then { c with slot := x } else { c with bload := x }

/-- Frees the lane that runs a command. -/
def State.freeLane (c : MxCmd) (s : State) : State :=
  let f := fun (l : Lane) => if l.run = some (c.hart, c.id) then { l with run := none } else l
  { s with clusters := s.clusters.map fun p => (p.1, { p.2 with array := f p.2.array, slot := f p.2.slot, bload := f p.2.bload }) }

/-- The error record after a failure. -/
def MxErr.fail (reason index : Nat) (e : MxErr) : MxErr :=
  { e with reason := if e.nerr = 0 then reason else e.reason, first := if e.nerr = 0 then index else e.first, nerr := Nat.min (e.nerr + 1) 255 }

/-- A granule zeroed: nothing is loaded (R304). -/
def Granule.zeroed (g : Granule) : Granule := { g with k := 0, n := 0, units := [] }

/-- A command completes, with a failure's reason or none. An MX.BLD that fails leaves its name invalid with a zeroed granule
(R304, R421). -/
def State.mxDone (c : MxCmd) (err : Option Nat) (s : State) : State :=
  let s := (s.freeLane c).unclaimAll c.hart.tile c.id
  let s := s.modHart c.hart fun h => { h with mxq := h.mxq.filter fun x => x.id != c.id }
  match err with
  | none => s
  | some r =>
    let s := s.modHart c.hart fun h => { h with mxErr := h.mxErr.fail r c.index }
    match c.kind, c.name with
    | .bld, some n =>
      let s := match find c.gid s.granules with
        | some g => { s with granules := put c.gid g.zeroed s.granules }.bondWritten c.gid 0 4096
        | none => s
      -- a later MX.BLD of the name has recorded what it will load
      if (s.hartOf c.hart).mxq.any fun x => decide (x.kind = .bld) && decide (x.gid = c.gid) then s
      else
        s.modTile c.hart.tile fun t => match find n t.bmap with
          | some b => if b.gid = c.gid then { t with bmap := put n { b with k := 0 } t.bmap } else t
          | none => t
    | _, _ => s

/-- A unit's end: the command goes on with its next unit, or completes. -/
def State.mxUnit (c : MxCmd) (units : Nat) (s : State) : State :=
  let c := { c with progress := c.progress + 1 }
  if c.progress < units then s.setMx c else s.mxDone c none

/-- Follows a read of a unit: what to do with the values; a failure ends the command; a hold leaves it as it was. -/
def unitThen {α : Type} (c : MxCmd) (r : State × Pages × EngRead α) (k : State → MxCmd → α → State) : State :=
  match r with
  | (s, ps, .ok a) => k s { c with pages := ps } a
  | (s, ps, .fail e) => s.mxDone { c with pages := ps } (some e)
  | (s, ps, .hold) => s.setMx { c with pages := ps }

/-- Follows the writes of a unit: where one met a page that is not VALID the command ends with reason 0x30, as for a read there (R37, R332;
DEDUCED, log entry 72). -/
def putThen (c : MxCmd) (r : State × Bool) (k : State → State) : State := if r.2 then k r.1 else r.1.mxDone c (some 0x30)

/-- A unit of a command of the right kind that runs on a resident tile. -/
def onMx (op : Nat) (s : State) (ok : MxKind → Bool) (f : MxCmd → State) : Out :=
  .next (match s.mx? op with
    | some c => if c.started && ok c.kind && s.resident c.hart.tile then f c else s
    | none => s)

/-! ## Sums (R197, R198, R311) -/

/-- An exact sum: zero operands of one sign keep it, an exact zero sum of opposite signs is +0. -/
def sumVals (vs : List Val) : Val :=
  match special vs with
  | some v => v
  | none => if vs != [] && vs.all fun v => match v with | .fin n m _ => n && m == 0 | _ => false then .fin true 0 0 else sumFin vs

def dotVals (xs ys : List Val) : Val := sumVals (List.zipWith Val.mul xs ys)

/-- A value rounded to A40, as a value. -/
def r40 (v : Val) : Val := a40 (roundA40 v)

/-! ## Products (R306, R307) -/

def MxCmd.macK (c : MxCmd) : Nat := bits c.wa 16 16
def MxCmd.macN (c : MxCmd) : Nat := bits c.wa 8 8 + 1
def MxCmd.macM (c : MxCmd) : Nat := bits c.wa 0 8 + 1
def MxCmd.macStride (c : MxCmd) : Word := atBits 0 32 (bits c.wb 32 32)
def MxCmd.macK0 (c : MxCmd) : Nat := bits c.wb 16 16

/-- Row r of operand A. -/
def MxCmd.rowAt (c : MxCmd) (r : Nat) : Word := c.wd + BitVec.ofNat 64 r * c.macStride

/-- An uncorrectable error in the B-store units of these columns and spans (R101). -/
def State.bondBad (s : State) (gid n : Nat) (spans : List (Nat × Nat)) : Bool :=
  s.latentUE.any fun k => (List.range n).any fun j => spans.any fun p =>
    decide (bondKey gid (16 * j + p.1 / 64) ≤ k) && decide (k ≤ bondKey gid (16 * j + (p.1 + p.2 - 1) / 64))

/-- The record of such an error (R382). -/
def State.logBond (h : HartId) (s : State) : State :=
  s.log { kind := 0x06, source := 3, fatal := false, count := 1, time := s.now, tab := h.tile.tab, vt := h.tile.vt, hart := h.num,
          va := 0, dpa := (s.mapEntry h.tile).ptile, detail := 0 }

/-- B(k, j) for the k of a group: the value zero, in every format, beyond the K and N that the granule is loaded with. (DEDUCED: log
entry 61.) -/
def State.operandB (s : State) (c : MxCmd) (lo hi : Nat) : List (List Val) :=
  let fmt := ctxB c.ctx
  let e0 := c.macK0 + lo
  let zeros := fun (n : Nat) => List.replicate n (Val.fin false 0 0)
  (List.range c.macN).map fun j =>
    match c.entry, c.entry.bind fun b => find b.gid s.granules with
    | some b, some g =>
      let e1 := if j < g.n then Nat.min (c.macK0 + hi) g.k else e0
      if e0 < e1 then
        let spans := (runSpans fmt e0 e1).map fun p => (p.1, g.colBytes (s.granuleKey g) b.gid j p.1 p.2)
        runVals fmt (ctxNm c.ctx) e0 e1 (fun o => findD o spans 0) ++ zeros (hi - lo - (e1 - e0))
      else zeros (hi - lo)
    | _, _ => zeros (hi - lo)

/-- The group's products added into the slot (R201, R307). `rows` holds A by rows, or by K when transposed. -/
def State.addGroup (c : MxCmd) (tr : Bool) (lo hi : Nat) (rows : List (List Val)) (s : State) : State :=
  let B := s.operandB c lo hi
  let fl := isFloat (ctxA c.ctx) || isFloat (ctxB c.ctx)
  let zero := Val.fin false 0 0
  let aRow := fun (i : Nat) => if tr then rows.map fun r => r.getD i zero else rows.getD i []
  s.setElems c ((List.range c.macM).flatMap fun i => (List.range c.macN).map fun j =>
    (256 * i + j, accAdd (s.elemAt c i j) (groupSum fl (List.zipWith Val.mul (aRow i) (B.getD j [])))))

/-- `.z`: every element the command names is +0 before its first group is read (R307). -/
def State.zeroFirst (c : MxCmd) (z : Bool) (s : State) : State :=
  if z && c.progress == 0 then
    s.setElems c ((List.range c.macM).flatMap fun i => (List.range c.macN).map fun j => (256 * i + j, 0))
  else s

/-- MX_MAC_GROUP: one group of 32 K-elements (R307); an uncorrectable error in a B-store unit it needs stops the command
before it. -/
def execMxMacGroup (op : Nat) (s : State) : Out :=
  onMx op s (fun k => match k with | .mac _ _ => true | _ => false) fun c =>
    match c.kind with
    | .mac tr z =>
      let K := c.macK
      let lo := 32 * c.progress
      let hi := Nat.min (lo + 32) K
      let fmt := ctxA c.ctx
      let s := s.zeroFirst c z
      let bad := match c.entry with
        | some b => s.bondBad b.gid (Nat.min c.macN b.n) (runSpans (ctxB c.ctx) (c.macK0 + lo) (c.macK0 + hi))
        | none => false
      if bad then (s.logBond c.hart).mxDone c (some 0x38)
      else
        let r := if tr then s.readRuns c.engCtx fmt (ctxNm c.ctx) 0 c.macM ((List.range (hi - lo)).map fun i => c.rowAt (lo + i)) c.pages
          else s.readRuns c.engCtx fmt (ctxNm c.ctx) lo hi ((List.range c.macM).map c.rowAt) c.pages
        unitThen c r fun s c rows => (s.addGroup c tr lo hi rows).mxUnit c ((K + 31) / 32)
    | _ => s

/-! ## Fast weights (R310-R312) -/

def MxCmd.tstride (c : MxCmd) : Nat := bits c.wa 32 32
def MxCmd.tokens (c : MxCmd) : Nat := bits c.wa 16 4 + 1
def MxCmd.dk (c : MxCmd) : Nat := bits c.wa 8 8 + 1
def MxCmd.dv (c : MxCmd) : Nat := bits c.wa 0 8 + 1

/-- Lk or Lv: a run of n elements in whole 64-byte units. -/
def padded (n : Nat) (bf : Bool) : Nat := (n * (if bf then 2 else 4) + 63) / 64 * 64

/-- Bytes of a token record of MX.DELTA. -/
def deltaBytes (dk dv : Nat) (bf r : Bool) : Nat := 64 + padded dk bf + padded dv bf + (if r then padded dk bf else 0)

/-- The readout of token t. -/
def MxCmd.readout (c : MxCmd) (t : Nat) : Word := c.wb + BitVec.ofNat 64 (t * padded c.dv false)

/-- Words of one readout: the last holds zero bytes above an odd element. -/
def MxCmd.outWords (c : MxCmd) : Nat := (c.dv + 1) / 2

/-- n elements of F32 or BF16 at an offset of a record. -/
def vecAt (x : Nat) (bf : Bool) (off n : Nat) : List Val :=
  let w := if bf then 16 else 32
  (List.range n).map fun i => decodeF (if bf then .bf16 else .f32) false (x / 2 ^ (8 * off + w * i) % 2 ^ w)

/-- Row i of the state as values. -/
def State.stateRow (s : State) (c : MxCmd) (i : Nat) : List Val := (List.range c.dk).map fun j => a40 (s.elemAt c i j)

/-- The readout bytes of a query. -/
def State.readoutBytes (s : State) (c : MxCmd) (q : List Val) : List Byte :=
  ((List.range c.dv).flatMap fun i => leBytes 4 (encodeF .f32 false false (dotVals (s.stateRow c i) q))) ++
    List.replicate (8 * c.outWords - 4 * c.dv) 0

/-- Frees the granules of an extent that a test picks by their first address. -/
def State.freeSpan (c : MxCmd) (va len : Nat) (p : Nat → Bool) (s : State) : State :=
  (List.range ((va % 64 + len + 63) / 64)).foldl (fun s i =>
    let g := va / 64 * 64 + 64 * i
    match s.peekHome c.engCtx (BitVec.ofNat 64 g) with
    | some h => if p g then s.unclaim c.hart.tile c.id h else s
    | none => s) s

/-- Writes the readout of token t and frees its granules, except one that the next token's readout still writes (R139, R311). -/
def State.putReadout (c : MxCmd) (t : Nat) (places : List Place) (q : List Val) (s : State) : State × Bool :=
  let r := s.putBytesAt c.hart places (s.readoutBytes c q)
  (r.1.freeSpan c (c.readout t).toNat (8 * c.outWords) fun g =>
    t + 1 == c.tokens || g != (c.readout (t + 1)).toNat / 64 * 64, r.2)

/-- The elements of one token's update, from its record (R311). -/
def State.deltaElems (s : State) (c : MxCmd) (bf : Bool) (x : Nat) : List (Nat × Nat) :=
  let lk := padded c.dk bf
  let alpha := decodeF .f32 false (x % 2 ^ 32)
  let beta := decodeF .f32 false (x / 2 ^ 32 % 2 ^ 32)
  let k := vecAt x bf 64 c.dk
  let v := vecAt x bf (64 + lk) c.dv
  (List.range c.dv).flatMap fun i =>
    let row := s.stateRow c i
    let u := r40 (dotVals row k)
    let w := r40 (sumVals [v.getD i .nan, (alpha.mul u).neg])
    let bw := beta.mul w
    (List.range c.dk).map fun j =>
      (256 * i + j, roundA40 (sumVals [alpha.mul (row.getD j .nan), bw.mul (k.getD j .nan)]))

/-- MX_DELTA_TOKEN: one token (R311). -/
def execMxDeltaToken (op : Nat) (s : State) : Out :=
  onMx op s (fun k => match k with | .delta _ _ => true | _ => false) fun c =>
    match c.kind with
    | .delta bf r =>
      let t := c.progress
      unitThen c (s.readRun c.engCtx (c.wd + BitVec.ofNat 64 (t * c.tstride)) 0 (deltaBytes c.dk c.dv bf r) c.pages) fun s c x =>
        unitThen c (s.placesOf c.engCtx (if r then c.outWords else 0) (c.readout t) c.pages) fun s c places =>
          let s := s.setElems c (s.deltaElems c bf x)
          let q := vecAt x bf (64 + padded c.dk bf + padded c.dv bf) c.dk
          putThen c (if r then s.putReadout c t places q else (s, true)) fun s => s.mxUnit c c.tokens
    | _ => s

/-- MX_QRY_QUERY: one readout (R312). -/
def execMxQryQuery (op : Nat) (s : State) : Out :=
  onMx op s (fun k => match k with | .qry _ => true | _ => false) fun c =>
    match c.kind with
    | .qry bf =>
      let t := c.progress
      unitThen c (s.readRun c.engCtx (c.wd + BitVec.ofNat 64 (t * c.tstride)) 0 (padded c.dk bf) c.pages) fun s c x =>
        unitThen c (s.placesOf c.engCtx c.outWords (c.readout t) c.pages) fun s c places =>
          putThen c (s.putReadout c t places (vecAt x bf 0 c.dk)) fun s => s.mxUnit c c.tokens
    | _ => s

/-! ## The B-store (R302-R304) -/

def MxCmd.bldK (c : MxCmd) : Nat := bits c.wa 0 16
def MxCmd.bldN (c : MxCmd) : Nat := bits c.wa 16 8 + 1
def MxCmd.bldStride (c : MxCmd) : Word := atBits 0 32 (bits c.wa 32 32)

/-- n codes of w bits, packed (R188). -/
def packBits (w : Nat) (xs : List Nat) : Nat := xs.foldr (fun x acc => x % 2 ^ w + 2 ^ w * acc) 0

/-- A block line that holds k elements, as a number: the header bytes of blocks that hold none of them, the mantissas past them and the
bits past the run are zero (R189). -/
def lineNat (m : Nat) (long : Bool) (k x : Nat) : Nat :=
  x % 2 ^ (8 * ((k + blockK long - 1) / blockK long)) + 2 ^ 64 * (x / 2 ^ 64 % 2 ^ (k * m))

/-- The bytes of a column slice from a run, as a number: what is beyond K is zero (R189, R303, R304). -/
def colNat (code K x : Nat) : Nat :=
  match fmtOf code with
  | .block m l =>
    let per := lineK m l
    packBits 1024 ((List.range ((K + per - 1) / per)).map fun i => lineNat m l (Nat.min per (K - i * per)) (x / 2 ^ (1024 * i) % 2 ^ 1024))
  | f => x % 2 ^ (K * f.laneBits)

/-- MX_BLD_COLUMN: one column is read and written into the granule as ciphertext (R98); or a released granule is zeroed and becomes FREE. -/
def execMxBldColumn (op : Nat) (s : State) : Out :=
  onMx op s (fun k => k == .bld) fun c =>
    if c.bldK = 0 then ({ s with granules := del c.gid s.granules }.bondWritten c.gid 0 4096).mxDone c none
    else
      let fmt := ctxB c.ctx
      let len := runBytes fmt c.bldK
      let j := c.progress
      unitThen c (s.readRun c.engCtx (c.wd + BitVec.ofNat 64 j * c.bldStride) 0 len c.pages) fun s c x =>
        let s := match find c.gid s.granules with
          | some g =>
            let g := { (if j = 0 then g.zeroed else g) with k := c.bldK, n := j + 1 }
            { s with granules := put c.gid (g.setCol (s.granuleKey g) c.gid j len (colNat fmt c.bldK x)) s.granules }.bondWritten c.gid
              (if j = 0 then 0 else 16 * j) (if j = 0 then 4096 else (len + 63) / 64)
          | none => s
        s.mxUnit c c.bldN

/-! ## State images (R313-R316) -/

def MxCmd.imgRows (c : MxCmd) : Nat := bits c.wa 0 8 + 1
def MxCmd.imgCols (c : MxCmd) : Nat := bits c.wa 8 8 + 1
def MxCmd.imgFmt (c : MxCmd) : Nat := bits c.wa 16 5
def MxCmd.imgHdr (c : MxCmd) : ImgHdr := { fmt := c.imgFmt, rows := c.imgRows, cols := c.imgCols }

/-- An element's code in an image format. -/
def imgCode (fmt x : Nat) : Nat :=
  match fmt with
  | 0x0F => encodeF .f32 false false (a40 x)
  | 0x11 => encodeF .bf16 false false (a40 x)
  | _ => x

/-- Bytes [off, off + n) of the payload of the slot a command spills. -/
def State.payload (s : State) (c : MxCmd) (off n : Nat) : List Byte :=
  let e := imgElem c.imgFmt
  (List.range n).map fun i =>
    let b := off + i
    if b < c.imgHdr.plen then
      BitVec.ofNat 8 (imgCode c.imgFmt (s.elemAt c (b / e / c.imgCols) (b / e % c.imgCols)) / 2 ^ (8 * (b % e)))
    else 0

/-- The header of the image (R313). -/
def State.imgHeader (s : State) (c : MxCmd) : List Byte :=
  let x := match s.slotRef c with
    | some r => ((s.slotAt r).gen.toNat, b2n ((s.slotAt r).st == SlotState.pinned))
    | none => ((Config.freeGen s.tick).toNat, b2n (Config.freePinned s.tick))
  leBytes 8 imgMagic ++ leBytes 2 1 ++ leBytes 2 (bits (s.syRead c.hart 0x23) 16 8) ++ leBytes 1 c.imgFmt ++ leBytes 1 x.2 ++
    leBytes 2 0 ++ leBytes 2 c.imgRows ++ leBytes 2 c.imgCols ++ leBytes 2 x.1 ++ leBytes 2 0 ++ leBytes 4 c.imgHdr.plen ++ leBytes 36 0

/-- Payload units of a spill. -/
def MxCmd.spillUnits (c : MxCmd) : Nat := (c.imgHdr.plen8 + 63) / 64

/-- MX_SPILL_UNIT: a 64-byte unit of the payload, or at the end the header and the TAG (R315). -/
def execMxSpillUnit (op : Nat) (s : State) : Out :=
  onMx op s (fun k => k == .spill) fun c =>
    let u := c.progress
    let p8 := c.imgHdr.plen8
    if u < c.spillUnits then
      let n := Nat.min 64 (p8 - 64 * u)
      let va := c.wd + BitVec.ofNat 64 (64 + 64 * u)
      unitThen c (s.placesOf c.engCtx (n / 8) va c.pages) fun s c places =>
        putThen c (s.putBytesAt c.hart places (s.payload c (64 * u) n)) fun s =>
          -- the granule that this unit ends is wholly written, unless the header lies in it
          let g := (va.toNat + n) / 64 * 64 - 64
          (if c.wd.toNat + 64 ≤ g then s.freeSpan c g 64 fun _ => true else s).mxUnit c (c.spillUnits + 1)
    else
      match s.imageKey c.hart.tile.tab ((bits c.wb 0 4 : Nat) : BitVec 4) with
      | none => s.mxDone c (some 0x36)
      | some key =>
        unitThen c (s.placesOf c.engCtx 8 c.wd c.pages) fun s c hp =>
          unitThen c (s.placesOf c.engCtx 2 (c.wd + BitVec.ofNat 64 (64 + p8)) c.pages) fun s c tp =>
            let hd := s.imgHeader c
            let tag := imageTag key (hd ++ s.payload c 0 p8)
            putThen c (s.putBytesAt c.hart (hp ++ tp) (hd ++ tag)) fun s => s.mxUnit c (c.spillUnits + 1)

/-- The value of a payload element. -/
def imgValue (fmt x : Nat) : Nat :=
  match fmt with
  | 0x0F => roundA40 (decodeF .f32 false x)
  | 0x11 => roundA40 (decodeF .bf16 false x)
  | _ => x

/-- The elements of a checked image, every other one +0 (R316). -/
def imgElems (h : ImgHdr) (bs : List Byte) : List (Nat × BitVec 40) :=
  let e := imgElem h.fmt
  (List.range h.rows).flatMap fun i => (List.range h.cols).filterMap fun j =>
    let x : BitVec 40 := BitVec.ofNat 40 (imgValue h.fmt (field bs (64 + (i * h.cols + j) * e) e))
    if x = 0 then none else some (256 * i + j, x)

/-- MX_LOAD_COMMIT: the image is read, checked and committed (R316). -/
def execMxLoadCommit (op : Nat) (s : State) : Out :=
  onMx op s (fun k => k == .load) fun c =>
    match s.readImage c.engCtx (bits c.wb 0 4 : Nat) c.wd c.wa.toNat c.pages with
    | (s, ps, .hold) => s.setMx { c with pages := ps }
    | (s, ps, .bad _ r) => s.mxDone { c with pages := ps } (some r)
    | (s, _, .ok h bs) =>
      let s := match s.slotRef c with
        | some r => s.modSlot r fun a => { a with acc := imgElems h bs }
        | none => s
      s.mxDone c none

/-! ## Rows of a slot (R308, R309) -/

/-- The block line of values (R189, R191). -/
def blockLine (m : Nat) (long : Bool) (xs : List Val) : Nat :=
  let bk := blockK long
  let bs := (List.range (blocksPerLine m long)).map fun b => encodeBlock m .a40 ((xs.drop (b * bk)).take bk)
  packBits 8 (bs.map (·.1)) + 2 ^ 64 * packBits m (bs.flatMap (·.2))

/-- The value MX.RD delivers (R308). -/
def State.rowValue (s : State) (c : MxCmd) (hi : Bool) : VWord :=
  let i := bits c.wa 0 8
  let j := bits c.wa 8 8
  let at' := fun (e : Nat) => if j + e ≤ 255 then a40 (s.elemAt c i (j + e)) else .fin false 0 0
  match fmtOf (ctxO c.ctx) with
  | .block m long =>
    let line := blockLine m long ((List.range (lineK m long)).map at')
    BitVec.ofNat 512 (if hi then line / 2 ^ 512 else line)
  | f => BitVec.ofNat 512 (packBits f.laneBits ((List.range (512 / f.laneBits)).map fun e => f.encode (ctxNm c.ctx) (ctxSat c.ctx) (at' e)))

/-- What MX.WR writes (R309). -/
def State.rowWrites (s : State) (c : MxCmd) (add : Bool) : List (Nat × Nat) :=
  let i := bits c.wb 0 8
  let j := bits c.wb 8 8
  match fmtOf (ctxO c.ctx) with
  | .flt f =>
    let w := Fmt.laneBits (.flt f)
    ((List.range (512 / w)).filter fun e => decide (j + e ≤ 255)).map fun e =>
      let x := roundA40 (decodeF f false (c.vv.toNat / 2 ^ (w * e) % 2 ^ f.width))
      (256 * i + j + e, if add then roundA40 ((a40 (s.elemAt c i (j + e))).add (a40 x)) else x)
  | _ => []

/-! ## Starting commands (R294, R295) -/

/-- An earlier command of the hart names the same slot or granule. -/
def MxCmd.conflicts (c e : MxCmd) : Bool :=
  (c.slot?.isSome && c.slot? == e.slot?) || (c.name.isSome && c.name == e.name)

/-- The granule a command loads, releases or multiplies by. -/
def MxCmd.granule (c : MxCmd) : Option Nat :=
  match c.kind with
  | .bld => some c.gid
  | _ => c.entry.map (·.gid)

/-- The granules of a tile with their names: those of its B map, then those that only its queued commands name (R302, R320). -/
def State.granulesOf (s : State) (t : TileId) : List (BitVec 6 × Nat) :=
  ((s.tile t).bmap.map fun b => (b.1, b.2.gid)) ++ t.harts.flatMap fun h => (s.hartOf h).mxq.filterMap fun c =>
    match c.name, c.granule with
    | some n, some g => some (n, g)
    | _, _ => none

/-- The granule of a command stands on its cluster (R319). -/
def State.granuleHere (s : State) (c : MxCmd) : Bool :=
  match c.granule.bind fun gid => find gid s.granules with
  | some g => g.cluster == some (s.clusterAt c.hart.tile)
  | none => true

/-- A command may start: its hart's earlier commands have started, those on its slot or granule have completed, the hart's
earlier accesses are performed when it uses memory (R138), and its slot and granule are in place (R297, R319). -/
def State.mayStart (s : State) (q : List MxCmd) (c : MxCmd) : Bool :=
  let earlier := q.takeWhile fun e => e.id != c.id
  s.resident c.hart.tile && earlier.all (·.started) && !earlier.any c.conflicts && s.granuleHere c &&
    (!c.memory || !s.pendingOp c.hart true true fun n => decide (n < c.id)) &&
    (match s.slotRef c with
     | some r => (s.slotAt r).st != .evicted
     | none => true)

/-- The head of a hart's queue, when it may start on a lane. A word-form MX.SYNC has no lane and never starts, so the commands behind it wait
for its fill (R294, R317; DESIGN CHOICE, log entry 101). -/
def State.headFor (s : State) (lane : Nat) (h : HartId) : Option MxCmd :=
  let q := (s.hartOf h).mxq
  match q.find? fun c => !c.started with
  | some c => if c.lane == some lane && s.mayStart q c then some c else none
  | none => none

/-- The engine time of a command (R295). MX.LOAD's payload is the one its image's header names. A command that a swap suspended is charged the
whole of it again when it starts again (DESIGN CHOICE, log entry 100). -/
def State.mxCost (s : State) (c : MxCmd) : Nat :=
  match c.kind with
  | .mac _ _ => 24 + c.macK * fmtM (ctxA c.ctx) * ((fmtM (ctxB c.ctx) + 7) / 8)
  | .delta _ r => 32 + c.tokens * (160 + 64 * b2n r)
  | .qry _ => 32 + 96 * c.tokens
  | .zero => 160
  | .free => 160
  | .rd _ _ => 2
  | .wr _ => 2
  | .spill => 32 + (c.imgHdr.plen + 63) / 64
  | .load =>
    match s.readWords c.engCtx c.wd (Nat.min c.wa.toNat 64 / 8) 0 c.pages with
    | (_, _, .ok bs) => 256 + ((match imgSize bs with | some h => h.plen | none => 0) + 63) / 64
    | _ => 256
  | .bld => 32 + c.bldN * ((runBytes (ctxB c.ctx) c.bldK + 63) / 64)
  | .sync _ => 0

/-- The tile that stands at a physical place. -/
def State.tileAt (s : State) (p : Nat) : Option TileId :=
  (s.tiles.find? fun q => q.2.entry.st == .resident && q.2.entry.ptile == p).map (·.1)

/-- Hart i of the 16 of a cluster: four of each tile, the tiles by place. (DEDUCED: log entry 34.) -/
def State.clusterHart (s : State) (c i : Nat) : Option HartId :=
  let p := (c / 56 * 2 + i / 8) * 112 + c % 56 * 2 + i / 4 % 2
  (s.tileAt p).map fun t => { tile := t, num := BitVec.ofNat 2 (i % 4) }

/-- SY.VSHARE.WEIGHT of a hart. -/
def State.weight (s : State) (h : HartId) : Nat := bits (s.hartOf h).sy.vshare 0 4

/-- The choice of R294, by turns of the pointer. (DEDUCED: log entry 34.) -/
def State.pickMx (s : State) (cl lane : Nat) : Nat → Lane → Lane × Option MxCmd
  | 0, l => (l, none)
  | n + 1, l =>
    let next := (l.ptr + 1) % 16
    match s.clusterHart cl l.ptr with
    | none => State.pickMx s cl lane n { l with ptr := next }
    | some h =>
      let d := findD h l.dc 0
      match s.headFor lane h with
      | none => State.pickMx s cl lane n { l with dc := if d < 0 then put h 0 l.dc else l.dc, ptr := next }
      | some c =>
        if d < 0 then State.pickMx s cl lane n { l with dc := put h (d + 1024 * s.weight h) l.dc, ptr := next }
        else
          let d' := d - s.mxCost c
          ({ l with dc := put h d' l.dc, ptr := if d' < 0 then next else l.ptr }, some c)

/-- Turns enough to pay every debt. -/
def laneTurns (l : Lane) : Nat := 17 * (l.dc.foldl (fun n p => n + (-p.2).toNat / 1024 + 1) 2)

/-- Begins a command: the forms of the slot lane that act at once complete, MX.RD with its register FULL (R308); MX.FREE unmaps its slot, which
is zeroed. -/
def State.beginMx (c : MxCmd) (s : State) : State :=
  match c.kind with
  | .zero =>
    (match s.slotRef c with
     | some r => s.modSlot r fun a => { a with acc := [] }
     | none => s).mxDone c none
  | .wr add => (s.setElems c (s.rowWrites c add)).mxDone c none
  | .rd hi d =>
    (s.modHart c.hart fun h => (h.deliver (some (vRef d)) (s.rowValue c hi)).arrived (some (vRef d))).mxDone c none
  | .free =>
    match s.slotRef c with
    | some r =>
      let s := s.modSlot r fun a => { a with acc := [], zeroing := true }
      let s := s.modHart c.hart fun h => { h with slots := del c.n h.slots }
      s.setMx { c with progress := r.slot }
    | none => s.mxDone c none
  | _ => s

/-- MX_COMMAND_START: a free lane chooses a command and starts it (R294); with none to start, every debt is forgiven, and the turn pointer
stands where it stood (DESIGN CHOICE, log entry 34). -/
def execMxCommandStart (cluster : Nat) (lane : BitVec 2) (s : State) : Out :=
  .next (
    let l := (s.cluster cluster).laneOf lane.toNat
    if lane = 3 ∨ l.run.isSome then s
    else if !((List.range 16).any fun i => match s.clusterHart cluster i with
        | some h => (s.headFor lane.toNat h).isSome
        | none => false) then
      s.modCluster cluster (Cluster.setLane lane.toNat { l with dc := l.dc.map fun p => (p.1, max p.2 0) })
    else
      match s.pickMx cluster lane.toNat (laneTurns l) l with
      | (l, some c) =>
        let s := s.modCluster cluster (Cluster.setLane lane.toNat { l with run := some (c.hart, c.id) })
        let c := { c with started := true }
        (s.setMx c).beginMx c
      | (l, none) => s.modCluster cluster (Cluster.setLane lane.toNat l))

/-- SLOT_ZERO_DONE: the zeroing of a slot ends; it becomes FREE, and the MX.FREE that asked for it completes (R300). -/
def execSlotZeroDone (cluster slot : Nat) (s : State) : Out :=
  .next (
    let r : SlotRef := { cluster := cluster, slot := slot, gen := 0 }
    if (s.slotAt r).zeroing then
      let s := s.modSlot r fun a => { a with st := .free, acc := [], zeroing := false }
      match (s.cluster cluster).slot.run with
      | some (_, id) =>
        match s.mx? id with
        | some c => if c.kind == .free && c.progress == slot then s.mxDone c none else s
        | none => s
      | none => s
    else s)

/-- The completion value of a word-form MX.SYNC (R318). -/
def MxErr.value (e : MxErr) : Word :=
  if e.nerr = 0 then 0 else atBits 62 1 1 ||| atBits 56 6 e.reason ||| atBits 48 8 e.nerr ||| atBits 0 32 e.first

/-- MX_SYNC_FILL: every earlier command of the hart has completed (R317), and its earlier accesses are performed (R138); at .s the flushing
reads that follow its host writes come before the fill (R106). -/
def execMxSyncFill (op : Nat) (s : State) : Out :=
  .next (match s.mx? op with
    | some c =>
      match c.kind, (s.hartOf c.hart).mxq, c.pages with
      | .sync sc, first :: _, (_, home) :: _ =>
        if first.id = op ∧ s.resident c.hart.tile ∧ s.pendingOp c.hart true true (fun n => decide (n < c.id)) = false then
          if s.flushDue c.hart sc then s.flushPorts c.hart
          else if s.flushing c.hart sc then s
          else if s.homeOpen c.hart home then
            let e := (s.hartOf c.hart).mxErr
            let s := (s.completionFill home e.value).modHart c.hart fun h =>
              { h with mxErr := { e with reason := 0, nerr := 0, first := 0 } }
            s.mxDone c none
          else s.holdAt home
        else s
      | _, _, _ => s
    | none => s)

/-! ## Issue -/

/-- A command of the hart in focus before its fields are set. -/
def State.newMx (s : State) (kind : MxKind) (n : KReg) : MxCmd :=
  { id := 0, hart := s.focus, kind := kind, n := n, ctx := s.hart.ctx, wd := 0, wa := 0, wb := 0, vv := 0, name := none, gid := 0, entry := none,
    index := 0, started := false, progress := 0, user := s.hart.isU, root := s.hart.root, pages := [] }

/-- A hart whose queue holds 16 commands stalls on its next matrix instruction (R293). -/
def withRoom (s : State) (k : Out) : Out := if 16 ≤ s.hart.mxq.length then waitAt s else k

/-- The register checks, then the owner of the slot named (R298), then room in the queue (R293); what ENGINE_ERROR checks a form has come
after the owner (R332; DESIGN CHOICE, log entry 33). -/
def mxForm (reads writes : List RegRef) (w : Bool) (slot : Option KReg) (s : State) (k : Out) : Out :=
  withRegs reads writes w s
    (match slot with
     | some n => if (find n s.hart.slots).isNone then trap (mkTrap cACCOWNER n.toNat) s else withRoom s k
     | none => withRoom s k)

/-- ENGINE_ERROR with the reason of the first check that fails. -/
def engChecks (cs : List (Bool × Nat)) (s : State) (k : Out) : Out :=
  match cs.find? fun c => c.1 with
  | some c => trap (mkTrap cENGINE c.2) s
  | none => k

/-- The addresses of an extent at which its pages begin. -/
def pageStarts (va : Word) (len : Nat) : List Word :=
  va :: ((List.range ((va.toNat % 65536 + len - 1) / 65536)).map fun i => setBits va 0 16 0 + BitVec.ofNat 64 (65536 * (i + 1)))

/-- A source or destination with the addresses of its pages. -/
def mxOperand (va : Word) (len : Nat) (need : Need) : Operand × List Word :=
  ({ va := va, len := len, need := need, peer := false, tags := false, priv := false, al := false }, pageStarts va len)

/-- An operand of whole words (R13). -/
def aligned8 (o : Operand × List Word) : Operand × List Word := ({ o.1 with al := true }, o.2)

/-- The translations a command keeps (R421). -/
def keptPages (s : State) (os : List (Operand × List Word)) : Pages :=
  (os.flatMap fun o => o.2.filterMap fun va =>
    match range va, operandTr s s.focus o.1 va with
    | .paged, .ok h _ => some (pageKey va o.1.need.w, h.align 65536)
    | _, _ => none).eraseDups

/-- Puts a command into the request queue, with its claims. -/
def State.enqueueMx (c : MxCmd) (claims : List (Word × Nat)) (s : State) : State :=
  let s := s.mod fun h => { h with mxq := h.mxq ++ [c], mxErr := { h.mxErr with count := h.mxErr.count + 1 } }
  claims.foldl (fun s p => s.claimVa c.engCtx c.id 16 p.1 p.2) s

/-- Checks the operands of a command and issues it. -/
def mxIssue (c : MxCmd) (os : List (Operand × List Word)) (claims : List (Word × Nat)) (pre : MxCmd → State → State × MxCmd) (s : State) : Out :=
  withOperands os s fun s =>
    let s := s.passHolds s.focus
    if os != [] && s.heldBack s.focus true then waitAt s
    else
      let c := { c with id := s.nextId, pages := keptPages s os, index := s.hart.mxErr.count }
      let r := pre c s.fresh
      .next (retireCmd (r.1.enqueueMx r.2 claims))

def noPre (c : MxCmd) (s : State) : State × MxCmd := (s, c)

/-- A context word that MX.CTX does not accept (R187, R296). -/
def badCtx (w : Word) : Bool :=
  let op := fun (f : Nat) => f == 0x14 || decide (0x1C ≤ f)
  bits w 23 41 != 0 || bits w 13 3 != 0 || bits w 5 3 != 0 || op (ctxA w) || op (ctxB w) || decide (0x1C ≤ ctxO w) ||
    ((ctxA w == 0x1B) != (ctxB w == 0x1B))

/-- MX.CTX (R296). -/
def execMxCtx (a : Reg) (w : Bool) (s : State) : Out :=
  withRegs [gRef a] [] w s
    (if badCtx (s.hart.gr a) then trap (mkTrap cILLEGAL 0x29) s
     else withRoom s (.next (retire (s.mod fun h => { h with ctx := h.gr a }))))

/-- A command of the hart that names a slot is queued or running. -/
def Hart.namesSlot (h : Hart) (n : KReg) (p : MxCmd → Bool) : Bool := h.mxq.any fun c => c.slot? == some n && p c

/-- MX.OWN (R299). -/
def execMxOwn (d : Reg) (n : KReg) (s : State) : Out :=
  withRegs [] [gRef d] false s
    (let h := s.hart
     if h.namesSlot n fun _ => true then waitAt s
     else withRoom s
      (match find n h.slots with
       | some r => .next (retire (s.mod fun h => h.setG d (atBits 16 16 r.gen.toNat ||| atBits 8 3 r.slot ||| 1)))
       | none =>
         let cl := s.clusterAt s.focus.tile
         match (List.range 8).find? fun p => let a := s.slotAt { cluster := cl, slot := p, gen := 0 }; a.st == .free && !a.zeroing with
         | none => .next (retire (s.mod fun h => h.setG d 2))
         | some p =>
           let gen := (s.slotAt { cluster := cl, slot := p, gen := 0 }).gen + 1
           let r : SlotRef := { cluster := cl, slot := p, gen := gen }
           let s1 := s.modSlot r fun a => { a with st := .owned, owner := s.focus, gen := gen, acc := [] }
           .next (retire (s1.mod fun h => { h with slots := put n r h.slots }.setG d (atBits 16 16 gen.toNat ||| atBits 8 3 p)))))

/-- MX.FREE: without effect on an unmapped name (R300). -/
def execMxFree (n : KReg) (s : State) : Out :=
  withRoom s (if (find n s.hart.slots).isNone then .next (retire s) else mxIssue (s.newMx .free n) [] [] noPre s)

/-- MX.PIN and MX.UNPIN act at issue, after the hart's earlier commands on the slot have started (R300). -/
def pinForm (n : KReg) (s : State) (f : SlotState → SlotState) : Out :=
  match find n s.hart.slots with
  | none => trap (mkTrap cACCOWNER n.toNat) s
  | some r =>
    if s.hart.namesSlot n fun c => !c.started then waitAt s
    else withRoom s (.next (retire (s.modSlot r fun a => { a with st := f a.st })))

def execMxPin (n : KReg) (s : State) : Out := pinForm n s fun _ => .pinned
def execMxUnpin (n : KReg) (s : State) : Out := pinForm n s fun x => if x = .pinned then .owned else x

/-- MX.ZERO (R305). -/
def execMxZero (n : KReg) (s : State) : Out := mxForm [] [] false (some n) s (mxIssue (s.newMx .zero n) [] [] noPre s)

/-- The range checks of MX.BLD's columns: REGION, unless a column itself crosses an edge or lies in a window whose own rule
applies (R304). -/
def bldRegion (cols : List Word) (len : Nat) : Bool :=
  let crosses := cols.any fun a => windowOf a != windowOf (a + BitVec.ofNat 64 (len - 1))
  let other := cols.any fun a => match range a with | .peer _ _ => true | .dev _ => true | _ => false
  !crosses && !other && (match cols with
    | a :: rest => rest.any fun b => rangeNo b != rangeNo a
    | [] => false)

/-- The next GID, of 32 bits, that no granule holds (R97). -/
def State.freshGid (s : State) : Nat :=
  ((List.range (s.granules.length + 1)).map fun i => (s.nextGid + BitVec.ofNat 32 i).toNat).find?
    (fun g => (find g s.granules).isNone) |>.getD s.nextGid.toNat

/-- The B map at the issue of MX.BLD: released, or given the format, K and N, on its granule or a new one (R304). A release of a name with no
entry takes a GID that no granule has. A granule is zeroed before it is given (R97). -/
def State.nameGranule (n : BitVec 6) (c : MxCmd) (s : State) : State × MxCmd :=
  let t := c.hart.tile
  let old := find n (s.tile t).bmap
  if c.bldK = 0 then
    match old with
    | some b => (s.modTile t fun x => { x with bmap := del n x.bmap }, { c with gid := b.gid })
    | none => ({ s with nextGid := BitVec.ofNat 32 (s.freshGid + 1) }, { c with gid := s.freshGid })
  else
    let keep := match old with | some b => if b.k = 0 then none else some b.gid | none => none
    let gid := keep.getD s.freshGid
    let s := match keep with
      | some _ => s
      | none =>
        let gs := match old with | some b => del b.gid s.granules | none => s.granules
        let cl := s.clusterAt t
        let g : Granule := { tab := t.tab, key := ((s.cluster cl).keyOf t.tab).getD 0, cluster := some cl, k := 0, n := 0, units := [] }
        { s.bondWritten gid 0 4096 with nextGid := BitVec.ofNat 32 (gid + 1), granules := put gid g gs }
    (s.modTile t fun x => { x with bmap := put n { fmt := BitVec.ofNat 5 (ctxB c.ctx), k := c.bldK, n := c.bldN, gid := gid } x.bmap },
     { c with gid := gid })

/-- MX.BLD (R304). Names 48 to 63, which no tile has (R302), are a SHAPE error. (DEDUCED: log entry 33.) Block lines are read where the
address and CSTRIDE put them: R304 checks no alignment of g[d], though R189 calls the lines naturally aligned. (DEDUCED: log
entry 62.) -/
def execMxBld (d a b : Reg) (w : Bool) (s : State) : Out :=
  mxForm [gRef a, gRef b, gRef d] [] w none s
    (let h := s.hart
     let n : BitVec 6 := (h.gr b).setWidth 6
     let c : MxCmd := { s.newMx .bld 0 with wd := h.gr d, wa := h.gr a, wb := h.gr b, name := some n }
     let fmt := ctxB h.ctx
     let len := runBytes fmt c.bldK
     let cols := if c.bldK = 0 then [] else (List.range c.bldN).map fun j => c.wd + BitVec.ofNat 64 j * c.bldStride
     engChecks [(decide (48 ≤ (h.gr b).toNat) || bits c.wa 24 8 != 0 || decide (kMax fmt < c.bldK) ||
                   c.bldStride.toNat % (if isBlock fmt then 128 else 64) != 0, 0x40),
                (bldRegion cols len, 0x42)] s
       (mxIssue c (cols.map fun a => mxOperand a len needR) [] (State.nameGranule n) s))

/-- MX.MAC and MX.MACT (R306). (DEDUCED: log entry 33.) -/
def macForm (tr : Bool) (d a b : Reg) (w : Bool) (n : KReg) (z : Bool) (s : State) : Out :=
  mxForm [gRef a, gRef b, gRef d] [] w (some n) s
    (let h := s.hart
     let name : BitVec 6 := (h.gr b).setWidth 6
     let entry := find name (s.tile s.focus.tile).bmap
     let c : MxCmd := { s.newMx (.mac tr z) n with wd := h.gr d, wa := h.gr a, wb := h.gr b, name := some name, entry := entry }
     let fa := ctxA h.ctx
     let fb := ctxB h.ctx
     let al := if isBlock fa then 128 else 64
     let rows := (List.range (if tr then c.macK else c.macM)).map c.rowAt
     let len := runBytes fa (if tr then c.macM else c.macK)
     engChecks [(bits c.wa 32 32 != 0 || bits c.wb 6 10 != 0 || c.macK == 0 || decide (kMax fb < c.macK0 + c.macK) ||
                   c.macK0 % fmtLine fb != 0 || c.wd.toNat % al != 0 || c.macStride.toNat % al != 0, 0x40),
                (tr && isBlock fa, 0x41),
                (rows.any fun r => match range r with | .slice _ _ => false | .own _ => false | _ => true, 0x42),
                (match entry with | some e => e.k == 0 | none => true, 0x43),
                (match entry with | some e => e.fmt.toNat != fb | none => true, 0x44)] s
       (mxIssue c (rows.map fun r => ((mxOperand r len needR).1, [r])) [] noPre s))

def execMxMac (d a b : Reg) (w : Bool) (n : KReg) (z : Bool) (s : State) : Out := macForm false d a b w n z s
def execMxMact (d a b : Reg) (w : Bool) (n : KReg) (z : Bool) (s : State) : Out := macForm true d a b w n z s

/-- MX.RD (R308). -/
def execMxRd (d a : Reg) (w : Bool) (n : KReg) (hi : Bool) (s : State) : Out :=
  if hi && !isBlock (ctxO s.hart.ctx) then trap (mkTrap cILLEGAL 0x20) s
  else
    mxForm [gRef a] [vRef d] w (some n) s
      (engChecks [(bits (s.hart.gr a) 16 48 != 0, 0x40)] s
        (mxIssue { s.newMx (.rd hi d) n with wa := s.hart.gr a } [] []
          (fun c s => (s.mod fun h => h.markEmpty (some (vRef d)), c)) s))

/-- MX.WR (R309). -/
def execMxWr (a b : Reg) (w : Bool) (n : KReg) (add : Bool) (s : State) : Out :=
  mxForm [vRef a, gRef b] [] w (some n) s
    (let o := ctxO s.hart.ctx
     engChecks [(bits (s.hart.gr b) 16 48 != 0, 0x40),
                (!(o == 0x0E || o == 0x0F || o == 0x10 || o == 0x11 || o == 0x14), 0x41)] s
       (mxIssue { s.newMx (.wr add) n with wb := s.hart.gr b, vv := s.hart.vr a } [] [] noPre s))

/-- MX.DELTA and MX.QRY (R310, R312). A TSTRIDE that is no multiple of 64 raises SHAPE with the other faults of the shape word, and a readout
address that is no multiple of 8 raises ALIGN: the spec names no cause for either (DESIGN CHOICE, log entry 76). -/
def tokenForm (kind : MxKind) (rec : Nat → Nat → Nat) (out readsOut : Bool) (d a b : Reg) (w : Bool) (n : KReg) (s : State) : Out :=
  mxForm [gRef a, gRef b, gRef d] [] w (some n) s
    (let h := s.hart
     let c : MxCmd := { s.newMx kind n with wd := h.gr d, wa := h.gr a, wb := h.gr b }
     let len := rec c.dk c.dv
     engChecks [(bits c.wa 20 12 != 0 || c.tstride % 64 != 0 || decide (c.tstride < len) || (!readsOut && c.wb != 0), 0x40)] s
       (let ts := List.range c.tokens
        mxIssue c ((ts.map fun t => mxOperand (c.wd + BitVec.ofNat 64 (t * c.tstride)) len needR) ++
            (if out then ts.map fun t => aligned8 (mxOperand (c.readout t) (8 * c.outWords) needW) else []))
          (if out then ts.map fun t => (c.readout t, 8 * c.outWords) else []) noPre s))

/-- MX.DELTA (R310). -/
def execMxDelta (d a b : Reg) (w : Bool) (n : KReg) (bf r : Bool) (s : State) : Out :=
  tokenForm (.delta bf r) (fun dk dv => deltaBytes dk dv bf r) r r d a b w n s

/-- MX.QRY (R312). -/
def execMxQry (d a b : Reg) (w : Bool) (n : KReg) (bf : Bool) (s : State) : Out :=
  tokenForm (.qry bf) (fun dk _ => padded dk bf) true true d a b w n s

/-- MX.SPILL (R315). -/
def execMxSpill (d a b : Reg) (w : Bool) (n : KReg) (s : State) : Out :=
  mxForm [gRef a, gRef b, gRef d] [] w (some n) s
    (let h := s.hart
     let c : MxCmd := { s.newMx .spill n with wd := h.gr d, wa := h.gr a, wb := h.gr b }
     engChecks [(bits c.wa 21 43 != 0 || bits c.wb 4 60 != 0, 0x40), (imgElem c.imgFmt == 0, 0x41),
                ((s.imageKey s.focus.tile.tab ((h.gr b).setWidth 4)).isNone, 0x36)] s
       (match alignOps [c.wd] with
        | some t => trap t s
        | none => mxIssue c [mxOperand c.wd c.imgHdr.length needW] [(c.wd, c.imgHdr.length)] noPre s))

/-- MX.LOAD (R316). -/
def execMxLoad (d a b : Reg) (w : Bool) (n : KReg) (s : State) : Out :=
  mxForm [gRef a, gRef b, gRef d] [] w (some n) s
    (let h := s.hart
     let c : MxCmd := { s.newMx .load n with wd := h.gr d, wa := h.gr a, wb := h.gr b }
     let len := Nat.min c.wa.toNat imgMax
     engChecks [(bits c.wb 4 60 != 0, 0x40)] s
       (match alignOps [c.wd] with
        | some t => trap t s
        | none => mxIssue c (if len = 0 then [] else [mxOperand c.wd len needR]) [] noPre s))

/-- MX.SYNC, blocking (R317). -/
def execMxSyncBlocking (sc : Scope) (s : State) : Out :=
  if s.hart.mxq != [] then waitAt s
  else
    let s := if Scope.wide sc then s.dropL1 s.focus.tile else s
    if s.hart.mxErr.nerr = 0 then .next (retire s) else trap (mkTrap cENGINE 0x46) s

/-- MX.SYNC with a completion word (R317, R318). -/
def execMxSyncWord (sc : Scope) (w : Bool) (c : Reg) (s : State) : Out :=
  mxForm [gRef c] [] w none s
    (let va := s.hart.gr c
     match alignOps [va] with
     | some t => trap t s
     | none =>
       withOperands [({ cwOperand va with priv := false }, [va])] s fun s =>
         let s := s.passHolds s.focus
         if s.heldBack s.focus true then waitAt s
         else
           match operandTr s s.focus { cwOperand va with priv := false } va with
           | .ok home _ =>
             let x := { s.newMx (.sync sc) 0 with id := s.nextId, pages := [(va, home)], index := s.hart.mxErr.count }
             .next (retireCmd (s.fresh.mod fun h => { h with mxq := h.mxq ++ [x], mxErr := { h.mxErr with count := 0 } }))
           | _ => waitAt s)

/-! ## HALT (R301, R328) -/

/-- HALT: frees the OWNED slots of a hart, which are zeroed (R301). -/
def State.freeSlots (h : HartId) (s : State) : State :=
  let owned := (s.hartOf h).slots.filter fun p => (s.slotAt p.2).st == .owned
  let s := owned.foldl (fun s p => s.modSlot p.2 fun a => { a with acc := [], zeroing := true }) s
  s.modHart h fun x => { x with slots := x.slots.filter fun p => !owned.contains p }

/-- The hart has no part left in its launch (R342). -/
def State.leaveLaunch (h : HartId) (s : State) : State :=
  match (s.hartOf h).launch with
  | some id =>
    let f := fun (l : Launch) => if l.id = id then { l with left := l.left.filter (· ≠ h), ended := l.ended ++ [(h, s.nextId)] } else l
    let g := fun (q : BitVec 12 × Queue) => (q.1, { q.2 with launches := q.2.launches.map f })
    let s := { s with queues := s.queues.map g }
    s.modHart h fun x => { x with launch := none }
  | none => s

/-- What HALT waits for (R328): the register writes still to come, the recorded access and the commands of the hart; and the operations of its
vector queue (DESIGN CHOICE, log entry 88). -/
def Hart.haltWaits (h : Hart) : Bool :=
  decide (h.gFull ≠ 0xFFFFFFFF) || decide (h.vFull ≠ 0xFFFFFFFF) || decide (h.vq ≠ []) || (h.feV && h.fePend) || decide (h.cps ≠ []) ||
    decide (h.mxq ≠ [])

/-- HALT (R328): a record that no access stands for is discarded, so that its register counts as written; then the hart waits for its
register writes, its recorded access and its commands; then it is HALTED, and a record that waits restarts it (R340). The fill of its
launch is a release at SYSTEM scope, for which the flushing reads of the hart's host writes leave here (R106, R342). -/
def execHalt (s : State) : Out :=
  let f := s.focus
  let s1 := s.discardFe f
  if s1.hart.haltWaits then waitAt s
  else
    let s := ((s1.freeSlots f).flushPorts f).leaveLaunch f
    let s := s.mod fun x => { x with run := .halted, stopped := false, live := false, pc := x.pc + 4, rpt := none, misses := [] }
    .next ({ s with ostler := { s.ostler with due := true } }.restartFor f)

end Sys2Proof.Machine
end

