-- ==== Sys2Proof/Machine/FrontEnd.lean ====
section
/-!
DEFINITION. The front end (R333-R346, R385-R392, R400): queue registers and control blocks, ring entries, kernel headers and
their selection, dispatch, completion, cancels, gates, and the kill of a tableau (R100, R346).
-/

namespace Sys2Proof

/-- The half holds bits [31:0]. -/
def Half.hasLow : Half → Bool
  | .high => false
  | _ => true

/-- The half holds bits [63:32]. -/
def Half.hasHigh : Half → Bool
  | .low => false
  | _ => true

end Sys2Proof

namespace Sys2Proof.Machine

/-! ## Memory as the front end reaches it (R335, R338, R342) -/

/-- The home of an address in a tableau: a page of it with the permissions asked for, or a slice word of a valid vtile. -/
def State.feHome (t : BitVec 16) (n : Need) (va : Word) (s : State) : State × Option Home :=
  match s.tab? t with
  | none => (s, none)
  | some x =>
    match range va with
    | .paged =>
      match s.walkFrom x.args.root va.toNat 4 0 x.args.root with
      | (s, .ok e) => (s, if (leafReason false n e.leaf).isNone then some (leafHome e.leaf e.bits va.toNat) else none)
      | (s, .error _) => (s, none)
    | .slice vt off =>
      let u : TileId := { tab := t, vt := vt }
      (s, if s.validVt u && (s.mapEntry u).st != .invalid then some (.slice u off) else none)
    | _ => (s, none)

/-- n words from an address on; none when one is unreachable, on a host page that is not allowed, or POISON. -/
def State.feRead (t : BitVec 16) (host : Bool) : Nat → Word → State → State × Option (List Word)
  | 0, _, s => (s, some [])
  | n + 1, va, s =>
    match s.feHome t needR va with
    | (s, none) => (s, none)
    | (s, some h) =>
      if h.isHost && !host then (s, none)
      else if !s.pageOk h then (s.logDpa h, none)
      else
        let s := s.detect h
        if s.tagOf h = .poison then (s, none)
        else
          match State.feRead t host n (va + 8) s with
          | (s, some ws) => (s, some (s.loadWord h :: ws))
          | r => r

/-- A place that the front end's accesses reach now (R21, R22). -/
def State.feOpen (s : State) : Home → Bool
  | .slice t _ =>
    let e := s.mapEntry t
    (e.st = .resident || (e.st = .absent && !e.fresh)) && !s.entryBad t
  | _ => true

/-- The mask of the bits of a half, and a written value with its bits in place (R48). -/
def halfMask : Half → Word
  | .both => 0xFFFFFFFFFFFFFFFF
  | .low => 0xFFFFFFFF
  | .high => 0xFFFFFFFF00000000

def placeHalf (h : Half) (x : Word) : Word :=
  match h with
  | .both => x
  | .low => x &&& 0xFFFFFFFF
  | .high => x <<< 32

/-- A register after a write of a half of it. -/
def halfMerge (h : Half) (old x : Word) : Word := (old &&& ~~~(halfMask h)) ||| placeHalf h x

/-! ## The fields of a queue (R333, R334) -/

def Queue.ring (q : Queue) : Word := atBits 6 42 (bits q.cfg0 6 42)
def Queue.lsize (q : Queue) : Nat := bits q.cfg0 0 5
def Queue.tabId (q : Queue) : BitVec 16 := BitVec.ofNat 16 (bits q.cfg1 16 16)
def Queue.prio (q : Queue) : Nat := bits q.cfg1 8 3
def Queue.vector (q : Queue) : Nat := bits q.cfg1 32 16
def Queue.msix (q : Queue) : Bool := q.cfg1.getLsbD 1
def Queue.en (q : Queue) : Bool := q.cfg1.getLsbD 0
def Queue.qcb (q : Queue) : Word := atBits 6 42 (bits q.cfg2 6 42)

def LaunchState.final : LaunchState → Bool
  | .pending | .dispatched => false
  | _ => true

/-- A launch of the queue is PENDING or DISPATCHED, entries not yet read included. -/
def Queue.active (q : Queue) : Bool := q.head != q.tail || q.launches.any fun l => !l.state.final

def Queue.stateCode (q : Queue) : Nat := if q.killed then 3 else if !q.en then 0 else if q.active then 2 else 1

/-- QSTAT. -/
def Queue.qstat (q : Queue) : Word :=
  atBits 32 32 q.head.toNat ||| atBits 24 8 q.mismatch |||
    atBits 16 8 (Nat.min 255 (q.launches.filter fun l => l.state == .dispatched).length) |||
    atBits 3 1 (b2n q.cwerr) ||| atBits 2 1 (b2n q.ovf) ||| atBits 0 2 q.stateCode

/-- QCANCEL. -/
def Queue.qcancel (q : Queue) : Word := atBits 32 3 q.result ||| atBits 0 32 q.cancelSeq.toNat

/-! ## The control block (R335, R336) -/

/-- An error record that names a queue: DETAIL has its number in bits 11 to 0 and an index from bit 16 (R335, R338, R381; DESIGN CHOICE, log
entry 84). -/
def State.logQueue (kind : Nat) (q : BitVec 12) (detail : Nat) (s : State) : State :=
  s.log { kind := kind, source := 5, fatal := false, count := 1, time := s.now, tab := (s.queue q).tabId, vt := 0, hart := 0, va := 0,
          dpa := 0, detail := BitVec.ofNat 64 (q.toNat + 65536 * detail) }

/-- The control block can be written: mapped with W, not on a host page, nor on a page that is not VALID (R37), with no POISON word. -/
def State.qcbHome (q : BitVec 12) (s : State) : State × Option Home :=
  match s.feHome (s.queue q).tabId needW (s.queue q).qcb with
  | (s, some h) =>
    if !s.pageOk h then (s.logDpa h, none)
    else (s, if h.isHost || (List.range 8).any fun i => s.tagOf (h.plus (8 * i)) = .poison then none else some h)
  | r => r

/-- Writes a word of the control block, or logs that it cannot, once for each reload. -/
def State.qcbWrite (q : BitVec 12) (off : Nat) (v : Word) (s : State) : State :=
  match s.qcbHome q with
  | (s, some h) =>
    let h := h.plus off
    ((s.detectWrite h [h]).act .write h 255 v.toNat).1
  | (s, none) =>
    if (s.queue q).qcbLogged then s
    else (s.logQueue 0x0C q 0).modQueue q fun x => { x with qcbLogged := true }

/-- The mirrors in memory differ from the values last written there (R336); mirrors that cannot be read, in a block that is unmapped or that
holds POISON, are no difference (DESIGN CHOICE, log entry 77). -/
def State.mirrorsDiffer (m : Word × Word × Word) (s : State) : State × Bool :=
  match s.feRead (BitVec.ofNat 16 (bits m.2.1 16 16)) false 3 (atBits 6 42 (bits m.2.2 6 42) + 0x10) with
  | (s, some ws) => (s, ws != [m.1, m.2.1, m.2.2])
  | (s, none) => (s, false)

/-- A reload of the queue's record: the mirrors are compared with the values last written, wherever that was, and rewritten with the
word of zeros behind the block's fields (R335, R336). -/
def State.reloadQueue (q : BitVec 12) (s : State) : State :=
  let s := match (s.queue q).mirrors with
    | some m =>
      match s.mirrorsDiffer m with
      | (s, true) => (s.logQueue 0x09 q 0).modQueue q fun x => { x with mismatch := Nat.min 255 (x.mismatch + 1) }
      | (s, false) => s
    | none => s
  let s := s.modQueue q fun x => { x with qcbLogged := false }
  let x := s.queue q
  let s := (((s.qcbWrite q 0x10 x.cfg0).qcbWrite q 0x18 x.cfg1).qcbWrite q 0x20 x.cfg2).qcbWrite q 0x38 0
  s.modQueue q fun y => { y with mirrors := if y.qcbLogged then y.mirrors else some (x.cfg0, x.cfg1, x.cfg2) }

/-! ## Kernel headers (R385-R392) -/

/-- A header and its tables as they stand in memory. -/
structure RawHdr where
  bytes  : List Byte
  base   : Word
  groups : List Word
  alts   : List (Word × Word)
deriving DecidableEq, Repr

def RawHdr.f (h : RawHdr) (off n : Nat) : Nat := field h.bytes off n

/-- The fields of a header lie in their ranges (R385, R387); TABOFF is 0 just when there are no entries (DESIGN CHOICE, log entry 87). -/
def hdrFields (b : List Byte) (va : Word) : Bool :=
  let f := fun off n => field b off n
  let cend := f 0x20 8
  let nbar := f 0x0E 1
  let nalt := f 0x0F 1
  f 0 4 == 0x4B444D55 && f 4 1 == 1 && f 5 1 < 4 && 1 ≤ f 9 1 && f 9 1 ≤ 16 && 1 ≤ f 0x0A 1 && 1 ≤ f 0x0B 1 &&
    f 0x0A 1 * f 0x0B 1 ≤ 64 && 1 ≤ f 0x0C 1 && f 0x0C 1 ≤ 32 && f 0x0D 1 ≤ 32 && nbar ≤ 16 && nalt ≤ 15 &&
    f 0x10 4 % 64 == 0 && f 0x10 4 ≤ 4194304 && f 0x14 4 == 0 && va.toNat % 32 == 0 && cend % 64 == 0 &&
    f 0x18 8 + 96 ≤ cend && f 0x28 8 % 4 == 0 && f 0x28 8 < cend && f 0x38 8 % 8 == 0 &&
    (nbar + nalt == 0) == (f 0x38 8 == 0) && f 0x38 8 + 8 * nbar + 16 * nalt ≤ cend && (f 0x30 8 == 0 || f 0x30 8 < cend)

/-- A group entry lies in its ranges (R386). -/
def groupOk (stages tiles : Nat) (w : Word) : Bool :=
  bits w 48 16 == 0 && bits w 44 4 != 0 && bits w 32 6 ≤ bits w 38 6 && bits w 38 6 < tiles && bits w 12 10 ≤ bits w 22 10 &&
    bits w 4 4 ≤ bits w 8 4 && bits w 8 4 < stages

def groupDecl (w : Word) : GroupDecl :=
  { grp := BitVec.ofNat 4 (bits w 0 4), s0 := bits w 4 4, s1 := bits w 8 4, n0 := bits w 12 10, n1 := bits w 22 10, t0 := bits w 32 6,
    t1 := bits w 38 6, hmask := BitVec.ofNat 4 (bits w 44 4) }

def distinct : List Nat → Bool
  | [] => true
  | x :: xs => !xs.contains x && distinct xs

/-- Pairs of words. -/
def wordPairs : List Word → List (Word × Word)
  | a :: b :: rest => (a, b) :: wordPairs rest
  | _ => []

/-- Reads and checks one header with its tables. -/
def State.readHdr (t : BitVec 16) (va : Word) (s : State) : State × Option RawHdr :=
  match s.feRead t true 12 va with
  | (s, none) => (s, none)
  | (s, some ws) =>
    let b := ws.flatMap fun w => leBytes 8 w.toNat
    if !hdrFields b va then (s, none)
    else
      let base := va - BitVec.ofNat 64 (field b 0x18 8)
      let nbar := field b 0x0E 1
      match s.feRead t true (nbar + 2 * field b 0x0F 1) (base + BitVec.ofNat 64 (field b 0x38 8)) with
      | (s, none) => (s, none)
      | (s, some tw) =>
        let gs := tw.take nbar
        if gs.all (groupOk (field b 9 1) (field b 0x0A 1 * field b 0x0B 1)) && distinct (gs.map fun w => bits w 0 4) then
          (s, some { bytes := b, base := base, groups := gs, alts := wordPairs (tw.drop nbar) })
        else (s, none)

/-- An alternative agrees with its first header (R387), and headers of one segment carry one CEND (R385). -/
def altOk (h a : RawHdr) (e : Word × Word) : Bool :=
  bits e.1 24 40 == 0 && a.f 0x0F 1 == 0 && a.base == h.base && a.f 9 1 == h.f 9 1 && a.f 0x0A 1 == h.f 0x0A 1 &&
    a.f 0x0B 1 == h.f 0x0B 1 && a.f 5 1 / 2 == h.f 5 1 / 2 && a.f 0x20 8 == h.f 0x20 8 && a.groups == h.groups

/-- Reads every alternative; none when one breaks a rule. Each comes with the version its entry names. -/
def State.readAlts (t : BitVec 16) (h : RawHdr) : List (Word × Word) → State → State × Option (List (RawHdr × Word))
  | [], s => (s, some [])
  | e :: rest, s =>
    match s.readHdr t (h.base + e.2) with
    | (s, none) => (s, none)
    | (s, some a) =>
      if !altOk h a e then (s, none)
      else
        match State.readAlts t h rest s with
        | (s, some as) => (s, some ((a, e.1) :: as))
        | r => r

/-- What the machine keeps of a header selected: shape, policy and groups from the first, the image from the chosen one. -/
def headerOf (h c : RawHdr) (maj min : Nat) : Header :=
  { queueOnly := h.f 5 1 / 2 % 2 == 1, stages := h.f 9 1, gw := h.f 0x0A 1, gh := h.f 0x0B 1,
    entry := c.base + BitVec.ofNat 64 (c.f 0x28 8), cend := c.base + BitVec.ofNat 64 (c.f 0x20 8), slice := c.f 0x10 4,
    ng := c.f 0x0C 1, nv := c.f 0x0D 1,
    major := BitVec.ofNat 8 maj, minor := BitVec.ofNat 8 min, groups := h.groups.map groupDecl }

/-- A selection (R388). -/
inductive Select where
  | bad
  | native (h : Header)
  | evi (digest : List Byte)

/-- A candidate of the greatest ISAMIN, the first of equals. -/
def bestMinor : List (RawHdr × Nat × Nat × Nat) → Option (RawHdr × Nat × Nat × Nat)
  | [] => none
  | c :: cs => match bestMinor cs with
    | some d => if c.2.2.1 < d.2.2.1 then some d else some c
    | none => some c

/-- The first step of R388 that yields a candidate, for MAJOR 1, MINOR 0 and REV 1 (R212). -/
def chooseImage (h : RawHdr) (alts : List (RawHdr × Word)) : Select :=
  let own := (h, h.f 6 1, h.f 7 1, h.f 8 1)
  let cands := (if h.f 5 1 % 2 = 1 then [] else [own]) ++ alts.map fun a => (a.1, bits a.2 0 8, bits a.2 8 8, bits a.2 16 8)
  let fits := cands.filter fun c => c.2.1 == 1 && c.2.2.1 == 0
  match fits.find? fun c => c.2.2.2 == 1 with
  | some c => .native (headerOf h c.1 c.2.1 c.2.2.1)
  | none =>
    match bestMinor (fits.filter fun c => c.2.2.2 == 0) with
    | some c => .native (headerOf h c.1 c.2.1 c.2.2.1)
    | none => if h.f 0x30 8 = 0 then .bad else .evi ((h.bytes.drop 0x40).take 32)

/-- Reads the header that KHDR names and selects. On a translated image the registered header is the selection (R392). -/
def State.selectImage (t : BitVec 16) (khdr : Word) (s : State) : State × Select :=
  match s.readHdr t khdr with
  | (s, none) => (s, .bad)
  | (s, some h) =>
    match s.readAlts t h h.alts with
    | (s, none) => (s, .bad)
    | (s, some as) =>
      match chooseImage h as with
      | .evi d =>
        match (s.tab? t).bind fun x => x.xlate.find? fun p => p.1 == d with
        | some p =>
          match s.readHdr t p.2 with
          | (s, some c) => (s, .native (headerOf h c (c.f 6 1) (c.f 7 1)))
          | (s, none) => (s, .bad)
        | none => (s, .evi d)
      | r => (s, r)

/-! ## Launches (R337-R344) -/

def Launch.word (l : Launch) (i : Nat) : Word := l.words.getD i 0
def Launch.khdr (l : Launch) : Word := l.word 0
def Launch.s0 (l : Launch) : Nat := bits (l.word 2) 0 4
def Launch.stages (l : Launch) : Nat := bits (l.word 2) 4 4 + 1
def Launch.g0 (l : Launch) : Nat := bits (l.word 2) 8 10
def Launch.gangs (l : Launch) : Nat := bits (l.word 2) 18 10 + 1
def Launch.cword (l : Launch) : Word := l.word 3
def Launch.hmask (l : Launch) : Nat := bits (l.word 4) 0 4
def Launch.wantsMsix (l : Launch) : Bool := (l.word 4).getLsbD 4
def Launch.serial (l : Launch) : Bool := (l.word 4).getLsbD 5
def Launch.seq (l : Launch) : Nat := bits (l.word 5) 0 32

def State.modLaunch (q : BitVec 12) (id : Nat) (f : Launch → Launch) (s : State) : State :=
  s.modQueue q fun x => { x with launches := x.launches.map fun l => if l.id = id then f l else l }

/-- A launch ends with a completion status; its fill is then due (R342, R344). -/
def State.endLaunch (q : BitVec 12) (id : Nat) (st : LaunchState) (status : Nat) (s : State) : State :=
  s.modLaunch q id fun l => { l with state := st, status := status, fill := true, waits := none }

/-- The reserved bits of an entry are zero and it starts some hart (R337, R338). -/
def entryOk (ws : List Word) : Bool :=
  let w := fun i => ws.getD i 0
  bits (w 2) 28 36 == 0 && bits (w 4) 7 57 == 0 && bits (w 4) 0 4 != 0 && bits (w 5) 32 32 == 0 && w 6 == 0 && w 7 == 0 &&
    (w 3).toNat % 8 == 0

/-- The checks of R338 that follow the header, and R390; a launch that passes first fixes the tableau's gang shape (R164). -/
def State.judge (q : BitVec 12) (l : Launch) (h : Header) (s : State) : State :=
  match s.tab? (s.queue q).tabId with
  | none => s.endLaunch q l.id .done 4
  | some x =>
    if x.args.sliceMax < h.slice then s.endLaunch q l.id .done 4
    else
      let fits := match x.shape with
        | some p => p == (h.gw, h.gh)
        | none => h.gw * h.gh == x.args.tiles
      if fits && decide (l.s0 + l.stages ≤ x.args.stages) && decide (l.g0 + l.gangs ≤ x.args.gangs) then
        let s := s.modTab (s.queue q).tabId fun x => { x with shape := some (h.gw, h.gh) }
        s.modLaunch q l.id fun l => { l with header := some h }
      else s.endLaunch q l.id .done 5

/-- The header of the header cache (R343). -/
def State.cachedHeader (s : State) (t : BitVec 16) (khdr : Word) : Option Header :=
  match find (t, khdr) s.headers with
  | some h => h
  | none => none

/-- The launch that the front end works on: the queue's one that has been read and is PENDING. -/
def Queue.current (q : Queue) : Option Launch := q.launches.find? fun l => l.state == .pending

/-- The index of an entry between HEAD - 2^LSIZE and TAIL. -/
def Queue.near (q : Queue) (index : Nat) : Bool :=
  let i := BitVec.ofNat 32 index
  decide ((q.head - i).toNat ≤ 2 ^ q.lsize) || decide ((i - q.head).toNat < 2 ^ q.lsize)

/-- HEAD passes an entry; launches that have ended are kept while their entries may still be named or read (R334, R335, R345). -/
def State.passEntry (q : BitVec 12) (s : State) : State :=
  let s := s.modQueue q fun x =>
    let x := { x with head := x.head + 1 }
    { x with launches := x.launches.filter fun l => !l.state.final || l.fill || x.near l.index }
  s.qcbWrite q 0 (atBits 0 32 (s.queue q).head.toNat)

/-- An entry as a launch. -/
def newLaunch (id index : Nat) (ws : List Word) (st : LaunchState) (status : Nat) (readable : Bool) (vector : Nat) : Launch :=
  { id := id, index := index, words := ws, state := st, header := none, status := status, readable := readable,
    fill := st.final, waits := none, vector := vector, left := [], ended := [] }

/-- The address of a ring entry. -/
def Queue.entryVa (q : Queue) (i : Nat) : Word := q.ring + BitVec.ofNat 64 (64 * (i % 2 ^ q.lsize))

/-- LAUNCH_ENTRY_READ: the entry at HEAD is read and checked (R338). Entries are read one at a time, in ring order. An entry that
a cancel or a kill has ended is only passed. (DEDUCED: log entry 36.) -/
def execLaunchEntryRead (q : BitVec 12) (s : State) : Out :=
  .next (
    let x := s.queue q
    let i := x.head.toNat
    if !x.en || x.killed || x.head = x.tail || x.current.isSome then s
    else if x.launches.any fun l => l.index == i && (x.head - BitVec.ofNat 32 l.index) == 0 then s.passEntry q
    else
      match s.feRead x.tabId false 8 (x.entryVa i) with
      | (s, none) =>
        let s := s.logQueue 0x0D q (i % 2 ^ x.lsize)
        let s := s.fresh.modQueue q fun y =>
          { y with launches := y.launches ++ [newLaunch s.nextId i (List.replicate 8 0) .done 3 false x.vector] }
        s.passEntry q
      | (s, some ws) =>
        let (s, word) := s.feHome x.tabId { needR with r := false } (ws.getD 3 0)
        let ok := entryOk ws && !(word.any Home.isHost)
        let l := newLaunch s.nextId i ws (if ok then .pending else .done) 3 true x.vector
        let s := (s.fresh.modQueue q fun y => { y with launches := y.launches ++ [l] }).passEntry q
        if ok then
          match s.cachedHeader x.tabId l.khdr with
          | some h => s.judge q l h
          | none => s
        else s)

/-- HEADER_FETCH: a header that the cache lacks is read, and its selection kept; an EVI image with no translation waits for one, and
system software is notified (R343, R388, R390, R392). A full cache drops the header that was fetched first (DESIGN CHOICE, log entry 48).
(DEDUCED: log entry 36.) -/
def execHeaderFetch (q : BitVec 12) (s : State) : Out :=
  .next (
    let x := s.queue q
    match x.current with
    | some l =>
      if l.header.isSome || l.waits.isSome || !x.en || x.killed then s
      else
        match s.selectImage x.tabId l.khdr with
        | (s, .bad) => s.endLaunch q l.id .done 4
        | (s, .evi d) =>
          let s := s.modLaunch q l.id fun l => { l with waits := some d }
          { s with answers := s.answers ++ [.untranslated x.tabId d] }
        | (s, .native h) =>
          let kept := s.headers.filter fun p => p.1 != (x.tabId, l.khdr)
          let s := { s with headers := (kept.drop (kept.length - 63)) ++ [((x.tabId, l.khdr), some h)] }
          s.judge q l h
    | none => s)

/-- Gives a group anew the members that a test picks, between phases. -/
def State.regroup (t : BitVec 16) (b : BitVec 4) (p : HartId → Bool) (s : State) : State :=
  let s := s.modGroup t b fun x => { x with plane := none }
  let last := (s.group t b).phase - 1
  ((s.gangsOf t).flatMap s.gangHarts).foldl (fun s h =>
    if p h || ((s.hartOf h).bar b).member then
      s.modHart h fun x => x.modBar b fun _ => { HartBar.reset with member := p h, phase := last, seen := last }
    else s) s

/-- Declares the groups of a header: a group whose box or mask changes has the members that the header gives it, and one that the
header does not declare has none (R178, R276). -/
def State.declareGroups (t : BitVec 16) (gs : List GroupDecl) (s : State) : State :=
  let old := match s.tab? t with | some x => x.groups | none => []
  let news := gs.filter fun g => find g.grp old != some g
  let gone := old.filter fun p => !gs.any fun g => g.grp == p.1
  let s := s.modTab t fun x => { x with groups := gs.map fun g => (g.grp, g) }
  let s := gone.foldl (fun s p => s.regroup t p.1 fun _ => false) s
  news.foldl (fun s g => s.regroup t g.grp g.covers) s

/-- The tiles of the target gangs of a launch. -/
def State.targets (s : State) (t : BitVec 16) (l : Launch) : List TileId :=
  (List.range l.stages).flatMap fun i => (List.range l.gangs).flatMap fun j =>
    s.gangTiles { tab := t, stage := BitVec.ofNat 4 (l.s0 + i), gang := BitVec.ofNat 10 (l.g0 + j) }

/-- The record for a started hart of a tile (R339). -/
def launchRecord (q : BitVec 12) (prio : Nat) (l : Launch) (h : HartId) : Msg :=
  { header := atBits 40 3 h.num.toNat ||| atBits 24 16 0xFFFF ||| atBits 23 1 1,
    payload := BitVec.ofNat 512 (packWords ((l.words.take 6).map (·.toNat) ++
      [h.tile.tab.toNat * 2 ^ 20 + h.tile.vt.toNat, q.toNat + 65536 * prio])) }
where
  packWords (ws : List Nat) : Nat := ws.foldr (fun w acc => w % 2 ^ 64 + 2 ^ 64 * acc) 0

/-- The launch that only its gate can still hold back: its checks are passed, and no earlier launch must end first (R338, R341). -/
def Queue.ready (q : Queue) : Option (Launch × Header) :=
  match q.current with
  | some l =>
    let behind := l.serial && q.launches.any fun e => e.id != l.id && !e.state.final
    if !q.en || q.killed || behind then none else l.header.map fun h => (l, h)
  | none => none

/-- LAUNCH_DISPATCH: records go to every started hart of the targets (R339, R341, R400). -/
def execLaunchDispatch (q : BitVec 12) (s : State) : Out :=
  .next (
    let x := s.queue q
    match x.ready with
    | some (l, h) =>
        if x.gate.any fun g => g.full != some l.id then s
        else
          let t := x.tabId
          let s := (s.declareGroups t h.groups).modTab t fun y => { y with queueOnly := h.queueOnly, lastPrio := x.prio }
          let s := (s.targets t l).foldl (fun s u => s.readEntry u) s
          let harts := (s.targets t l).flatMap fun u => u.harts.filter fun h => l.hmask.testBit h.num.toNat
          let new := harts.zipIdx.map fun p =>
            { id := s.nextId + p.2, src := none, queue := q, dst := p.1.tile, msg := launchRecord q x.prio l p.1,
              route := s.msgRoute none p.1.tile : Sent }
          let s := { s with msgs := s.msgs ++ new, nextId := s.nextId + harts.length, ostler := { s.ostler with due := true } }
          let s := s.modLaunch q l.id fun l => { l with state := .dispatched, left := harts, vector := x.vector }
          s.modQueue q fun y => { y with gate := y.gate.map fun g => { g with full := none, tries := 0, due := s.now } }
    | none => s)

/-! ## Completion (R342) -/

/-- The completion value. -/
def Launch.value (l : Launch) : Word := atBits 62 1 (b2n (l.status != 0)) ||| atBits 56 6 l.status ||| atBits 0 32 l.seq

/-- DONE advances, and MSI-X is sent. -/
def State.countDone (q : BitVec 12) (l : Launch) (s : State) : State :=
  let s := s.modQueue q fun x => { x with done := x.done + 1 }
  let s := s.qcbWrite q 8 (s.queue q).done
  if (s.queue q).msix && (l.wantsMsix || !l.readable) then { s with answers := s.answers ++ [.msix l.vector] } else s

/-- The completion word could not be filled. The ring index of an entry that cannot be read is its place in the ring, the running index modulo
2^LSIZE (R335, R338; DESIGN CHOICE, log entry 77). -/
def State.badFill (q : BitVec 12) (l : Launch) (s : State) : State :=
  let x := s.queue q
  let bad := if l.readable then BitVec.ofNat 64 l.seq else BitVec.ofNat 64 (2 ^ 63 + l.index % 2 ^ x.lsize)
  let s := s.modQueue q fun x => { x with badSeq := bad, badCount := x.badCount + 1, cwerr := true }
  (s.qcbWrite q 0x28 bad).qcbWrite q 0x30 (s.queue q).badCount

/-- The fill of a launch that has ended; while the word's home serves no access it waits, unless it must not. -/
def State.fillLaunch (q : BitVec 12) (l : Launch) (wait : Bool) (s : State) : State :=
  let filled := fun (s : State) => (s.modLaunch q l.id fun l => { l with fill := false }).countDone q l
  if !l.readable || l.cword.toNat % 8 ≠ 0 then filled (s.badFill q l)
  else
    match s.feHome (s.queue q).tabId needW l.cword with
    | (s, none) => filled (s.badFill q l)
    | (s, some h) =>
      if h.isHost then filled (s.badFill q l)
      else if !s.pageOk h then filled ((s.logDpa h).badFill q l)
      else if wait && !s.feOpen h then s.holdAt h
      else filled (s.completionFill h l.value)

/-- The accesses and messages of a launch's harts, up to where each ended, have been performed (R342). -/
def State.launchQuiet (s : State) (l : Launch) : Bool :=
  l.ended.all fun e => !s.pendingOp e.1 true true (fun n => decide (n < e.2)) &&
    !s.msgs.any fun m => decide (m.src = some e.1) && decide (m.id < e.2) && decide (m.route ≠ .placed)

/-- No matrix command of the tableau remains in any engine (R100). -/
def State.enginesQuiet (s : State) (t : BitVec 16) : Bool :=
  s.clusters.all fun c => [c.2.array, c.2.slot, c.2.bload].all fun l => match l.run with
    | some (h, _) => h.tile.tab != t
    | none => true

/-- LAUNCH_DONE: a launch whose harts have all ended, with every event of theirs performed, is DONE; the fill of one that has ended is
made, a killed one's after every engine command of its tableau (R342). -/
def execLaunchDone (q : BitVec 12) (launch : Nat) (s : State) : Out :=
  .next (match (s.queue q).launches.find? fun l => l.id == launch with
    | some l =>
      if l.state = .dispatched ∧ l.left = [] ∧ s.launchQuiet l then
        let s := s.endLaunch q launch .done 0
        s.fillLaunch q { l with state := .done, status := 0 } true
      else if l.fill && (l.state != .killed || s.enginesQuiet (s.queue q).tabId) then s.fillLaunch q l true
      else s
    | none => s)

/-! ## Doorbells and cancels (R334, R345) -/

/-- Rings the doorbell, or sets OVF. -/
def State.qtailWrite (q : BitVec 12) (half : Half) (x : Word) (s : State) : State :=
  (if half.hasLow then
      let t : BitVec 32 := x.setWidth 32
      s.modQueue q fun y => if 2 ^ y.lsize < (t - y.head).toNat then { y with ovf := true } else { y with tail := t }
    else s)

/-- QTAIL_WRITE. -/
def execQtailWrite (q : BitVec 12) (half : Half) (x : Word) (s : State) : Out := .next (s.qtailWrite q half x)

/-- Clears W1C bits. -/
def State.qstatWrite (q : BitVec 12) (half : Half) (x : Word) (s : State) : State :=
  (if half.hasLow then
      s.modQueue q fun y => { y with cwerr := y.cwerr && !x.getLsbD 3, ovf := y.ovf && !x.getLsbD 2 }
    else s)

/-- QSTAT_WRITE. -/
def execQstatWrite (q : BitVec 12) (half : Half) (x : Word) (s : State) : Out := .next (s.qstatWrite q half x)

/-- The entries between HEAD and TAIL that have not been read, as launches; the words of one that cannot be read are unknown (R338). -/
def State.unread (q : BitVec 12) (s : State) : State × List Launch :=
  let x := s.queue q
  let entries := ((List.range (x.tail - x.head).toNat).map fun k => (x.head + BitVec.ofNat 32 k).toNat).filter fun i =>
    !x.launches.any fun l => l.index == i
  entries.foldl (fun r i => match r.1.feRead x.tabId false 8 (x.entryVa i) with
    | (s, some ws) => (s, r.2 ++ [newLaunch 0 i ws .pending 0 true x.vector])
    | (s, none) => (s, r.2 ++ [newLaunch 0 i (List.replicate 8 0) .pending 0 false x.vector])) (s, [])

/-- Ends a launch that may not have been read yet. -/
def State.endEntry (q : BitVec 12) (l : Launch) (st : LaunchState) (status : Nat) (s : State) : State :=
  if (s.queue q).launches.any fun k => k.index == l.index && k.id == l.id then s.endLaunch q l.id st status
  else
    s.fresh.modQueue q fun x =>
      { x with launches := x.launches ++ [{ l with id := s.nextId, state := st, status := status, fill := true }] }

/-- Cancels the oldest launch of that SEQ not yet DONE (R345). -/
def State.qcancelWrite (q : BitVec 12) (half : Half) (x : Word) (s : State) : State :=
  (if half.hasLow then
      let seq : BitVec 32 := x.setWidth 32
      let y := s.queue q
      let (s, more) := s.unread q
      let all : List Launch := (y.launches.filter (fun l => y.near l.index) ++ more).filter fun l => l.readable && l.seq == seq.toNat
      let s := s.modQueue q fun y => { y with cancelSeq := seq }
      let answer := fun (n : Nat) (s : State) => s.modQueue q fun y => { y with result := n }
      match all.find? (fun l => !l.state.final), all with
      | some l, _ => if l.state = .pending then answer 1 (s.endEntry q l .cancelled 1) else answer 2 s
      | none, _ :: _ => answer 3 s
      | none, [] => answer 4 s
    else s)

/-- QCANCEL_WRITE. -/
def execQcancelWrite (q : BitVec 12) (half : Half) (x : Word) (s : State) : Out := .next (s.qcancelWrite q half x)

/-! ## Configuration (R333, R336) -/

/-- The queue's interface is locked (R397). -/
def State.queueLocked (s : State) (q : BitVec 12) : Bool := s.tdis.contains ((s.queue q).port, (s.queue q).vf)

/-- Writes QCFG0, QCFG1 or QCFG2 by number; a reload follows (R333, R336). -/
def State.qcfgWrite (q : BitVec 12) (reg : BitVec 2) (half : Half) (x : Word) (s : State) : State :=
  (
    if reg = 3 || s.queueLocked q then s
    else
      let s := s.modQueue q fun y =>
        match reg.toNat with
        | 0 =>
          let v := halfMerge half y.cfg0 x
          if y.en then y else { y with cfg0 := atBits 6 42 (bits v 6 42) ||| atBits 0 5 (Nat.min 16 (bits v 0 5)) }
        | 1 =>
          let v := halfMerge half y.cfg1 x
          let t := if y.en then bits y.cfg1 16 16 else bits v 16 16
          { y with cfg1 := atBits 32 16 (bits v 32 16) ||| atBits 16 16 t ||| atBits 8 3 (bits v 8 3) ||| atBits 0 2 (bits v 0 2),
                   killed := y.killed && v.getLsbD 0 }
        | _ =>
          let v := halfMerge half y.cfg2 x
          if y.en then y else { y with cfg2 := atBits 6 42 (bits v 6 42) }
      s.reloadQueue q)

/-- QCFG_WRITE. -/
def execQcfgWrite (q : BitVec 12) (reg : BitVec 2) (half : Half) (x : Word) (s : State) : Out := .next (s.qcfgWrite q reg half x)

/-! ## Gates (R400) -/

/-- One attempt to read the gate word for a launch: it is FULL, or the next attempt or the park follows; a record that is linked, or was
woken, is relinked under its SEQ (R72, R400). A waiting read needs R; the park needs W too (R31), and without it the attempts go on. -/
def State.gateTry (q : BitVec 12) (g : Gate) (l : Launch) (s : State) : State :=
  let set := fun (g : Gate) (s : State) => s.modQueue q fun x => { x with gate := some g }
  let t := (s.queue q).tabId
  let sched := Hart.reset.schedule
  let again := { g with tries := g.tries + 1, due := s.now + interval sched (g.tries + 1) }
  match s.feHome t needR g.va with
  | (s, none) => set again s
  | (s, some h) =>
    if h.isHost then set again s
    else if !s.feOpen h then set again (s.holdAt h)
    else if !s.pageOk h then set again (s.logDpa h)
    else
      let s := s.detect h
      match s.tagOf h with
      | .full => set { g with full := some l.id, linked := none, woken := false } (s.unlink t none q)
      | .poison => set again s
      | tag =>
        if (g.tries < sched.2.2 && g.linked.isNone) || (s.feHome t needRW.fe' g.va).2.isNone then set again s
        else
          let s := if tag = .empty then s.setTag h .parked else s
          set { g with linked := some h, woken := false }
            (s.ask (.link { tab := t, key := parkKey h, seq := 0, kind := 0, hart := none, queue := q, woken := false, more := false }))

/-- The launch that the front end reads the gate word for: one that is ready, not found FULL for yet, with no record still to be woken. -/
def Queue.gateWaits (q : Queue) : Option (Gate × Launch) :=
  match q.gate, q.ready with
  | some g, some (l, _) => if g.full = some l.id ∨ (g.linked.isSome ∧ !g.woken) then none else some (g, l)
  | _, _ => none

/-- GATE_READ: an attempt of the front end on its schedule. -/
def execGateRead (q : BitVec 12) (s : State) : Out :=
  .next (match (s.queue q).gateWaits with
    | some (g, l) => (s.reach g.due).gateTry q g l
    | none => s)

/-- FRONT_END_WAKE: a wake reaches the front end, which tries again once a launch is ready, and relinks while the word is not FULL. -/
def execFrontEndWake (q : BitVec 12) (s : State) : Out :=
  .next (if s.wakes.any fun m => m.hart.isNone && m.queue == q then
      let s := { s with wakes := s.wakes.filter fun m => !(m.hart.isNone && m.queue == q) }
      let s := s.modQueue q fun x => { x with gate := x.gate.map fun g => { g with woken := true } }
      match (s.queue q).gateWaits with
      | some (g, l) => s.gateTry q g l
      | none => s
    else s)

/-! ## Killing a tableau (R100, R346) -/

/-- A kill reaches the harts: every live one stops at once and none is saved (R346, R365, R367). -/
def State.raiseKill (hs : List HartId) (s : State) : State :=
  hs.foldl (fun s h => s.modHart h fun x => { x.stop.modSy fun y => { y with preq := setBits y.preq 0 2 3 } with wfeDue := none }) s

/-- The matrix commands of a hart leave: those queued, and those that run, at the suspension point where they stand (R320); an MX.FREE
that zeroes its slot is finished first. -/
def State.quietMx (h : HartId) (s : State) : State :=
  let keeps := fun (c : MxCmd) => c.started && decide (c.kind = .free)
  let s := ((s.hartOf h).mxq.filter fun c => !keeps c).foldl (fun s c => (s.freeLane c).unclaimAll h.tile c.id) s
  s.modHart h fun x => { x with mxq := x.mxq.filter keeps }

/-- The key slots of the tableau are zeroed in every cluster, and the assayer's copy (R100). -/
def State.zeroKeys (t : BitVec 16) (s : State) : State :=
  let s := { s with clusters := s.clusters.map fun (p : Nat × Cluster) => (p.1, p.2.dropKeys fun u => decide (u = t)) }
  s.modTab t fun x => { x with keys := [], xts := (0, 0) }

/-- The tableau's granules become FREE; those in the loft leave their frames (R100). -/
def State.freeGranules (t : BitVec 16) (s : State) : State :=
  { s with granules := s.granules.filter fun p => p.2.tab ≠ t, loftFrames := s.loftFrames.filter fun p => p.1.tab ≠ t }

/-- The tile map of a tableau: every entry INVALID, and its pages and those of the carrier area free (R23). -/
def State.dropMap (t : BitVec 16) (s : State) : State :=
  match s.tab? t with
  | some x =>
    let p := x.mapBase / 65536
    { s with mem := s.mem.clear x.mapBase (65536 * areaPages x.args),
             dpit := s.dpit.map fun e => if p ≤ e.1 ∧ e.1 < p + areaPages x.args then (e.1, DpitEntry.reset) else e }
  | none => s

/-- Everything else that the machine keeps for a tableau goes: its harts, tiles, gangs, accesses, messages, park records, slots and
loft slots; its slice words read as never written (DEDUCED, log entry 17). -/
def State.forget (t : BitVec 16) (s : State) : State :=
  let mine := fun (h : HartId) => h.tile.tab == t
  let slot := fun (a : AccSlot) => if mine a.owner && a.st != .free then { a with st := .free, acc := [], zeroing := false } else a
  let lane := fun (l : Lane) => { l with dc := l.dc.filter fun p => !mine p.1 }
  let cluster := fun (p : Nat × Cluster) =>
    (p.1, { p.2 with slots := p.2.slots.map slot, array := lane p.2.array, slot := lane p.2.slot, bload := lane p.2.bload })
  let freed := s.tiles.filterMap fun p => if p.1.tab = t then p.2.entry.lslot else none
  { s with
    harts := s.harts.filter fun p => !mine p.1
    tiles := s.tiles.filter fun p => p.1.tab ≠ t
    mem := s.mem.clear (2 ^ 62 + t.toNat * 2 ^ 42) (2 ^ 42)
    latentUE := errorsOutside (2 ^ 62 + t.toNat * 2 ^ 42) (2 ^ 42)
      (errorsOutside (2 ^ 82 + t.toNat * 2 ^ 31) (2 ^ 31) (errorsOutside (2 ^ 84 + t.toNat * 2 ^ 20) (2 ^ 20) s.latentUE))
    ops := s.ops.filter fun o => !(mine o.hart || o.who.any fun w => mine w.1)
    msgs := s.msgs.filter fun m => m.dst.tab ≠ t
    parks := s.parks.filter fun r => r.tab ≠ t
    buckets := s.buckets.filter fun p => p.1.1 ≠ t
    parkReqs := s.parkReqs.filter fun p => p.2.about.1 ≠ t
    wakes := s.wakes.filter fun m => m.tab ≠ t
    invs := s.invs.filter fun m => m.tile.tab ≠ t
    clusters := s.clusters.map cluster
    tabs := del t s.tabs
    gangs := s.gangs.filter fun p => p.1.tab ≠ t
    headers := s.headers.filter fun p => p.1.1 ≠ t
    turns := s.turns.filter fun h => !mine h
    loftUsed := s.loftUsed.filter fun n => !freed.contains n
    calls := s.calls.filter fun p => match p.1 with
      | .hart h => !mine h
      | _ => true
    ostler := { s.ostler with due := true } }

/-- Teardown, once no matrix command remains: the keys are zeroed, then the granules become FREE, then the rest goes (R23, R100). -/
def State.tearDown (t : BitVec 16) (s : State) : State := (((s.zeroKeys t).freeGranules t).dropMap t).forget t

/-- Ends every launch of a queue bound to the tableau; their fills come when the tableau is quiet. -/
def State.killQueue (q : BitVec 12) (s : State) : State :=
  let (s, more) := s.unread q
  let ls := (s.queue q).launches.filter (fun l => !l.state.final) ++ more
  let s := ls.foldl (fun s l => s.endEntry q l .killed 2) s
  let unlinked := fun (g : Gate) => { g with linked := none, woken := false, full := none }
  s.modQueue q fun x => { x with killed := true, gate := x.gate.map unlinked }

/-- An executed access that is performed though its hart is stopped and not saved: one that writes, but for a waiting, taking or filling
one, which is withdrawn (R79, R124, R145). -/
def MemOp.finishes (o : MemOp) : Bool :=
  match o.kind with
  | .fe _ => false
  | .flush => false
  | k => k.writes

/-- Performs a piece of an executed access at its home; one to a slice of the tableau that no home serves goes with the slice (log
entry 17). -/
def State.finishPart (o : MemOp) (s : State) (p : Part) : State :=
  if p.over then s
  else match p.home with
  | .slice _ _ => if s.homeServes o.hart p.home then (s.perform o.kind p o.val o.x o.y false).1 else s
  | h => if s.pageOk h then ((s.track (s.fromTile o.hart.tile) h).perform o.kind p o.val o.x o.y false).1 else s.logDpa h

/-- The accesses that a killed tableau's harts have executed are performed, as at a halt: the lines of its write buffers leave, and what
writes is performed in the order of its harts (R124, R145; DEDUCED, log entry 17). -/
def State.finishFlight (t : BitVec 16) (s : State) : State :=
  let ts := (s.tiles.map (·.1)).filter fun u => u.tab == t
  let s := ts.foldl (fun s u => (List.range (s.tile u).wbuf.length).foldl (fun s _ => s.drain u) s) s
  let os := s.ops.filter fun o => o.hart.tile.tab == t && o.finishes
  (sortBy (fun a b => decide (a.seq < b.seq)) os).foldl (fun s o => o.parts.foldl (State.finishPart o) s) s

/-- What a killed tableau's harts have under way leaves: performed accesses, reads, withdrawn accesses, messages, which go to its own
inboxes, and copies, which are suspended and not saved (R79, R346; DEDUCED, log entry 17). -/
def State.dropFlight (t : BitVec 16) (s : State) : State :=
  let mine := fun (h : HartId) => h.tile.tab == t
  { s with
    ops := s.ops.filter fun o => !(mine o.hart || o.who.any fun w => mine w.1)
    msgs := s.msgs.filter fun m => m.dst.tab ≠ t
    tiles := s.tiles.map fun p => if p.1.tab = t then (p.1, { p.2 with wbuf := [], claims := [] }) else p
    harts := s.harts.map fun p => if mine p.1 then (p.1, { p.2 with cps := [] }) else p }

/-- The fills of a killed tableau's launches, after every event and every engine command of its harts (R342, R346). -/
def State.killFills (t : BitVec 16) (s : State) : State :=
  (s.queues.filter fun p => p.2.tabId == t).foldl (fun s p =>
    (p.2.launches.filter fun l => l.fill).foldl (fun s l => s.fillLaunch p.1 l false) s) s

/-- TBL_KILL: the tableau's harts stop at once, as for pre-emption, and are not saved; what they have executed is performed; its launches end
with STATUS KILLED, and when its engines are quiet, and so after every event of its harts, their words are filled and it is torn down (R100,
R124, R342, R346). -/
def execTblKill (tab : BitVec 16) (s : State) : Out :=
  .next (match s.tab? tab with
    | none => s
    | some x =>
      let s :=
        if x.alive then
          let qs := (s.queues.filter fun p => p.2.tabId == tab).map (·.1)
          let s := (qs.foldl (fun s q => s.killQueue q) s).modTab tab fun x => { x with alive := false }
          let hs := (s.gangsOf tab).flatMap s.gangHarts
          ((hs.foldl (fun s h => s.quietMx h) (s.raiseKill hs)).finishFlight tab).dropFlight tab
        else s
      if s.enginesQuiet tab then (s.killFills tab).tearDown tab else s)

end Sys2Proof.Machine
end

