-- ==== Sys2Proof/Machine/Ostler.lean ====
section
/-!
DEFINITION. The ostler (R160, R165, R177-R182, R347-R353, R423, R426): rectangles, admission, reservations, placement, time
slices, barrier planes, and the pass.
-/

namespace Sys2Proof

/-- A gang lies in a box (R352). -/
def GangBox.has (b : GangBox) (g : GangId) : Bool :=
  decide (b.s0 ≤ g.stage.toNat) && decide (g.stage.toNat ≤ b.s1) && decide (b.n0 ≤ g.gang.toNat) && decide (g.gang.toNat ≤ b.n1)

end Sys2Proof

namespace Sys2Proof.Machine

/-! ## Rectangles (R160) -/

/-- A rectangle of physical tiles in the order of the gang's tiles: its corner, its orientation and its tiles. -/
structure Fit where
  x0     : Nat
  y0     : Nat
  orient : Bool
  tiles  : List Nat
deriving DecidableEq, Repr

/-- Where tile t of a gang of width gw and height gh stands (R159, R160). -/
def rectTile (gw gh x0 y0 : Nat) (orient : Bool) (t : Nat) : Nat × Nat :=
  if orient then (x0 + gh - 1 - t / gw, y0 + t % gw) else (x0 + t % gw, y0 + t / gw)

def rectTiles (gw gh x0 y0 : Nat) (orient : Bool) : List (Nat × Nat) := (List.range (gw * gh)).map (rectTile gw gh x0 y0 orient)

/-- A rectangle that stays on the array and whose every tile satisfies p. -/
def fitAt (gw gh x0 y0 : Nat) (orient : Bool) (p : Nat → Bool) : Option Fit :=
  let ts := rectTiles gw gh x0 y0 orient
  if ts.all fun q => decide (q.1 < 112) && decide (q.2 < 112) && p (q.2 * 112 + q.1) then
    some { x0 := x0, y0 := y0, orient := orient, tiles := ts.map fun q => q.2 * 112 + q.1 }
  else none

/-- A tile of the granted share. -/
def inShare (share : List Rect) (p : Nat) : Bool :=
  share.any fun r => decide (r.x0 ≤ p % 112) && decide (p % 112 ≤ r.x1) && decide (r.y0 ≤ p / 112) && decide (p / 112 ≤ r.y1)

/-- The corners of a share in (py, px) order. -/
def corners (share : List Rect) : List (Nat × Nat) :=
  let lo := fun (f : Rect → Nat) => share.foldl (fun n r => Nat.min n (f r)) 111
  let hi := fun (f : Rect → Nat) => share.foldl (fun n r => Nat.max n (f r)) 0
  let ux := lo (·.x0)
  let uy := lo (·.y0)
  (List.range (hi (·.y1) + 1 - uy)).flatMap fun j => (List.range (hi (·.x1) + 1 - ux)).map fun i => (ux + i, uy + j)

/-- The rectangles for a gang of a tableau whose tiles satisfy p, in the order of R350's rules 2 and 3. -/
def State.fits (s : State) (g : GangId) (p : Nat → Bool) : List Fit :=
  match s.tab? g.tab with
  | some x =>
    match x.shape with
    | some (gw, gh) =>
      let ok := fun (q : Nat) => inShare x.args.share q && !s.retired.contains q && p q
      (corners x.args.share).flatMap fun c => ([false, true].map fun o => fitAt gw gh c.1 c.2 o ok).filterMap id
    | none => []
  | none => []

/-! ## Who stands where -/

/-- The scheduling states in which a gang holds its tiles (R347). -/
def SchedState.holds : SchedState → Bool
  | .placing | .running | .stopping | .saving => true
  | _ => false

/-- The physical tiles of a gang, in the order of its tiles: none for one that holds none. -/
def State.rectOf (s : State) (g : GangId) : List Nat :=
  let x := s.gang g
  if x.sched.holds then
    match (s.tab? g.tab).bind (·.shape) with
    | some (gw, gh) => (rectTiles gw gh x.x0 x.y0 x.orient).map fun q => q.2 * 112 + q.1
    | none => []
  else []

/-- Every physical tile held, with its gang. -/
def State.occupancy (s : State) : List (Nat × GangId) := s.gangs.flatMap fun p => (s.rectOf p.1).map fun q => (q, p.1)

/-- The cluster where a tile's context stands or is placed. -/
def State.standsOn (s : State) (t : TileId) : Option Nat := ((s.rectOf t.gang)[t.inGang]?).map clusterOf

/-- Some tile of one rectangle is next to some tile of another (R165). -/
def adjacent (a b : List Nat) : Bool :=
  a.any fun p => b.any fun q =>
    let dx := (p % 112 - q % 112) + (q % 112 - p % 112)
    let dy := (p / 112 - q / 112) + (q / 112 - p / 112)
    dx + dy == 1

/-- The rectangle of the resident gang of the stage before, with the same gang number (R350). -/
def State.before (s : State) (g : GangId) : List Nat :=
  if g.stage = 0 then []
  else
    let b := { g with stage := g.stage - 1 }
    if (s.gang b).st = .resident then s.rectOf b else []

/-! ## Co-residency sets (R352) -/

/-- The gangs that the ostler treats as one with a gang: the first co-residency set that holds it, or itself. -/
def State.unitOf (s : State) (g : GangId) : List GangId :=
  match s.tab? g.tab with
  | some x =>
    match x.args.sets.find? (fun b => b.has g) with
    | some b => (s.gangsOf g.tab).filter fun q => b.has q
    | none => [g]
  | none => [g]

/-- The highest PRIO of a unit's members. -/
def State.prioOf (s : State) (u : List GangId) : Nat := u.foldl (fun n g => Nat.max n (s.gang g).prio) 0

/-- When a unit was placed: when the last of its members was. -/
def State.placedAt (s : State) (u : List GangId) : Nat := u.foldl (fun n g => Nat.max n (s.gang g).placedAt) 0

/-- The earliest time at which a runnable member became RUNNABLE. -/
def State.sinceOf (s : State) (u : List GangId) : Nat :=
  (u.filter fun g => (s.gang g).sched = .runnable).foldl (fun n g => Nat.min n (s.gang g).readyAt) s.now

/-! ## Priorities (R348, R353) -/

def Ostler.ageStep (o : Ostler) : Nat := bits o.cfg 0 16
def Ostler.limit (o : Ostler) : Nat := bits o.cfg 16 4

/-- OST.CFG as written: AGESTEP and LIMIT of 0 read back as 1. -/
def ostCfg (v : Word) : Word := atBits 16 4 (Nat.max 1 (bits v 16 4)) ||| atBits 0 16 (Nat.max 1 (bits v 0 16))

/-- The minimum slice in µs: 16, or 18 in EFFICIENT mode (R353). -/
def Power.minSlice (p : Power) : Nat := if p.mode = 1 then 18 else 16

/-- A slice register as written under a minimum. -/
def ostSlices (least : Nat) (v : Word) : Word :=
  let f := fun (i : Nat) => atBits (16 * i) 16 (Nat.max least (bits v (16 * i) 16))
  f 0 ||| f 1 ||| f 2 ||| f 3

/-- The time slice of a priority in cycles. -/
def State.sliceOf (s : State) (prio : Nat) : Nat :=
  4000 * (if prio < 4 then bits s.ostler.slice0 (16 * prio) 16 else bits s.ostler.slice1 (16 * (prio % 4)) 16)

/-- When the time slice of a gang's unit ends (R352, R353). -/
def State.sliceEnd (s : State) (g : GangId) : Nat := s.placedAt (s.unitOf g) + s.sliceOf (s.prioOf (s.unitOf g))

/-- The boost of a runnable unit. -/
def State.boost (s : State) (u : List GangId) : Nat :=
  Nat.min ((s.now - s.sinceOf u) / (4000 * s.ostler.ageStep)) 15

/-- The effective priority: of a resident unit its PRIO, of a runnable one with its boost. -/
def State.eff (s : State) (u : List GangId) : Nat :=
  s.prioOf u + (if u.any fun g => (s.gang g).sched.holds then 0 else s.boost u)

def State.starving (s : State) (u : List GangId) : Bool := decide (s.ostler.limit ≤ s.boost u)

/-- The order of runnable units (R348). -/
def State.ahead (s : State) (a b : List GangId) : Bool :=
  let no := fun (u : List GangId) => match u with
    | g :: _ => g.tab.toNat * 2 ^ 14 + g.stage.toNat * 2 ^ 10 + g.gang.toNat
    | [] => 0
  let ea := s.eff a
  let eb := s.eff b
  decide (eb < ea) || (ea == eb && (decide (s.sinceOf a < s.sinceOf b) || (s.sinceOf a == s.sinceOf b && decide (no a < no b))))

/-- The runnable units, in order: some member is RUNNABLE, none holds tiles, and the gang shape is known (R164). (DEDUCED: log entry 37.) -/
def State.runnable (s : State) : List (List GangId) :=
  let us := ((s.gangs.filter fun p => p.2.sched == .runnable).map fun p => s.unitOf p.1).eraseDups
  sortBy s.ahead (us.filter fun u => u.all fun g =>
    !(s.gang g).sched.holds && (match s.tab? g.tab with | some x => x.alive && x.shape.isSome | none => false))

/-! ## Admission (R349) -/

/-- The clusters of some physical tiles. -/
def clustersOf (ps : List Nat) : List Nat := (ps.map clusterOf).eraseDups

/-- The tile that holds a granule. -/
def State.granuleTile (s : State) (gid : Nat) : Option TileId :=
  (s.tiles.find? fun p => (s.granulesOf p.1).any fun b => b.2 == gid).map (·.1)

/-- Granules of a cluster held for tiles that do not stand there and are not among those named (R302, R375). -/
def State.strayGranules (s : State) (c : Nat) (mine : List TileId) : Nat :=
  (s.granules.filter fun p => p.2.cluster == some c && (match s.granuleTile p.1 with
    | some t => !mine.contains t && s.standsOn t != some c
    | none => true)).length

/-- FREE slots of a cluster. -/
def State.freeAcc (s : State) (c : Nat) : Nat := ((s.cluster c).slots.toList.filter fun a => a.st == .free && !a.zeroing).length

/-- Saved slots that the harts of a tile bring. -/
def State.brings (s : State) (t : TileId) : Nat := t.harts.foldl (fun n h => n + (s.hartOf h).saved.length) 0

/-- The lowest free loft slot (R423). -/
def State.loftSlot (s : State) : Option Nat := (List.range s.loftSize).find? fun n => !s.loftUsed.contains n

/-- The key slots of a cluster admit a tableau (R99). -/
def Cluster.admitsKey (c : Cluster) (t : BitVec 16) : Bool := (c.keyOf t).isSome || c.freeKeySlot.isSome

/-- A tableau keeps its key slot in a cluster while a gang of it holds a tile there or a granule of it is held there (R99). -/
def State.usesCluster (s : State) (t : BitVec 16) (c : Nat) : Bool :=
  (s.occupancy.any fun o => o.2.tab == t && clusterOf o.1 == c) || s.granules.any fun g => g.2.tab == t && g.2.cluster == some c

/-- Frees the key slots that no tableau uses (R99). -/
def State.tidyKeys (s : State) : State :=
  { s with clusters := s.clusters.map fun (p : Nat × Cluster) => (p.1, p.2.dropKeys fun t => !s.usesCluster t p.1) }

/-- Every condition of R349 on a rectangle for a gang whose tiles are free. The clusters together have the FREE accumulator slots. -/
def State.admits (s : State) (g : GangId) (f : Fit) : Bool :=
  let ts := s.gangTiles g
  let place := ts.zip f.tiles
  let cs := clustersOf f.tiles
  let at' := fun (c : Nat) => place.filter fun p => clusterOf p.2 == c
  (cs.all fun c =>
    let held := (s.occupancy.filter fun p => clusterOf p.1 == c).length
    (s.cluster c).admitsKey g.tab && decide (48 * ((at' c).length + held) + s.strayGranules c ((at' c).map (·.1)) ≤ 192)) &&
    decide (ts.foldl (fun n t => n + s.brings t) 0 ≤ cs.foldl (fun n c => n + s.freeAcc c) 0) &&
    decide ((ts.filter fun t => (s.mapEntry t).lslot.isNone).length + s.loftUsed.length ≤ s.loftSize) &&
    ts.all (fun t => !(s.tile t).slotClearing) && ((s.gang g).inShadow || (s.gang g).st == .absent)

/-- A gang placed on a rectangle need not wait until its context has left shadow: it is in the loft, or in shadow in the same clusters
(R376). -/
def State.inPlace (s : State) (g : GangId) (f : Fit) : Bool :=
  !(s.gang g).inShadow || ((s.gangTiles g).zip f.tiles).all fun p => s.clusterAt p.1 == clusterOf p.2

/-- The rectangle that R350 takes for a gang among those whose tiles satisfy p. -/
def State.choose (s : State) (g : GangId) (p : Nat → Bool) : Option Fit :=
  let fs := s.fits g p
  let near := s.before g
  match fs.find? (fun f => adjacent f.tiles near && s.admits g f) with
  | some f => some f
  | none => fs.find? (s.admits g)

/-! ## Placing (R376) -/

/-- Gives a tile's vtile the lowest free loft slot when it holds none (R423). -/
def State.giveLoft (t : TileId) (s : State) : State :=
  if (s.mapEntry t).lslot.isSome then s
  else
    match s.loftSlot with
    | some n => { s.setEntry t (fun e => { e with lslot := some n }) with loftUsed := n :: s.loftUsed }
    | none => s

/-- A saved slot of a hart gets a FREE slot of the engine, EVICTED until it is restored (R321). -/
def State.keepSlot (c : Nat) (h : HartId) (n : KReg) (s : State) : State :=
  match (List.range 8).find? fun p => let a := s.slotAt { cluster := c, slot := p, gen := 0 }; a.st == .free && !a.zeroing with
  | some p =>
    let gen := (s.slotAt { cluster := c, slot := p, gen := 0 }).gen + 1
    let r : SlotRef := { cluster := c, slot := p, gen := gen }
    (s.modSlot r fun a => { a with st := .evicted, owner := h, gen := gen, acc := [] }).modHart h fun x => { x with slots := put n r x.slots }
  | none => s

/-- Reserves FREE accumulator slots on the clusters where a gang is placed, for those of its saved slots that have none yet. (DEDUCED: log
entry 89.) -/
def State.keepSlots (g : GangId) (s : State) : State :=
  ((s.gangTiles g).zip (s.rectOf g)).foldl (fun s p => p.1.harts.foldl (fun s h =>
    ((s.hartOf h).saved.filter fun q => (find q.1 (s.hartOf h).slots).isNone).foldl (fun s q => s.keepSlot (clusterOf p.2) h q.1) s) s) s

/-- Every saved slot of a gang has a slot of its new engine. -/
def State.slotsKept (s : State) (g : GangId) : Bool :=
  (s.gangHarts g).all fun h => (s.hartOf h).saved.all fun q => (find q.1 (s.hartOf h).slots).isSome

/-- The entries of a placed gang become SETTLING inward, with GEN incremented where they were not SETTLING (R376 step 1); a slice that no loft
slot has held is cleared (R54, R163). -/
def State.inward (g : GangId) (s : State) : State :=
  ((s.gangTiles g).foldl (fun s t => (if (s.mapEntry t).fresh then s.clearSlice t else s).setEntry t fun x =>
    let e := { x with fresh := false, dirIn := true, st := .settling }
    if x.st = .settling then e else e.bump) s).modGang g fun x => { x with st := .settlingIn }

/-- Places a gang on a rectangle: loft slots, key slots and accumulator slots; its entries turn SETTLING inward at once, unless its context
is in shadow elsewhere (R99, R349, R376). -/
def State.place (g : GangId) (f : Fit) (s : State) : State :=
  let now := s.inPlace g f
  let s := ((s.gangTiles g).zip f.tiles).foldl (fun s p =>
    ((s.giveLoft p.1).modTile p.1 fun x => { x with slotClearing := false }).modCluster (clusterOf p.2) fun x => x.loadKey (s.keysOf g.tab)) s
  let s := (s.modGang g fun x => { x with sched := .placing, x0 := f.x0, y0 := f.y0, orient := f.orient }).keepSlots g
  if now then s.inward g else s

/-- Places every gang of a unit on free tiles that satisfy p, or none: the state after and the tiles used. -/
def State.placeUnit (p : Nat → Bool) : List GangId → State → Option (State × List Nat)
  | [], s => some (s, [])
  | g :: gs, s =>
    match s.choose g fun q => p q && !(s.occupancy.any fun o => o.1 == q) with
    | some f =>
      match State.placeUnit p gs (s.place g f) with
      | some (s', ts) => some (s', f.tiles ++ ts)
      | none => none
    | none => none

/-! ## Stopping (R347, R351, R367) -/

/-- Some member of a unit is on its way in. -/
def State.comingIn (s : State) (u : List GangId) : Bool := u.any fun g => (s.gang g).sched == .placing

/-- Raises a stop request on the RUNNING gangs of a unit; one that is pending stands (R367, R369). The members are victims together, so none is
asked while another is on its way in (R352). -/
def State.raise (u : List GangId) (s : State) : State :=
  if s.comingIn u then s
  else u.foldl (fun s g => s.modGang g fun x => if x.sched = .running then { x with sched := .stopping, raisedAt := s.now } else x) s

/-- A tile's inbox holds a record, entries or backlog (R347). -/
def Tile.hasRecord (t : Tile) : Bool := (t.inbox ++ t.backlog).any (·.fe)

/-- A gang has work (R347). -/
def State.hasWork (s : State) (g : GangId) : Bool :=
  (s.gangTiles g).any (fun t => (s.tile t).hasRecord) || (s.gangHarts g).any (fun h => (s.hartOf h).live) ||
    ((s.gang g).fault.isSome && (match s.tab? g.tab with | some x => !x.queueOnly | none => false))

/-- Groups of a tableau that run on a plane. -/
def State.wired (s : State) (t : BitVec 16) : List (BitVec 4) :=
  match s.tab? t with
  | some x => (x.state.filter fun p => p.2.plane.isSome).map (·.1)
  | none => []

/-- Freezes a gang: its entries SETTLING outward with GEN incremented, and its groups extended (R180, R373 step 1). -/
def State.freeze (g : GangId) (s : State) : State :=
  let s := (s.gangTiles g).foldl (fun s t => s.setEntry t fun e => ({ e with st := .settling, dirIn := false } : MapEntry).bump) s
  let s := s.modGang g fun x => { x with st := .settlingOut, sched := .saving }
  (s.wired g.tab).foldl (fun s b => if (s.groupGangs g.tab b).contains g then s.takePlane g.tab b else s) s

/-! ## Barrier planes (R177, R180) -/

/-- Every member gang is RESIDENT, and there is a member. -/
def State.groupHere (s : State) (t : BitVec 16) (b : BitVec 4) : Bool :=
  let gs := s.groupGangs t b
  gs != [] && gs.all fun g => (s.gang g).st == .resident

/-- Gives a group a plane: its record's arrivals and its last release are copied in the same step (R182). -/
def State.givePlane (t : BitVec 16) (b : BitVec 4) (s : State) : State :=
  match (List.range 8).find? fun i => !s.planeBusy t b (BitVec.ofNat 3 i) with
  | some i =>
    let p := (s.group t b).phase - 1
    let s := (s.barHarts t b).foldl (fun s h =>
      (s.modHart h fun x => x.modBar b fun y => { y with sent := true }).tellPhase h b p) s
    s.modGroup t b fun x => { x with plane := some (BitVec.ofNat 3 i) }
  | none => s

/-- The planes of a pass: that of a group with a member gang not RESIDENT goes back, and groups whose gangs are all here get one (R180). -/
def State.planes (s : State) : State :=
  let all := s.tabs.flatMap fun p => (List.range 16).map fun i => (p.1, (BitVec.ofNat 4 i : BitVec 4))
  let s := all.foldl (fun s p => match (s.group p.1 p.2).plane with
    | some _ => if s.groupHere p.1 p.2 then s else s.takePlane p.1 p.2
    | none => s) s
  all.foldl (fun s p => if (s.group p.1 p.2).plane.isNone && s.groupHere p.1 p.2 then s.givePlane p.1 p.2 else s) s

/-! ## The pass (R349) -/

/-- A state in which a unit has left its tiles, to ask what would be placed there: its slots are saved, and its granules and key slots
are out of its clusters (R321, R347, R349, R375). -/
def State.without (u : List GangId) (s : State) : State :=
  let hs := u.flatMap s.gangHarts
  let mine := fun (a : AccSlot) => if hs.contains a.owner then { a with st := .free, acc := [], zeroing := false } else a
  let gids := ((u.flatMap s.gangTiles).flatMap fun t => (s.granulesOf t).map (·.2))
  let s := hs.foldl (fun s h => s.modHart h fun x => { x with saved := x.slots.map fun p => (p.1, s.slotAt p.2), slots := [] }) s
  let s := { s with clusters := s.clusters.map fun (p : Nat × Cluster) => (p.1, { p.2 with slots := p.2.slots.map mine }),
                    granules := s.granules.map fun (p : Nat × Granule) => if gids.contains p.1 then (p.1, { p.2 with cluster := none }) else p }
  (u.foldl (fun s g => s.modGang g fun x => { x with sched := .idle, st := .absent }) s).tidyKeys

/-- A rectangle of a reservation: its tiles and the units it disturbs. -/
structure Claim where
  tiles : List Nat
  units : List (List GangId)
deriving DecidableEq, Repr

/-- The score of a rectangle for a reservation (R351): the highest eff among its occupants, one more, and how many gangs it
disturbs, a co-residency set counting as one (R352); none when an occupant may not be disturbed. -/
def State.disturbs (s : State) (eff : Nat) (f : Fit) : Option (Nat × Nat × Claim) :=
  let gs := ((s.occupancy.filter fun o => f.tiles.contains o.1).map (·.2)).eraseDups
  let least := 4000 * s.power.minSlice
  let us := (gs.map s.unitOf).eraseDups
  if us.all fun u => decide (s.eff u < eff) && !s.comingIn u && decide (s.placedAt u + least ≤ s.now) then
    some (us.foldl (fun n u => Nat.max n (s.eff u + 1)) 0, us.length, { tiles := f.tiles, units := us })
  else none

/-- The key slots of a rectangle's clusters would admit a tableau once the units it disturbs have left (R99, R160). -/
def State.keysAfter (s : State) (t : BitVec 16) (c : Claim) : Bool :=
  let after := s.without c.units.flatten
  (clustersOf c.tiles).all fun k => (after.cluster k).admitsKey t

/-- The reservation of a gang (R351), clear of tiles already reserved. -/
def State.reserveGang (s : State) (eff : Nat) (g : GangId) (taken : List Nat) : Option Claim :=
  let near := s.before g
  let cs := (s.fits g fun q => !taken.contains q).filterMap fun f =>
    ((s.disturbs eff f).filter fun c => s.keysAfter g.tab c.2.2).map fun c => ((c.1, c.2.1, if adjacent f.tiles near then 0 else 1), c.2.2)
  let better := fun (a b : Nat × Nat × Nat) =>
    decide (a.1 < b.1) || (a.1 == b.1 && (decide (a.2.1 < b.2.1) || (a.2.1 == b.2.1 && decide (a.2.2 < b.2.2))))
  (cs.foldl (fun (acc : Option ((Nat × Nat × Nat) × Claim)) c => match acc with
    | some a => if better c.1 a.1 then some c else some a
    | none => some c) none).map (·.2)

/-- The reservation of a unit: of every member, or none. -/
def State.reserveUnit (s : State) (eff : Nat) : List GangId → List Nat → Option Claim
  | [], _ => some { tiles := [], units := [] }
  | g :: gs, taken =>
    match s.reserveGang eff g taken with
    | some c =>
      match State.reserveUnit s eff gs (c.tiles ++ taken) with
      | some d => some { tiles := c.tiles ++ d.tiles, units := c.units ++ d.units }
      | none => none
    | none => none

/-- Step 1: reservations for the starving units, in order, and stop requests on what overlaps them. -/
def State.reservations (us : List (List GangId)) (s : State) : State × List (List GangId × List Nat) :=
  us.foldl (fun (acc : State × List (List GangId × List Nat)) u =>
    if acc.1.starving u then
      match acc.1.reserveUnit (acc.1.eff u) u (acc.2.flatMap (·.2)) with
      | some c => (c.units.foldl (fun s v => s.raise v) acc.1, acc.2 ++ [(u, c.tiles)])
      | none => acc
    else acc) (s, [])

/-- Tiles that a unit may use: reserved for no other. -/
def freeFor (rs : List (List GangId × List Nat)) (u : List GangId) (q : Nat) : Bool :=
  !rs.any fun r => r.1 != u && r.2.contains q

/-- Step 2: each unit in order. The first that waits is the head and is always tried; the others only while none of those that
wait starves. -/
def State.placeAll (rs : List (List GangId × List Nat)) : List (List GangId) → List (List GangId) → State → State × List (List GangId)
  | [], waiting, s => (s, waiting)
  | u :: us, waiting, s =>
    if waiting = [] || !(waiting ++ u :: us).any s.starving then
      match s.placeUnit (freeFor rs u) u with
      | some (s', _) => State.placeAll rs us waiting s'
      | none => State.placeAll rs us (waiting ++ [u]) s
    else State.placeAll rs us (waiting ++ [u]) s

/-- A RUNNING unit leaves when it has no work and, if it left, step 2 would place some runnable gang on a rectangle that includes
one of its tiles (R347). -/
def State.leavers (rs : List (List GangId × List Nat)) (us : List (List GangId)) (s : State) : List (List GangId) :=
  let run := ((s.gangs.filter fun p => p.2.sched == .running).map fun p => s.unitOf p.1).eraseDups
  run.filter fun v => (v.all fun g => (s.gang g).sched == .running && !s.hasWork g) &&
    (let tiles := v.flatMap s.rectOf
     let after := (State.placeAll rs us [] (s.without v)).1
     us.any fun u => u.any fun g => (after.rectOf g).any tiles.contains)

/-- A unit would fit on rectangles one of which holds some of the tiles named (R349). -/
def State.fitsOn (s : State) (rs : List (List GangId × List Nat)) (u : List GangId) (tiles : List Nat) : Bool :=
  let free := fun (s : State) (q : Nat) => freeFor rs u q && !(s.occupancy.any fun o => o.1 == q)
  u.any fun g => (s.fits g (free s)).any fun f =>
    f.tiles.any tiles.contains && s.admits g f && ((s.place g f).placeUnit (freeFor rs u) (u.erase g)).isSome

/-- Step 3: a RUNNING unit whose slice has expired is stopped when a waiting unit of equal or higher eff would fit on tiles that
include one of its own. -/
def State.expire (rs : List (List GangId × List Nat)) (waiting : List (List GangId)) (s : State) : State :=
  let run := ((s.gangs.filter fun p => p.2.sched == .running && p.2.expired).map fun p => s.unitOf p.1).eraseDups
  let lt := fun (a b : List GangId) => decide (s.eff a < s.eff b) || (s.eff a == s.eff b && decide (s.placedAt a < s.placedAt b))
  (sortBy lt run).foldl (fun st v =>
    let tiles := v.flatMap s.rectOf
    if waiting.any fun u => decide (s.eff v ≤ s.eff u) && (s.without v).fitsOn rs u tiles then st.raise v else st) s

/-- The ostler's answers before it places: records that the carrier queue refused (R339), reports of FRESH entries (R23, R423),
faults under QUEUE_ONLY, which are logged (R176), and gangs outside their share (R426). -/
def State.answers' (s : State) : State :=
  let s := (s.msgs.filter fun m => m.src.isNone && m.route == .refused).foldl (fun s m => s.readEntry m.dst) s
  let again := fun (m : Sent) => if m.src.isNone && m.route == .refused then { m with route := s.msgRoute none m.dst } else m
  let s := { s with msgs := s.msgs.map again }
  let s := (s.tiles.filter fun p => p.2.slotClearing).foldl (fun s p => s.giveLoft p.1) s
  let quiet := fun (p : GangId × Gang) => match s.tab? p.1.tab with
    | some x => if x.queueOnly then (p.1, { p.2 with fault := none }) else p
    | none => p
  let told : List FaultRec := s.gangs.filterMap fun p => match s.tab? p.1.tab, p.2.fault with
    | some x, some (vt, isMsg, n) => if x.queueOnly then some { gang := p.1, vt := vt, isMsg := isMsg, count := n } else none
    | _, _ => none
  let s : State := { s with gangs := s.gangs.map quiet, faultLog := s.faultLog ++ told }
  s.gangs.foldl (fun s p => match s.tab? p.1.tab with
    | some x => if (s.gang p.1).sched = .running && (s.rectOf p.1).any (fun q => !inShare x.args.share q) then s.raise (s.unitOf p.1) else s
    | none => s) s

/-- The head factor decides: it has gone less than 9 ms without a renewal (R406). -/
def Factors.decides (f : Factors) (now : Nat) : Bool := f.deciding && decide (now < f.renewed + 36000000)

/-- OSTLER_PASS (R349), while the head factor decides (R406). (DEDUCED: log entry 37.) -/
def execOstlerPass (s : State) : Out :=
  .next (if !s.ostler.due || !s.factors.decides s.now then s
    else
      let s := { s with ostler := { s.ostler with due := false, lastPass := s.now } }
      let s := s.answers'
      let us := s.runnable
      let r := s.reservations us
      let s := (r.1.leavers r.2 us).foldl (fun s v => v.foldl (fun s g => s.freeze g) s) r.1
      let p := State.placeAll r.2 us [] s
      (p.1.expire r.2 p.2).planes)

/-- PASS_TIMER: a pass at least once every 4,000 cycles (R349). -/
def execPassTimer (s : State) : Out :=
  let s := s.reach (s.ostler.lastPass + 4000)
  .next { s with ostler := { s.ostler with due := true } }

/-- SLICE_EXPIRY: the time slice of a RUNNING gang ends, measured from its placement (R353); a co-residency set has one, of its highest PRIO,
from when its last member was placed (R352). -/
def execSliceExpiry (gg : GangId) (s : State) : Out :=
  .next (
    let x := s.gang gg
    if x.sched = .running ∧ !x.expired ∧ s.comingIn (s.unitOf gg) = false then
      let s := s.reach (s.sliceEnd gg)
      { s.modGang gg (fun x => { x with expired := true }) with ostler := { s.ostler with due := true } }
    else s)

/-- LOFT_SLOT_CLEAR: the slot that a report was answered with is clear; the entry is rewritten (R23, R423). -/
def execLoftSlotClear (t : TileId) (s : State) : Out :=
  .next (
    let x := s.tile t
    if x.slotClearing && x.entry.lslot.isSome then
      ((s.modTile t fun x => { x with slotClearing := false }).setEntry t fun e => ({ e with fresh := false } : MapEntry).bump).clearSlice t
    else s)

end Sys2Proof.Machine
end

