-- ==== Sys2Proof/Machine/SaveArea.lean ====
section
/-!
DEFINITION. The shadow's ciphertext (R98): the units of a saved context and of its accumulator images on the bonded die.
-/

namespace Sys2Proof.Machine

/-- The 64 bytes at an offset in a context, as the unit's data. -/
def unitOfBytes (f : Nat → Byte) (off : Nat) : VWord := BitVec.ofNat 512 (leNat ((List.range 64).map fun k => f (off + k)))

/-- Unit u of a tile context on the bonded die: context number 0. -/
def State.shadowUnit (s : State) (t : TileId) (u : Nat) : VWord :=
  (s.keysOf t.tab).encrypt (shadowTweak (s.dense t) 0 u) (unitOfBytes (s.slotByte t) (64 * u))

/-- Unit u of the saved slot that a hart maps under a name. -/
def State.shadowImageUnit (s : State) (h : HartId) (n : KReg) (a : AccSlot) (u : Nat) : VWord :=
  (s.keysOf h.tile.tab).encrypt (shadowTweak (s.dense h.tile) (slotContext h.num n) u) (unitOfBytes a.imageByte (64 * u))

end Sys2Proof.Machine
end

