-- ==== Sys2Proof/Machine/Swap.lean ====
section
/-!
DEFINITION. Pre-emption and gang swap (R79, R99, R124, R163, R320, R321, R365-R377, R383), and machine checks (R384).
-/

namespace Sys2Proof.Machine

/-! ## Stop requests (R365-R371) -/

/-- The cycle of the forced stop: T0 + DEAD - 24 (R367). -/
def State.deadline (s : State) (h : HartId) : Nat := (s.gang h.tile.gang).raisedAt + bits (s.hartOf h).sy.pdead 0 32 - 24

/-- The request reaches a hart: the setting of SY.PREQ is a latch event, which ends a sleep, and a hart that waited stops (R329, R367). -/
def State.preempt (h : HartId) (s : State) : State :=
  let run := (s.hartOf h).run
  let s := s.modHart h fun x => (x.modSy fun y => { y with preq := atBits 16 32 (s.deadline h) ||| atBits 0 1 1 }).latchEvent
  match run with
  | .running => s
  | .halted => s
  | _ => s.stopHart h

/-- PREEMPT_REQUEST: the request reaches every tile of the gang; harts that wait stop at once (R367). -/
def execPreemptRequest (gg : GangId) (s : State) : Out :=
  .next (if (s.gang gg).sched = .stopping then
      (s.gangHarts gg).foldl (fun s h => if (s.hartOf h).preqPend then s else s.preempt h) s
    else s)

/-- FORCED_STOP: at DEADLINE every hart of the gang that still runs stops at its boundary (R367). -/
def execForcedStop (gg : GangId) (s : State) : Out :=
  .next (if (s.gang gg).sched = .stopping then
      (s.gangHarts gg).foldl (fun s h =>
        if (s.hartOf h).preqPend then (s.reach (s.deadline h)).stopHart h else s) s
    else s)

/-- MACHINE_CHECK: an internal error halts the tile's harts, stops the gang as under KILL and is logged; firmware then kills
the tableau (R346, R365, R384). (DEDUCED: log entry 52.) -/
def execMachineCheck (h : HartId) (s : State) : Out :=
  .next (((s.raiseKill (h.tile.harts ++ s.gangHarts h.tile.gang)).logHart 0x0B true h (s.hartOf h).pc 0 0).askKill h.tile.tab)

/-! ## Swap-out (R373) -/

/-- An access reaches its home: one that its NI holds, or that waits for a map entry, does so only when the entry can be read (R22). -/
def State.reaches (s : State) (p : Part) : Bool :=
  match p.home, p.route with
  | .slice u _, .held => !s.entryBad u
  | .slice u _, .mapRead => !s.entryBad u
  | .slice u _, .stale => !s.entryBad u
  | _, _ => true

/-- A full/empty access outstanding at halt is performed at its home, when nothing of its hart stands before it there, it reaches its home
and the home can, or withdrawn: V and PEND then stay and the hart reissues it (R26, R79, R134, R377). -/
def State.settleFe (perform : Bool) (o : MemOp) (s : State) : State :=
  let gone := s.dropOp o.id
  match o.parts, o.kind with
  | p :: _, .fe _ =>
    if o.over then
      match o.poisoned with
      | some va => (gone.feDone o.hart).modHart o.hart fun h => (h.meetPoison o.dest va).arrived o.dest
      | none => (gone.feDone o.hart).modHart o.hart fun h => (h.deliver o.dest o.val).arrived o.dest
    else if perform && s.ready o p && s.reaches p && s.homeServes o.hart p.home && s.pageOk p.home then
      match s.perform o.kind p o.val o.x o.y (s.hartOf o.hart).more with
      | (s', .done v) => ((s'.dropOp o.id).feDone o.hart).modHart o.hart fun h => (h.deliver o.dest v).arrived o.dest
      | (s', .poison va) => ((s'.dropOp o.id).feDone o.hart).modHart o.hart fun h => (h.meetPoison o.dest va).arrived o.dest
      | (_, .wait) => gone
    else gone
  | _, _ => s

/-- The hart's outstanding full/empty accesses. -/
def State.feOps (s : State) (h : HartId) : List MemOp :=
  s.ops.filter fun o => decide (o.hart = h) && match o.kind with | .fe _ => true | _ => false

/-- Suspends the running matrix commands of a hart: each keeps its progress, and its remaining pages are translated again when it goes
on (R320, R421), but for the completion word of MX.SYNC, which its issue translated (R317); an MX.FREE is finished. -/
def State.suspendMx (h : HartId) (s : State) : State :=
  (s.hartOf h).mxq.foldl (fun s c =>
    if !c.started then s
    else if c.kind = .free then s.mxDone c none
    else s.freeLane c) s |>.modHart h fun x =>
    { x with mxq := x.mxq.map fun c => { c with started := false, pages := if c.lane.isNone then c.pages else [] } }

/-- Saves the slots of a hart and leaves them EVICTED while they are zeroed (R321). -/
def State.saveSlots (h : HartId) (s : State) : State :=
  let ms := (s.hartOf h).slots
  let s := s.modHart h fun x => { x with saved := ms.map fun p => (p.1, s.slotAt p.2), slots := [] }
  ms.foldl (fun s p => s.modSlot p.2 fun a => { a with st := .evicted, acc := [], zeroing := true }) s

/-- A hart has no count in its cluster's lanes: its counters are 0 at placement (R294). -/
def State.leaveLanes (h : HartId) (c : Nat) (s : State) : State :=
  let f := fun (l : Lane) => { l with dc := del h l.dc }
  s.modCluster c fun x => { x with array := f x.array, slot := f x.slot, bload := f x.bload }

/-- The swap engine reads the slice: an uncorrectable word becomes POISON (R60). -/
def State.sweepSlice (t : TileId) (s : State) : State :=
  let k := (Home.slice t 0).key
  (s.latentUE.filter fun u => decide (k ≤ u) && decide (u < k + 2 ^ 22)).foldl (fun s u => s.detect (.slice t (u - k))) s

/-- Contexts whose shadow copies stand in a cluster, and their saved slots (R96). -/
def State.shadowIn (s : State) (c : Nat) : List TileId :=
  (s.tiles.filter fun p => (s.gang p.1.gang).inShadow && clusterOf p.2.entry.ptile == c).map (·.1)

/-- The shadow of every cluster of a gang has room for its contexts: 10 tile slots and 8 accumulator slots (R96). -/
def State.shadowRoom (s : State) (g : GangId) : Bool :=
  (clustersOf (s.rectOf g)).all fun c =>
    let here := (s.gangTiles g).filter fun t => s.clusterAt t == c
    let slots := fun (ts : List TileId) => ts.foldl (fun n t => n + s.brings t) 0
    let mine := here.foldl (fun n t => t.harts.foldl (fun n h => n + (s.hartOf h).slots.length) n) 0
    decide ((s.shadowIn c).length + here.length ≤ 10) && decide (slots (s.shadowIn c) + mine ≤ 8)

/-- Halting a stopped hart and resuming it has the effect of a FENCE.sc.s at its halt (R124): what it does afterwards waits for what it
did before, and its release sends the flushing reads (R106). -/
def State.fenceHalt (h : HartId) (s : State) : State :=
  if (s.hartOf h).stopped then
    let s := s.release h true .s
    s.modHart h fun x => { x with holds := x.holds ++ fenceHolds s.nextId .sc true }
  else s

/-- PRIO of a gang whose context has been saved: it becomes RUNNABLE by a record, which carries its queue's, by its live harts, which
keep theirs, or by a tile fault alone, which takes that of its tableau's most recent launch (R348). -/
def State.prioAfter (s : State) (gg : GangId) : Nat :=
  let record := ((s.gangTiles gg).flatMap fun t => ((s.tile t).inbox ++ (s.tile t).backlog)).find? (·.fe)
  let live := (s.gangHarts gg).any fun h => (s.hartOf h).live
  match live, record, (s.gang gg).fault, s.tab? gg.tab with
  | true, _, _, _ => (s.gang gg).prio
  | false, some m, _, _ => m.prio
  | false, none, some _, some x => x.lastPrio
  | false, none, _, _ => (s.gang gg).prio

/-- A tableau is alive: a killed one saves and places nothing more (R346, R369). -/
def State.lives (s : State) (t : BitVec 16) : Bool := (s.tab? t).any (·.alive)

/-- SWAP_OUT: with every hart halted, freeze, drain, copy, save the engines and commit to shadow (R373). Accesses, messages and
copy commands in flight go with the context (R372); full/empty accesses are performed or withdrawn (R79); the gang becomes RUNNABLE
when it has work (R347). (DEDUCED: log entry 38.) -/
def execSwapOut (gg : GangId) (perform : Bool) (s : State) : Out :=
  .next (
    let x := s.gang gg
    let hs := s.gangHarts gg
    let ts := s.gangTiles gg
    if !s.lives gg.tab || !(x.sched == .stopping || x.sched == .saving) || !(hs.all fun h => (s.hartOf h).run == .halted) || !s.shadowRoom gg then s
    else
      let s := hs.foldl (fun s h => s.fenceHalt h) (if x.st = .settlingOut then s else s.freeze gg)
      let s := hs.foldl (fun s h => (s.feOps h).foldl (fun s o => s.settleFe perform o) s) s
      let s := hs.foldl (fun s h => ((s.suspendMx h).saveSlots h).leaveLanes h (s.clusterAt h.tile)) s
      let s := ts.foldl (fun s t => s.sweepSlice t) s
      let s := { s with invs := s.invs.filter fun (m : InvMsg) => !hs.contains m.src, ostler := { s.ostler with due := true } }
      let s := (s.invs.filter fun (m : InvMsg) => ts.contains m.tile).foldl (fun s m => s.takeInv m) s
      let work := s.hasWork gg
      let prio := s.prioAfter gg
      let s := s.modGang gg fun y =>
        { y with sched := if work then .runnable else .idle, prio := prio, readyAt := s.now, inShadow := true, expired := false }
      s.tidyKeys)

/-! ## Errors in saved contexts (R383) -/

/-- The record of an uncorrectable error at an offset of a saved context: of the bonded die while it stands in shadow, else of the
loft's chandler (R381, R382). -/
def State.logSwapUE (t : TileId) (off : Nat) (fatal : Bool) (s : State) : State :=
  let shadow := (s.gang t.gang).inShadow
  s.log { kind := 0x07, source := if shadow then 3 else 2, fatal := fatal, count := 1, time := s.now, tab := t.tab, vt := t.vt, hart := 0,
          va := 0, dpa := if shadow then (s.mapEntry t).ptile else s.loftDpa t off, detail := 0 }

/-- Uncorrectable errors met where a saved context is read (R383): a unit of slice data, the words of a unit of tags, or, in an area, the
tableau. -/
def State.swapErrors (t : TileId) (s : State) : State :=
  let k := (Home.slice t 0).key
  let u0 := tagUnitKey t 0
  let data := s.latentUE.filter fun u => decide (k ≤ u) && decide (u < k + 2 ^ 22)
  let tags := s.latentUE.filter fun u => decide (u0 ≤ u) && decide (u < u0 + 2 ^ 11)
  let area := s.latentUE.contains (areaKey t)
  let kept := s.latentUE.filter fun u => !data.contains u && !tags.contains u && u != areaKey t
  let s := { s with latentUE := kept }
  let s := (data.map fun u => (u - k) / 64).eraseDups.foldl (fun s l =>
    (s.poisonWords ((List.range 8).map fun i => Home.slice t (64 * l + 8 * i))).logSwapUE t (64 * l) false) s
  let s := tags.foldl (fun s u =>
    (s.poisonWords ((List.range 256).map fun i => Home.slice t (2048 * (u - u0) + 8 * i))).logSwapUE t (0x400000 + 64 * (u - u0)) false) s
  if area then (s.logSwapUE t 0x420000 true).askKill t.tab else s

/-- LOFT_WRITEBACK: the context is read from shadow and has reached the loft; the entries become ABSENT (R375, R383). -/
def execLoftWriteback (gg : GangId) (s : State) : Out :=
  .next (if (s.gang gg).inShadow && (s.gang gg).st == .settlingOut then
      let s := (s.gangTiles gg).foldl (fun s t =>
        (s.swapErrors t).setEntry t fun e => ({ e with st := .absent, dirIn := false } : MapEntry).bump) s
      { s.modGang gg (fun x => { x with st := .absent, inShadow := false }) with ostler := { s.ostler with due := true } }
    else s)

/-- A granule of a tile's name that is to move, by a test (R375, R376): that of its B map, or one that a queued command names (R320;
DEDUCED, log entry 74). -/
def State.granuleTo (s : State) (t : TileId) (name : BitVec 6) (p : Granule → Bool) : Option (Nat × Granule) :=
  (s.granulesOf t).findSome? fun b => if b.1 = name then ((find b.2 s.granules).filter p).map fun g => (b.2, g) else none

/-- GRANULE_WRITEBACK: after its tile's slot has reached the loft, a granule left behind is written to a loft frame and becomes FREE
in its cluster (R375). -/
def execGranuleWriteback (t : TileId) (name : BitVec 6) (s : State) : Out :=
  .next (match s.granuleTo t name fun g => g.cluster.isSome && !(s.gang t.gang).inShadow && g.cluster != s.standsOn t with
    | some (gid, g) =>
      ({ s with granules := put gid { g with cluster := none } s.granules, loftFrames := s.loftFrames ++ [(t, gid)] }).tidyKeys
    | none => s)

/-! ## Swap-in (R376) -/

/-- SY.PTILE (R18). -/
def ptileWord (p : Nat) : Word := atBits 20 12 (clusterOf p) ||| atBits 14 6 (fieldOf p) ||| atBits 0 14 p

/-- SY.PDEAD as the ostler loads it (R366). -/
def clampDead (n : Nat) : Nat := Nat.min 16000000 (Nat.max 1024 n)

/-- A hart's barrier registers at a tile's first placement: for each group PASSED = 1 and the number of the group's last passed phase, 0
for a group that has never passed; its membership is that of the group's declaration (R276). -/
def Hart.firstBars (x : Tableau) (h : Hart) : Hart :=
  x.state.foldr (fun g h =>
    let last := g.2.phase - 1
    { h with bars := put g.1 { findD g.1 h.bars HartBar.reset with phase := last, passed := true, sent := true, seen := last, faulted := [] } h.bars }) h

/-- What a placement loads into a hart: SY.PTILE and SY.PDEAD, SY.PREQ zero, and at the first one SY.PTBASE, the tableau's SY.PARKBASE
and the barrier registers, which a later one restores as they were saved (R18, R29, R69, R163, R276, R366, R369). -/
def Hart.load (x : Tableau) (first : Bool) (p : Nat) (h : Hart) : Hart :=
  let dead : Word := BitVec.ofNat 64 (clampDead x.args.pdead)
  let h := h.modSy fun y => { y with ptile := ptileWord p, preq := 0, pdead := dead }
  if first then (h.firstBars x).modSy fun y => { y with ptbase := atBits 12 30 (x.args.root / 4096), parkbase := x.parkbase } else h

/-- A live hart resumes as TRET does, from STOPPC and STOPRPT: a record with PEND = 1 is reissued and the repeat goes on (R368). -/
def Hart.resumeStop (h : Hart) : Hart :=
  if h.stopped then
    { h with pc := h.stoppc, run := .running, misses := [], stopped := false, parkDue := none,
             resume := if h.stoprpt.getLsbD 63 then some h.stoprpt else none }
  else h

/-- Restores the saved slots of a hart (R321). -/
def State.restoreSlots (h : HartId) (s : State) : State :=
  let s := (s.hartOf h).saved.foldl (fun s p => match find p.1 (s.hartOf h).slots with
    | some r => s.modSlot r fun a => { a with st := p.2.st, acc := p.2.acc }
    | none => s) s
  s.modHart h fun x => { x with saved := [] }

/-- Wakes held for a hart set WOKEN, and its latch (R76, R329). -/
def State.deliverWakes (h : HartId) (s : State) : State :=
  match s.tab? h.tile.tab with
  | some x =>
    let mine := x.wakes.filter fun w => w.hart = h
    let s := s.modTab h.tile.tab fun x => { x with wakes := x.wakes.filter fun w => w.hart ≠ h }
    mine.foldl (fun s w => s.modHart h fun y => if y.feV && y.feLinked then ({ y.setFe 47 1 1 with more := w.more } : Hart).latchEvent else y) s
  | none => s

/-- A hart that comes back is told of the phases that have passed in its absence, by the record of each group, and continues at once (R181,
R415). -/
def State.tellAll (h : HartId) (s : State) : State :=
  (s.hartOf h).bars.foldl (fun s b =>
    let p := (s.group h.tile.tab b.1).phase - 1
    if b.2.seen != p then s.tellPhase h b.1 p else s) s

/-- A tile's context is committed on its physical tile: RESIDENT, with empty caches; the oldest backlog messages fill its entries
(R163, R168, R376). -/
def State.landTile (t : TileId) (p : Nat) (s : State) : State :=
  (s.modTile t fun x =>
    { x with mapCache := [], dpit := [], tlb2 := [], walkCache := [], walks := [], l1 := [], streams := [],
             inbox := x.inbox ++ x.backlog.take (64 - x.inbox.length), backlog := x.backlog.drop (64 - x.inbox.length) }).setEntry t
    fun e => ({ e with st := .resident, dirIn := false, ptile := p } : MapEntry).bump

/-- A placed gang whose context is on its way in, or has just become ABSENT, and whose saved slots all find slots of their new engines: its
swap-in goes on (R376). -/
def State.comesIn (s : State) (g : GangId) : Bool :=
  (s.gang g).sched == .placing && ((s.gang g).st == .absent || ((s.gang g).st == .settlingIn && (s.keepSlots g).slotsKept g))

/-- SWAP_IN: the entries of a context that had to become ABSENT first turn SETTLING inward; else the context reaches its rectangle and the
gang becomes RESIDENT, its harts without a TLB entry of another place; their decoded-op entries stay (R376, R394). Its slice counts from this
moment, in which its harts may run, and not from the pass that placed it (R353; DEDUCED, log entry 99). (DEDUCED: log entries 38, 89.) -/
def execSwapIn (gg : GangId) (s : State) : Out :=
  .next (match (s.tab? gg.tab).filter (·.alive) with
    | some x =>
      if !s.comesIn gg then s
      else if (s.gang gg).st = .absent then s.inward gg
      else
        let s := s.keepSlots gg
        let first := !(s.gang gg).placed
        let hs := s.gangHarts gg
        let s := ((s.gangTiles gg).zip (s.rectOf gg)).foldl (fun s q =>
          let s := (s.swapErrors q.1).landTile q.1 q.2
          q.1.harts.foldl (fun s h =>
            (((s.modHart h fun y => { y.load x first q.2 with tlb := [] }).restoreSlots h).leaveLanes h (clusterOf q.2)).deliverWakes h) s) s
        let s := s.modGang gg fun y =>
          { y with st := .resident, sched := .running, placed := true, placedAt := s.now, fault := none, inShadow := false, expired := false }
        let s := hs.foldl (fun s h => ((s.modHart h Hart.resumeStop).tellAll h).restartFor h) s
        let new := hs.filter fun h => !s.turns.contains h && decide (s.focus ≠ h) && (s.hartOf h).run != .halted
        { s with turns := s.turns ++ new, ostler := { s.ostler with due := true } }
    | none => s)

/-- GRANULE_RESTORE: a granule returns from the loft to the cluster of its tile, as the ciphertext of its tableau's key there (R97, R376). -/
def execGranuleRestore (t : TileId) (name : BitVec 6) (s : State) : Out :=
  .next (match s.granuleTo t name fun g => g.cluster.isNone && s.resident t with
    | some (gid, g) =>
      let c := s.clusterAt t
      { s with granules := put gid { g with cluster := some c, key := ((s.cluster c).keyOf g.tab).getD g.key } s.granules,
               loftFrames := s.loftFrames.filter fun f => f != (t, gid) }
    | none => s)

end Sys2Proof.Machine
end

