-- ==== Sys2Proof/Machine/Devices.lean ====
section
/-!
DEFINITION. The device-register window (R40, R47, R48, R333, R334, R346, R353, R395, R398, R408): what a read of a register
returns and what a write does, for harts and for the functions of the host ports.
-/

namespace Sys2Proof.Machine

/-! ## Firmware-call registers (R398) -/

def State.call (s : State) (c : Caller) : FwCall := findD c s.calls FwCall.reset
def State.modCall (c : Caller) (f : FwCall → FwCall) (s : State) : State := { s with calls := put c (f (s.call c)) s.calls }

def FwCall.code (f : FwCall) : Nat := bits f.reg 48 8
def FwCall.read (f : FwCall) : Word := atBits 63 1 (b2n f.busy) ||| f.reg

/-- A status word: status, detail, bit 62. -/
def statusWord (status detail : Nat) : Word := atBits 62 1 1 ||| atBits 8 24 detail ||| atBits 0 8 status

def stOK : Nat := 0
def stBADCALL : Nat := 1
def stDENIED : Nat := 2
def stNOSPACE : Nat := 3
def stBADARG : Nat := 4
def stREJECTED : Nat := 5
def stLOCKED : Nat := 6
def stMEDIA : Nat := 7

/-- The argument block of a call: a VA of the hart's tableau with R and W, a DPA, or a host address behind the port. A hart has no
calling port, and a virtual function makes no call (R395, R398). -/
def State.callBlock (c : Caller) (reg : Word) (s : State) : State × Option Home :=
  let addr := atBits 6 42 (bits reg 6 42)
  match c, reg.getLsbD 56 with
  | .hart h, false =>
    match s.feHome h.tile.tab needRW addr with
    | (s, some b) => if s.pageOk b then (s, some b) else (s.logDpa b, none)
    | r => r
  | .hart _, true => (s, none)
  | .port _, false =>
    let b : Home := .hbm (addr.toNat % 2 ^ 42)
    if 2 ^ 42 ≤ addr.toNat then (s, none) else if s.pageOk b then (s, some b) else (s.logDpa b, none)
  | .port p, true => (s, some (.host p.toNat addr.toNat))
  | .vf _ _, _ => (s, none)

/-- The record of a call that is not started (R382). -/
def State.logBlock (c : Caller) (s : State) : State :=
  let r : ErrRec := { kind := 0x0E, source := 5, fatal := false, count := 1, time := s.now, tab := 0, vt := 0, hart := 0, va := 0, dpa := 0, detail := 0 }
  match c with
  | .hart h => s.log { r with tab := h.tile.tab, vt := h.tile.vt, hart := h.num, va := atBits 6 42 (bits (s.call c).reg 6 42) }
  | .port p => s.log { r with detail := BitVec.ofNat 64 p.toNat }
  | .vf _ _ => s

/-- A write of FW.CALL: ignored while BUSY, and until the start has ended (R398, R404). A write of the upper half starts the call;
a code that no call has returns BADCALL (R399). -/
def State.fwCallWrite (c : Caller) (half : Half) (x : Word) (s : State) : State :=
  let f := s.call c
  if f.busy || !s.factors.started then s
  else
    let v := halfMerge half f.reg x
    let reg := atBits 48 9 (bits v 48 9) ||| atBits 6 42 (bits v 6 42)
    let s := s.modCall c fun f => { f with reg := reg }
    if half.hasHigh then
      match s.callBlock c reg with
      | (s, some b) =>
        let code := bits reg 48 8
        let bad := if 1 ≤ code ∧ code ≤ 0x0F then none else some (statusWord stBADCALL 0)
        s.modCall c fun _ => { busy := true, reg := reg, block := some b, status := bad, outs := [], started := bad.isSome }
      | (s, none) => s.logBlock c
    else s

/-! ## The registers -/

/-- DRV.CTL as written (R40). -/
def drvCtl (v : Word) : Word :=
  atBits 12 13 (Nat.min 4096 (bits v 12 13)) ||| atBits 2 10 (Nat.min 1000 (Nat.max 10 (bits v 2 10))) ||| atBits 0 1 (bits v 0 1)

/-- The queue and the offset of an address in the doorbell pages (R334) or the configuration blocks (R333). -/
def doorbellOf (off : Nat) : Option (BitVec 12 × Nat) :=
  if 0x10000000 ≤ off ∧ off < 0x11000000 then some (BitVec.ofNat 12 ((off - 0x10000000) / 4096), off % 4096) else none

def qcfgOf (off : Nat) : Option (BitVec 12 × Nat) :=
  if 0x20000000 ≤ off ∧ off < 0x20040000 then some (BitVec.ofNat 12 ((off - 0x20000000) / 64), off % 64) else none

/-- The blocks that BAR0 of physical function 0 reaches (R395). -/
def inBar0 (off : Nat) : Bool :=
  off == 0x420000 || off == 0x430000 || off == 0x440000 || (doorbellOf off).isSome || (qcfgOf off).isSome

/-- The queues that QUEUE_ASSIGN has given to a virtual function, in ascending order (R395). -/
def State.queuesOf (s : State) (port : BitVec 2) (fn : BitVec 8) : List (BitVec 12) :=
  if fn = 0 then []
  else sortBy (fun a b => decide (a.toNat < b.toNat)) ((s.queues.filter fun p => decide (p.2.port = port) && decide (p.2.vf = fn)).map (·.1))

/-- The device-register offset that an offset of a caller's window or BAR0 reaches: a hart's window reaches all of them, and page i of a
virtual function's BAR0 is the doorbell page of its i-th queue (R395). -/
def State.devOffset (s : State) (c : Caller) (off : Nat) : Option Nat :=
  match c with
  | .hart _ => some off
  | .port _ => if inBar0 off then some off else none
  | .vf p fn => (s.queuesOf p fn)[off / 4096]?.map fun q => 0x10000000 + 4096 * q.toNat + off % 4096

/-- A register of 8 bytes at an aligned offset; one that names no register reads zero (R48). -/
def State.regRead (c : Caller) (off : Nat) (s : State) : Word :=
  match doorbellOf off, qcfgOf off with
  | some (q, o), _ =>
    let x := s.queue q
    if o = 0 then atBits 0 32 x.tail.toNat else if o = 8 then x.qstat else if o = 16 then x.qcancel else 0
  | none, some (q, o) =>
    let x := s.queue q
    if o = 0 then x.cfg0 else if o = 8 then x.cfg1 else if o = 16 then x.cfg2 else 0
  | none, none =>
    if off = 0x400000 then s.drover.ctl
    else if off = 0x410000 then s.ostler.cfg
    else if off = 0x410008 then s.ostler.slice0
    else if off = 0x410010 then s.ostler.slice1
    else if off = 0x430000 then (s.call c).read
    else if off = 0x440000 then atBits 0 2 s.power.mode.toNat
    else 0

/-- The word of a function's MSI-X table that an offset of its host window names: 2,048 entries of two words, above every offset of BAR0
(PRESUMED, log entry 80). -/
def msixOf (c : Caller) (off : Nat) : Option ((BitVec 2 × BitVec 8) × Nat) :=
  if 2 ^ 40 ≤ off ∧ off < 2 ^ 40 + 2 ^ 15 then
    match c with
    | .port p => some ((p, 0), (off - 2 ^ 40) / 8)
    | .vf p fn => some ((p, fn), (off - 2 ^ 40) / 8)
    | .hart _ => none
  else none

/-- A word of an MSI-X table: an entry that nothing has written is masked (PRESUMED, log entry 80). -/
def State.msixWord (s : State) (k : (BitVec 2 × BitVec 8) × Nat) : Word := findD k s.msixTable (if k.2 % 2 = 1 then 0x100000000 else 0)

/-- A write of an MSI-X table, refused while the function's interface is locked (R397). -/
def State.msixWrite (k : (BitVec 2 × BitVec 8) × Nat) (half : Half) (x : Word) (s : State) : State :=
  if s.tdis.contains k.1 then s else { s with msixTable := put k (halfMerge half (s.msixWord k) x) s.msixTable }

/-- What a caller reads at an aligned offset of its window or BAR0: zero where it reaches nothing (R48, R395). -/
def State.devRead (c : Caller) (off : Nat) (s : State) : Word :=
  match msixOf c off, s.devOffset c off with
  | some k, _ => s.msixWord k
  | none, some o => s.regRead c o
  | none, none => 0

/-- A write of PWR.MODE: the new mode is still to take effect; mode 11 is ignored (R408). -/
def State.pwrWrite (half : Half) (x : Word) (s : State) : State :=
  if half.hasLow && bits x 0 2 != 3 then { s with power := { s.power with next := some (BitVec.ofNat 2 (bits x 0 2)) } } else s

/-- A write to a register of 8 bytes, or to a half of it (R48). -/
def State.regWrite (c : Caller) (off : Nat) (half : Half) (x : Word) (s : State) : State :=
  match doorbellOf off, qcfgOf off with
  | some (q, o), _ =>
    if o = 0 then s.qtailWrite q half x
    else if o = 8 then s.qstatWrite q half x
    else if o = 16 then s.qcancelWrite q half x
    else s
  | none, some (q, o) => if o % 8 = 0 ∧ o < 24 then s.qcfgWrite q (BitVec.ofNat 2 (o / 8)) half x else s
  | none, none =>
    if off = 0x400000 then { s with drover := { s.drover with ctl := drvCtl (halfMerge half s.drover.ctl x) } }
    else if off = 0x410000 then { s with ostler := { s.ostler with cfg := ostCfg (halfMerge half s.ostler.cfg x) } }
    else if off = 0x410008 then { s with ostler := { s.ostler with slice0 := ostSlices s.power.minSlice (halfMerge half s.ostler.slice0 x) } }
    else if off = 0x410010 then { s with ostler := { s.ostler with slice1 := ostSlices s.power.minSlice (halfMerge half s.ostler.slice1 x) } }
    else if off = 0x420000 then (if half.hasLow then s.askKill (BitVec.ofNat 16 (bits x 0 16)) else s)
    else if off = 0x430000 then s.fwCallWrite c half x
    else if off = 0x440000 then s.pwrWrite half x
    else s

/-- What a caller's write does; one that reaches nothing is ignored (R48, R395, R397). -/
def State.devWrite (c : Caller) (off : Nat) (half : Half) (x : Word) (s : State) : State :=
  match msixOf c off, s.devOffset c off with
  | some k, _ => s.msixWrite k half x
  | none, some o => s.regWrite c o half x
  | none, none => s

/-- DEVICE_REGISTER_WRITE: an aligned register or a half of it, by a hart or through a function's BAR0 (R48, R395). -/
def execDeviceRegisterWrite (c : Caller) (off : Word) (half : Half) (x : Word) (s : State) : Out :=
  .next (s.devWrite c (off.toNat / 8 * 8) half x)

/-- PWR_MODE_WRITE (R408). -/
def execPwrModeWrite (half : Half) (x : Word) (s : State) : Out := .next (s.pwrWrite half x)

end Sys2Proof.Machine
end

