-- ==== Sys2Proof/Machine/Memory.lean ====
section
/-!
DEFINITION. LD, LDS, ST and PREF (R47, R51, R228, R239-R241, R248).
-/

namespace Sys2Proof.Machine

/-- What an access must be aligned to: nothing, but its own size in the device-register window (R109). -/
def plainAlign (ea : Word) (n : Nat) : Nat :=
  match range ea with
  | .dev _ => n
  | _ => 1

def loadAcc (sgn : Bool) (d : Reg) (sz : Size) (ea : Word) (sc : Scope) (o : Ord) : Acc :=
  { kind := .load sz.bytes sgn, exts := [{ va := ea, len := sz.bytes, pos := 0 }], need := needR, align := plainAlign ea sz.bytes,
    span := false, dev := !sgn && (sz == .w || sz == .d), wr := false, past := false, scope := sc, acq := o.isAcq, rel := o.isRel,
    dest := some (gRef d), data := 0, whole := false, x := 0, y := 0 }

/-- ST: an aligned 8-byte store is a whole-word write (R56, R241). (DEDUCED: log entry 24.) -/
def storeAcc (data : Word) (sz : Size) (ea : Word) (sc : Scope) (o : Ord) : Acc :=
  { kind := .store, exts := [{ va := ea, len := sz.bytes, pos := 0 }], need := needW, align := plainAlign ea sz.bytes, span := false,
    dev := sz == .w || sz == .d, wr := true, past := false, scope := sc, acq := false, rel := o.isRel, dest := none,
    data := data.setWidth 512, whole := true, x := 0, y := 0 }

/-- The register and the half that a device access of n bytes names. -/
def devHalf (off n : Nat) : Half := if n = 8 then .both else if off % 8 = 4 then .high else .low

/-- A device-register access of the hart is still outstanding (R48). -/
def State.devBusy (s : State) : Bool := s.ops.any fun o => decide (o.hart = s.focus) && o.kind == .device

/-- The value of a device-register load: the half it names (R48). -/
def State.devValue (off n : Nat) (s : State) : Word :=
  let v := s.devRead (.hart s.focus) (off / 8 * 8)
  match devHalf off n with
  | .both => v
  | .low => v &&& 0xFFFFFFFF
  | .high => v >>> 32

/-- A device-register load: its value is taken at the register and its result is asynchronous (R228). (DEDUCED: log entry 39.) -/
def devLoad (a : Acc) (off n : Nat) (s : State) : Out :=
  if s.devBusy then waitAt s
  else
    let op : MemOp :=
      { id := s.nextId, hart := s.focus, kind := .device, rel := false, dest := a.dest, val := (s.devValue off n).setWidth 512,
        x := 0, y := 0, parts := [], sched := (0, 0, 0), who := [] }
    let hold := acqHold s.nextId a.scope
    let s1 := { s.fresh with ops := s.ops ++ [op] }
    .next (retire (s1.mod fun h => (if a.acq then { h with holds := h.holds ++ [hold] } else h).markEmpty a.dest))

/-- A store to QTAIL rings a doorbell: a launch is issued (R364). -/
def isLaunch (off n : Nat) : Bool :=
  match doorbellOf (off / 8 * 8) with
  | some (_, o) => o == 0 && (devHalf off n).hasLow
  | none => false

/-- A device-register store takes effect at once, after every earlier device access of the hart (R48); a release waits. (DEDUCED: log entry 39.) -/
def devStore (a : Acc) (off n : Nat) (s : State) : Out :=
  if s.devBusy then waitAt s
  else
    releaseHere a s fun s =>
      let x := BitVec.ofNat 64 (a.data.toNat % 2 ^ (8 * n))
      let s := s.devWrite (.hart s.focus) (off / 8 * 8) (devHalf off n) x
      .next (if isLaunch off n then retireCmd s else retire s)

/-- Issues a plain access, or performs one of a device register. -/
def plain (a : Acc) (dev : Nat → State → Out) (s : State) : Out :=
  access a s fun s ps =>
    match ps with
    | p :: _ =>
      match p.home with
      | .dev off => dev off s
      | _ => issueOn a s ps
    | [] => issueOn a s ps

def execLd (d a : Reg) (w : Bool) (sz : Size) (sc : Scope) (o : Ord) (imm : BitVec 8) (s : State) : Out :=
  withRegs [gRef a] [gRef d] w s
    (let acc := loadAcc false d sz (eaScalar (s.hart.gr a) imm sz.bytes) sc o
     plain acc (fun off s => devLoad acc off sz.bytes s) s)

def execLds (d a : Reg) (w : Bool) (sz : Size) (sc : Scope) (o : Ord) (imm : BitVec 8) (s : State) : Out :=
  withRegs [gRef a] [gRef d] w s (issue (loadAcc true d sz (eaScalar (s.hart.gr a) imm sz.bytes) sc o) s)

def execSt (d a : Reg) (w : Bool) (sz : Size) (sc : Scope) (o : Ord) (imm : BitVec 8) (s : State) : Out :=
  withRegs [gRef a, gRef d] [] w s
    (let acc := storeAcc (s.hart.gr d) sz (eaScalar (s.hart.gr a) imm sz.bytes) sc o
     plain acc (fun off s => devStore acc off sz.bytes s) s)

/-- The prefetch of a line, at once where the translation is held, else after its walk (R248). -/
def State.prefetch (va : Word) (s : State) : State :=
  match s.tlbFind s.focus va.toNat with
  | some e => s.prefetchLine s.focus va e
  | none => s.walk s.focus (some va) va.toNat

/-- PREF: it never traps, waits or changes a tag; with g[a] empty or an address that is not paged it does nothing (R51, R248; DEDUCED, log
entry 51). With a queued vector result still to come to g[a], whose readers R257 makes wait, it does nothing either: the spec does not say
what it then does (DESIGN CHOICE, log entry 51). -/
def execPref (a : Reg) (_w : Bool) (imm : BitVec 8) (s : State) : Out :=
  let va := eaWord s a imm
  .next (retire (if s.hart.full .g a && !s.hart.vqPending .g a && range va == .paged then s.prefetch va else s))

end Sys2Proof.Machine
end

