-- ==== Sys2Proof/Machine/Firmware.lean ====
section
/-!
DEFINITION. Firmware calls (R105, R118, R362, R392, R396-R402, R409) and their status words, live migration, and system
software's other requests to firmware (R22, R392, R397, R405, R426). The event that names a call carries its arguments; it acts on a
call of that code that is running and has no status yet, and whose block holds those arguments.
-/

namespace Sys2Proof.Machine

/-! ## The life of a call (R398) -/

/-- Gives a running call its status, its detail, and the words it returns. -/
def State.answer (c : Caller) (status detail : Nat) (outs : List (Nat × Word)) (s : State) : State :=
  s.modCall c fun f => { f with started := true, status := some (statusWord status detail), outs := outs }

/-- n words from a home on; none when its page is not VALID or one of them is POISON, which firmware meets as any other reader does
(R37, R60). -/
def State.blockWords : Nat → Home → State → State × Option (List Word)
  | 0, _, s => (s, some [])
  | n + 1, h, s =>
    if !s.pageOk h then (s.logDpa h, none)
    else
      let s := s.detect h
      if s.tagOf h = .poison then (s, none)
      else
        match State.blockWords n (h.plus 8) s with
        | (s, some ws) => (s, some (s.loadWord h :: ws))
        | r => r

/-- Firmware reads words 1 to 7 of a call's block, once it reaches it (R398). -/
def State.blockRead (s : State) (c : Caller) : State × Option (List Word) :=
  match (s.call c).block with
  | some b => if s.feOpen b then s.blockWords 7 (b.plus 8) else (s, none)
  | none => (s, none)

/-- Words 1 to 7 of a call's block, as firmware reads them (R398); none of a block that cannot be read. -/
def State.callArgs (s : State) (c : Caller) : List Word := (s.blockRead c).2.getD []

/-- The block holds these arguments, from word 1 on. -/
def State.holdsArgs (s : State) (c : Caller) (args : List Nat) : Bool := ((s.callArgs c).take args.length).map (·.toNat) == args

/-- Word i of the block. -/
def State.argAt (s : State) (c : Caller) (i : Nat) : Word := (s.callArgs c).getD (i - 1) 0

/-- Runs a call of a code whose arguments are held. A hart is DENIED one that names another tableau, or that only PF0 makes (R398). -/
def onCallIf (c : Caller) (code : Nat) (tab : Option (BitVec 16)) (pf0 : Bool) (held : Bool) (s : State) (k : State → State) : Out :=
  let f := s.call c
  .next (if f.busy && !f.started && f.code == code && held then
      let denied := match c with
        | .hart h => pf0 || (match tab with | some t => t != h.tile.tab | none => false)
        | _ => false
      if denied then s.answer c stDENIED 0 [] else k s
    else s)

/-- Runs a call of a code whose block holds the arguments, one in each word in R399's order (PRESUMED, log entry 40). -/
def onCall (c : Caller) (code : Nat) (tab : Option (BitVec 16)) (pf0 : Bool) (args : List Nat) (s : State) (k : State → State) : Out :=
  onCallIf c code tab pf0 (s.holdsArgs c args) s k

/-- The call ends with a status, no detail and nothing returned. -/
def ends (c : Caller) (status : Nat) (s : State) : State := s.answer c status 0 []

/-- The home of a byte that a call names beside its block: by the same rules as the block (R398). -/
def State.callHome (c : Caller) (n : Need) (host : Bool) (va : Word) (s : State) : State × Option Home :=
  match c, host with
  | .hart h, false => s.feHome h.tile.tab n va
  | .hart _, true => (s, none)
  | .port _, false => (s, if va.toNat < 2 ^ 42 then some (.hbm va.toNat) else none)
  | .port p, true => (s, some (.host p.toNat va.toNat))
  | .vf _ _, _ => (s, none)

/-- n words that a call names. -/
def State.callRead (c : Caller) (host : Bool) : Nat → Word → State → State × Option (List Word)
  | 0, _, s => (s, some [])
  | n + 1, va, s =>
    match s.callHome c needR host va with
    | (s, some h) =>
      if !s.pageOk h then (s.logDpa h, none)
      else
        let s := s.detect h
        if s.tagOf h = .poison then (s, none)
        else
          match State.callRead c host n (va + 8) s with
          | (s, some ws) => (s, some (s.loadWord h :: ws))
          | r => r
    | (s, none) => (s, none)

/-! ## Arguments beyond their places -/

/-- The arguments of KEY_LOAD: the tableau, the entry, the session, and the address and the length of the wrapped key (PRESUMED, log entry 40). -/
def State.wrappedKey (s : State) (c : Caller) : State × Option (List Byte) :=
  let n := (s.argAt c 5).toNat
  if 4096 < n then (s, none)
  else
    match s.callRead c ((s.call c).reg.getLsbD 56) ((n + 7) / 8) (s.argAt c 4) with
    | (s, some ws) => (s, some ((ws.flatMap fun w => leBytes 8 w.toNat).take n))
    | (s, none) => (s, none)

/-- A co-residency set as a word of memory: four bounds of 16 bits (PRESUMED, log entry 40). -/
def boxOf (w : Word) : GangBox := { s0 := bits w 0 16, s1 := bits w 16 16, n0 := bits w 32 16, n1 := bits w 48 16 }

/-- The co-residency sets of TBL_CREATE: their number and their address are words 5 and 6 (PRESUMED, log entry 40). -/
def State.callSets (s : State) (c : Caller) : State × Option (List GangBox) :=
  let n := (s.argAt c 5).toNat
  if 16 < n then (s, none)
  else
    match s.callRead c ((s.call c).reg.getLsbD 56) n (s.argAt c 6) with
    | (s, some ws) => (s, some (ws.map boxOf))
    | (s, none) => (s, none)

/-- The words of a block that a call's arguments cannot hold, by code: the word and its bound. -/
def argBounds : Nat → List (Nat × Nat)
  | 0x03 => [(3, 2), (4, 2)]
  | 0x05 => [(1, 2 ^ 16), (2, 16)]
  | 0x07 => [(1, 2 ^ 16)]
  | 0x08 => [(1, 2 ^ 16), (4, 2 ^ 16)]
  | 0x0A => [(1, 2 ^ 12), (2, 4), (3, 256)]
  | 0x0B => [(1, 2 ^ 12)]
  | 0x0C => [(1, 2 ^ 12), (2, 2 ^ 12)]
  | 0x0D => [(5, 2 ^ 16), (7, 272)]
  | 0x0E => [(5, 2 ^ 16), (7, 272)]
  | 0x0F => [(1, 2 ^ 16), (4, 2 ^ 16)]
  | _ => []

/-- A running call names what none of its arguments can be: a number beyond its field, or memory that cannot be read; or its block cannot
be read. -/
def State.callBad (s : State) (c : Caller) : Bool :=
  let f := s.call c
  f.busy && !f.started && f.status.isNone && (match f.block with | some b => s.feOpen b | none => false) &&
    ((s.callArgs c).isEmpty || ((argBounds f.code).any fun b => decide (b.2 ≤ (s.argAt c b.1).toNat)) ||
      (f.code == 0x05 && (s.wrappedKey c).2.isNone) || (f.code == 0x09 && (s.callSets c).2.isNone) ||
      ((f.code == 0x0D || f.code == 0x0E) && decide (0 < (s.argAt c 7).toNat) && decide ((s.argAt c 7).toNat < 256)))

/-- Firmware has read the block, and the memory beside it that a call names (R37, R60). -/
def State.callLook (c : Caller) (s : State) : State :=
  match s.blockRead c with
  | (s, none) => s
  | (_, some _) =>
    match (s.call c).code with
    | 0x05 => (s.wrappedKey c).1
    | 0x09 => (s.callSets c).1
    | _ => s

/-- The word of a block that names a tableau, by code (R399). -/
def tabWord : Nat → Option Nat
  | 0x05 | 0x07 | 0x08 | 0x0F => some 1
  | 0x0D | 0x0E => some 5
  | _ => none

/-- A call that a hart may not make: one that only PF0 makes, or whose arguments, where they can be read, name another tableau (R398). -/
def State.callDenied (s : State) (c : Caller) : Bool :=
  let code := (s.call c).code
  match c with
  | .hart h => code == 0x09 || code == 0x0A || code == 0x0C ||
      (!(s.callArgs c).isEmpty && match tabWord code with | some i => (s.argAt c i).toNat != h.tile.tab.toNat | none => false)
  | _ => false

/-- FW_CALL_STATUS: the words a call returns, then its status word: a completion fill in device memory, a posted write in host memory
(R85, R398). A call whose arguments cannot be ends here with BADARG, or DENIED where a hart may not make it. (PRESUMED: log entry 40.) -/
def execFwCallStatus (c : Caller) (s : State) : Out :=
  .next (
    let f := s.call c
    match f.busy, f.status, f.block with
    | true, some st, some b =>
      if !s.feOpen b then s.holdAt b
      else
        let s := f.outs.foldl (fun (s : State) o =>
          let h := b.plus (8 * o.1)
          if b.isHost then s.writeWord h o.2 else s.putWord h o.2.toNat) s
        let s := if b.isHost then s.writeWord b st else s.completionFill b st
        s.modCall c fun f => { f with busy := false, block := none, status := none, outs := [], started := false }
    | true, none, some _ =>
      if s.callBad c then (if s.callDenied c then ends c stDENIED s else ends c stBADARG (s.callLook c)) else s
    | _, _, _ => s)

/-! ## DPA pages (R35, R54, R396) -/

/-- Pages that system software may allocate: those that the loft does not reserve (R105). -/
def State.pages (s : State) : Nat := 2 ^ 26 - 128 * s.loftSize

def State.pageValid (s : State) (p : Nat) : Bool := (findD p s.dpit DpitEntry.reset).valid

/-- No page of [p, p + n) is allocated. -/
def State.runFree (s : State) (p n : Nat) : Bool :=
  decide (p + n ≤ s.pages) && !s.dpit.any fun e => e.2.valid && decide (p ≤ e.1) && decide (e.1 < p + n)

/-- The lowest run of n pages that are not allocated. (DESIGN CHOICE: log entry 41.) -/
def State.findRun (s : State) (n : Nat) : Option Nat :=
  let starts := 0 :: (s.dpit.filter fun e => e.2.valid).map fun e => e.1 + 1
  (starts.filter fun p => s.runFree p n).foldl (fun (b : Option Nat) p => match b with
    | some q => some (Nat.min p q)
    | none => some p) none

/-- The lowest free frame of a stack, outside the loft (R105). The frames of a stack below it are in use or are at most 511 of the loft's,
which lie between free ones where the loft ends in the middle of a group of 256 slots. -/
def State.freeFrame (s : State) (stk : Nat) : Option Nat :=
  let used := (s.dpit.filter fun e => e.2.valid && e.2.stk == stk).map fun e => e.2.frame
  let free := fun (n : Nat) => decide (n < 2 ^ 20) && !used.contains n && !s.loftHolds stk n
  match (List.range (used.length + 1)).find? free with
  | some n => some n
  | none => ((List.range 511).map (used.length + 1 + ·)).find? free

/-- Pages are zeroed, with every word FULL (R54): whole granules are written, so no error that stood there is left (R61). -/
def State.zeroPages (p n : Nat) (s : State) : State :=
  { s with mem := s.mem.clear (65536 * p) (65536 * n),
           latentUE := errorsOutside (65536 * p) (65536 * n) s.latentUE }

/-- Allocates a page on its anchor stack, or on the next stack that has a free frame. -/
def State.allocPage (p : Nat) (s : State) : State :=
  match (List.range 64).findSome? fun i => (s.freeFrame ((p + i) % 64)).map fun n => ((p + i) % 64, n) with
  | some f => { s with dpit := put p { pin := false, valid := true, frame := f.2, stk := f.1, exported := false } s.dpit }
  | none => s

/-- MEM_ALLOC: the lowest run of free pages, zeroed and FULL; word 1 returns its first page (R54, R399). (DESIGN CHOICE: log entry 41.) -/
def execMemAlloc (c : Caller) (count : Nat) (s : State) : Out :=
  onCall c 0x01 none false [count] s fun s =>
    if count = 0 then ends c stBADARG s
    else
      match s.findRun count with
      | some p =>
        let s := (List.range count).foldl (fun s i => s.allocPage (p + i)) (s.zeroPages p count)
        s.answer c stOK 0 [(1, BitVec.ofNat 64 p)]
      | none => ends c stNOSPACE s

/-- A page that firmware or the machine itself keeps: of a tile map, a carrier area or a park table (R35, R171). -/
def State.keptPage (s : State) (p : Nat) : Bool := s.tabs.any fun x => x.2.holdsPage p

/-- Pages that a call names are allocated, one at least. -/
def State.namesPages (s : State) (page count : Nat) : Bool := decide (0 < count) && decide (page + count ≤ s.pages) &&
  decide ((s.dpit.filter fun e => e.2.valid && decide (page ≤ e.1) && decide (e.1 < page + count)).length = count)

/-- None of the pages that a call names is kept. -/
def State.looseFrom (s : State) (page count : Nat) : Bool :=
  !s.dpit.any fun e => decide (page ≤ e.1) && decide (e.1 < page + count) && s.keptPage e.1

/-- Changes the entries of some pages. -/
def State.modPages (page count : Nat) (f : DpitEntry → DpitEntry) (s : State) : State :=
  { s with dpit := s.dpit.map fun e => if page ≤ e.1 ∧ e.1 < page + count then (e.1, f e.2) else e }

/-- MEM_FREE (R399); not of a page that a tableau's tile map, carrier area or park table stands on (R35). -/
def execMemFree (c : Caller) (page count : Nat) (s : State) : Out :=
  onCall c 0x02 none false [page, count] s fun s =>
    if s.namesPages page count && s.looseFrom page count then ends c stOK (s.modPages page count fun _ => DpitEntry.reset)
    else ends c stBADARG s

/-- MEM_PIN: sets PIN and the export for R396 (R35, R399); the pages of a tile map, a carrier area or a park table keep their PIN. -/
def execMemPin (c : Caller) (page count : Nat) (pin exported : Bool) (s : State) : Out :=
  onCall c 0x03 none false [page, count, b2n pin, b2n exported] s fun s =>
    if s.namesPages page count then ends c stOK (s.modPages page count fun e => { e with pin := pin, exported := exported })
    else ends c stBADARG s

/-! ## Tables and keys -/

/-- Words in groups of eight. -/
def eights : Nat → List Word → List (List Word)
  | 0, _ => []
  | n + 1, ws => ws.take 8 :: eights n (ws.drop 8)

/-- ROUTINE_LOAD: 64 entries, loaded when every one passes R118; else the loaded table stays. -/
def execRoutineLoad (c : Caller) (addr : Word) (s : State) : Out :=
  onCall c 0x04 none false [addr.toNat] s fun s =>
    match s.callRead c ((s.call c).reg.getLsbD 56) 512 addr with
    | (s, some ws) =>
      let es := eights 64 ws
      if es.all routineOk then ends c stOK { s with routines := es.zipIdx.filterMap fun e => if routineSteps e.1 = [] then none else some (e.2, e.1) }
      else ends c stREJECTED s
    | (s, none) => ends c stBADARG s

/-- KEY_LOAD: an entry 1 to 15 takes the unwrapped key; a failed unwrap leaves it (R402). -/
def execKeyLoad (c : Caller) (tab : BitVec 16) (entry : BitVec 4) (session : Nat) (wrapped : List Byte) (s : State) : Out :=
  onCallIf c 0x05 (some tab) false (s.holdsArgs c [tab.toNat, entry.toNat, session] && (s.wrappedKey c).2 == some wrapped) s fun s =>
    let s := (s.wrappedKey c).1
    match s.tab? tab, Config.unwrap session tab entry wrapped with
    | some _, some key =>
      if entry = 0 then ends c stBADARG s else ends c stOK (s.modTab tab fun x => { x with keys := put entry key x.keys })
    | _, _ => ends c stBADARG s

/-- A power of two, of as many bits as a word of the block has. -/
def isPow2 (n : Nat) : Bool := (List.range 64).any fun k => n == 2 ^ k

/-- ERR_RING (R381, R399). -/
def execErrRing (c : Caller) (base : Word) (count vector : Nat) (s : State) : Out :=
  onCall c 0x06 none false [base.toNat, count, vector] s fun s =>
    if isPow2 count && base.toNat % 64 == 0 && decide (vector < 65536) then
      ends c stOK { s with errRing := some { caller := c, host := (s.call c).reg.getLsbD 56, base := base, count := count, vector := vector,
                                             first := s.errors.length } }
    else ends c stBADARG s

/-- Launches of a tableau's queues that wait for a translation (R392). -/
def State.modWaiting (tab : BitVec 16) (digest : List Byte) (f : Launch → Launch) (s : State) : State :=
  let g := fun (l : Launch) => if l.waits = some digest && l.state == .pending then f l else l
  let h := fun (p : BitVec 12 × Queue) => if p.2.tabId = tab then (p.1, { p.2 with launches := p.2.launches.map g }) else p
  { s with queues := s.queues.map h }

/-- A digest as the words of a block. -/
def digestWords (d : List Byte) : List Nat := (List.range 4).map fun i => leNat ((d.drop (8 * i)).take 8)

/-- XLATE_REG: the launches that wait for the digest go on (R392). -/
def execXlateReg (c : Caller) (tab : BitVec 16) (digest : List Byte) (header : Word) (s : State) : Out :=
  onCall c 0x07 (some tab) false (tab.toNat :: (digestWords digest ++ [header.toNat])) s fun s =>
    if (s.tab? tab).isNone || digest.length != 32 then ends c stBADARG s
    else
      let s := s.modTab tab fun x => { x with xlate := put digest header x.xlate }
      ends c stOK (s.modWaiting tab digest fun l => { l with waits := none })

/-- TRANSLATION_DECLINED: they end with BADHEADER (R392). -/
def execTranslationDeclined (tab : BitVec 16) (digest : List Byte) (s : State) : Out :=
  .next (s.modWaiting tab digest fun l => { l with state := .done, status := 4, fill := true, waits := none })

/-- PEER_SET: an entry 0 to 575; port 0xFFFF invalidates it (R46, R399). -/
def execPeerSet (c : Caller) (tab : BitVec 16) (index port : Nat) (partner : BitVec 16) (s : State) : Out :=
  onCall c 0x08 (some tab) false [tab.toNat, index, port, partner.toNat] s fun s =>
    if (s.tab? tab).isNone || decide (576 ≤ index) || decide (65536 ≤ port) then ends c stBADARG s
    else ends c stOK (s.modTab tab fun x =>
      { x with peers := if port = 0xFFFF then del index x.peers else put index (port, partner) x.peers })

/-! ## Tableaux (R17, R23, R164, R399) -/

/-- n gangs of a shape stand side by side on the usable tiles of a share: the first free corner holds one, or none does (R160, R352). Each
level leaves one corner; the corners are the fuel. -/
def packs (gw gh : Nat) (ok : Nat → Bool) : Nat → List (Nat × Nat) → List Nat → Bool
  | 0, _, _ => true
  | _ + 1, [], _ => false
  | n + 1, c :: cs, taken =>
    let fits := [false, true].filterMap fun o => fitAt gw gh c.1 c.2 o fun q => ok q && !taken.contains q
    fits.any (fun f => packs gw gh ok n cs (f.tiles ++ taken)) || packs gw gh ok (n + 1) cs taken

/-- The gangs of a set lie in the extent, and all of them fit in the share at once in some shape that its first launch can declare
(R164, R352; DEDUCED, log entry 46). -/
def State.setFits (a : TblArgs) (s : State) (b : GangBox) : Bool :=
  let n := (b.s1 - b.s0 + 1) * (b.n1 - b.n0 + 1)
  let ok := fun (q : Nat) => inShare a.share q && !s.retired.contains q
  let free := (corners a.share).filter fun c => ok (c.2 * 112 + c.1)
  decide (b.s0 ≤ b.s1) && decide (b.s1 < a.stages) && decide (b.n0 ≤ b.n1) && decide (b.n1 < a.gangs) &&
    decide (n * a.tiles ≤ free.length) &&
    (List.range a.tiles).any fun i => decide (a.tiles % (i + 1) = 0) && packs (i + 1) (a.tiles / (i + 1)) ok n (corners a.share) []

/-- The arguments of TBL_CREATE lie in their ranges. -/
def State.tblOk (a : TblArgs) (s : State) : Bool :=
  decide (1 ≤ a.stages ∧ a.stages ≤ 16) && decide (1 ≤ a.gangs ∧ a.gangs ≤ 1024) && decide (1 ≤ a.tiles ∧ a.tiles ≤ 64) &&
    a.sliceMax % 64 == 0 && decide (a.sliceMax ≤ 4194304) && decide (4096 ≤ a.carrier ∧ a.carrier ≤ 2 ^ 24) &&
    decide (4 * a.stages * a.gangs * a.tiles + 1 ≤ a.carrier) && decide (10 ≤ a.nlog ∧ a.nlog ≤ 24) && decide (a.sets.length ≤ 16) &&
    a.sets.all (s.setFits a) && (a.share.all fun r => decide (r.x0 ≤ r.x1 ∧ r.x1 < 112 ∧ r.y0 ≤ r.y1 ∧ r.y1 < 112))

/-- The lowest identifier from 1 that no tableau alive has. -/
def State.newTab (s : State) : Option (BitVec 16) :=
  ((List.range (s.tabs.length + 1)).map fun i => (BitVec.ofNat 16 (i + 1))).find? fun t => t != 0 && (s.tab? t).isNone

/-- The tile of a new tableau: its map entry is ABSENT with FRESH = 1 and GEN = 0 (R23). -/
def Tile.fresh : Tile := { Tile.reset with entry := { MapEntry.reset with fresh := true, st := .absent } }

/-- A new tableau: its own image key and XTS keys (R100, R314), and its SY.PARKBASE (R69). -/
def State.newTableau (s : State) (args : TblArgs) (page : Nat) : Tableau :=
  let keys := Config.freeXts s.tick
  { args := args, shape := none, alive := true, queueOnly := false, groups := [], state := [],
    keys := [(0, leBytes 32 (Config.freeKey s.tick).toNat)], peers := [], xlate := [], wakes := [], lastPrio := 0,
    parkbase := atBits 12 36 (bits (BitVec.ofNat 64 args.parkVa) 12 36) ||| atBits 0 5 args.nlog,
    mapBase := 65536 * page, xts := (keys.extractLsb' 0 256, keys.extractLsb' 256 256) }

/-- The block of TBL_CREATE holds these arguments: the extent, SLICEMAX, the carrier size, NLOG and the deadline, the sets and the
runtime-loop entry (PRESUMED, log entry 40). -/
def State.holdsTbl (s : State) (c : Caller) (a : TblArgs) : Bool :=
  let w := fun (i : Nat) => s.argAt c i
  !(s.callArgs c).isEmpty && bits (w 1) 0 16 == a.stages && bits (w 1) 16 16 == a.gangs && bits (w 1) 32 32 == a.tiles &&
    (w 2).toNat == a.sliceMax && (w 3).toNat == a.carrier && bits (w 4) 0 32 == a.nlog && bits (w 4) 32 32 == a.pdead &&
    (s.callSets c).2 == some a.sets && w 7 == a.loopEntry

/-- TBL_CREATE: a tableau with its keys, and its tile map and carrier area in pages of their own; word 1 returns its identifier (R19, R23,
R100, R171, R314, R399; DESIGN CHOICE, log entry 70). -/
def execTblCreate (c : Caller) (args : TblArgs) (s : State) : Out :=
  onCallIf c 0x09 none true (s.holdsTbl c args) s fun s =>
    let s := (s.callSets c).1
    if !s.tblOk args then ends c stBADARG s
    else
      let n := areaPages args
      match s.newTab, s.findRun n with
      | some t, some p =>
        let s := (List.range n).foldl (fun s i => s.allocPage (p + i)) (s.zeroPages p n)
        let s := s.modPages p n fun e => { e with pin := true }
        let s := { s with tabs := put t (s.newTableau args p) s.tabs }
        let ts := (s.gangsOf t).flatMap s.gangTiles
        let s := { s with tiles := (s.tiles.filter fun (p : TileId × Tile) => p.1.tab ≠ t) ++ ts.map fun u => (u, Tile.fresh) }
        (ts.foldl (fun s u => s.setEntry u id) s).answer c stOK 0 [(1, BitVec.ofNat 64 t.toNat)]
      | _, _ => ends c stNOSPACE s

/-- SHARE_SHRINK: a share that lies within the old one; the next pass stops the gangs outside it (R426). (DEDUCED: log entry 46.) -/
def execShareShrink (tab : BitVec 16) (share : List Rect) (s : State) : Out :=
  .next (match s.tab? tab with
    | some x =>
      if (corners share).all fun c => !inShare share (c.2 * 112 + c.1) || inShare x.args.share (c.2 * 112 + c.1) then
        { s.modTab tab (fun x => { x with args := { x.args with share := share } }) with ostler := { s.ostler with due := true } }
      else s
    | none => s)

/-- POST_IRQ: the interrupt is pending in the hart of an alive tableau whatever the state of its gang, and wakes it from WFE (R362, R399). -/
def execPostIrq (c : Caller) (tab : BitVec 16) (vt : Nat) (hart : Nat) (source : BitVec 16) (s : State) : Out :=
  onCall c 0x0F (some tab) false [tab.toNat, vt, hart, source.toNat] s fun s =>
    let t : TileId := { tab := tab, vt := BitVec.ofNat 20 vt }
    if decide (2 ^ 20 ≤ vt) || !s.validVt t || decide (3 < hart) || !(s.tab? tab).any (·.alive) then ends c stBADARG s
    else ends c stOK (s.modHart { tile := t, num := BitVec.ofNat 2 hart } fun x => { x with irqs := x.irqs ++ [source] }.latchEvent)

/-- TILEMAP_ENTRY_REWRITE: firmware rewrites the whole word of an entry of an alive tableau; it is good again (R22, R61). -/
def execTilemapEntryRewrite (t : TileId) (s : State) : Out :=
  let h := s.mapHome t
  .next (if s.validVt t then ((s.detectWrite h [h]).setEntry t fun e => { e with bad := false }).setTag h .full else s)

/-! ## Queues (R397, R399, R400) -/

/-- QUEUE_ASSIGN (R395, R397). -/
def execQueueAssign (c : Caller) (q : BitVec 12) (port : BitVec 2) (vf : BitVec 8) (s : State) : Out :=
  onCall c 0x0A none true [q.toNat, port.toNat, vf.toNat] s fun s =>
    if s.queueLocked q then ends c stLOCKED s
    else ends c stOK (s.modQueue q fun x => { x with port := port, vf := vf })

/-- A new gate on a word: nothing read yet. -/
def newGate (va : Word) (now : Nat) : Gate := { va := va, tries := 0, due := now, linked := none, woken := false, full := none }

/-- QUEUE_GATE: 0 clears and unlinks; a word on a host page is refused, whatever its permissions (R400). -/
def execQueueGate (c : Caller) (q : BitVec 12) (va : Word) (s : State) : Out :=
  onCall c 0x0B none false [q.toNat, va.toNat] s fun s =>
    let t := (s.queue q).tabId
    if va = 0 then ends c stOK ((s.unlink t none q).modQueue q fun x => { x with gate := none })
    else
      match s.feHome t { needR with r := false } va with
      | (s, h) =>
        if h.any (·.isHost) || va.toNat % 8 != 0 then ends c stBADARG s
        else ends c stOK ((s.unlink t none q).modQueue q fun x => { x with gate := some (newGate va s.now) })

/-- TDISP_REQUEST: a virtual function's interface is locked or unlocked (R397). (DEDUCED: log entry 46.) -/
def execTdispRequest (port : BitVec 2) (vf : BitVec 8) (lock : Bool) (s : State) : Out :=
  .next (if vf = 0 then s
    else if lock then { s with tdis := if s.tdis.contains (port, vf) then s.tdis else s.tdis ++ [(port, vf)] }
    else { s with tdis := s.tdis.filter fun p => p != (port, vf) })

/-- What a measurement is taken of: the images, the fuses, the defect map, the routine table, and the interfaces that are locked (R405). -/
def State.measured (s : State) (index : Nat) : Option (List Nat) :=
  match index with
  | 1 => some []
  | 2 => some [s.factors.image]
  | 3 => some []
  | 4 => some s.retired
  | 5 => some (s.routines.flatMap fun p => p.1 :: p.2.map (·.toNat))
  | 6 => some (s.tdis.map fun p => 256 * p.1.toNat + p.2.toNat)
  | _ => none

/-- The value of a measurement: a digest, or the TDISP states themselves, two bytes for each interface that is locked (DESIGN CHOICE, log
entry 7). -/
def measure (index : Nat) (content : List Nat) : List Byte :=
  if index = 6 then content.flatMap (leBytes 2) else Config.digest index content

/-- SPDM_REQUEST: the assayer answers with a measurement and the device key's signature (R405); it has none of another index. -/
def execSpdmRequest (port : BitVec 2) (index : Nat) (s : State) : Out :=
  .next (match s.measured index with
    | some m =>
      let v := measure index m
      { s with answers := s.answers ++ [.spdm port index (v ++ Config.sign v s.tick)] }
    | none => s)

/-! ## Live migration (R409) -/

/-- A word that a queue moved within this wafer can be gated on: the front end reaches it, and it can be set EMPTY (R409). -/
def State.gateWord (q : BitVec 12) (m : Migration) (s : State) : State × Option Home :=
  match s.feHome (s.queue q).tabId needRW m.newGate with
  | (s, some h) => (s, if h.isHost || m.newGate.toNat % 8 != 0 then none else some h)
  | r => r

/-- MIGRATE: recorded until the queue can freeze. Wafer 0 is this one, and for a gated queue firmware names a new gate word there that can be
set EMPTY. (DEDUCED: log entry 42.) -/
def execMigrate (c : Caller) (src dst : BitVec 12) (wafer : Nat) (newGate : Word) (deadline : Nat) (s : State) : Out :=
  onCall c 0x0C none true [src.toNat, dst.toNat, wafer, deadline] s fun s =>
    if s.queueLocked src || (wafer == 0 && s.queueLocked dst) then ends c stLOCKED s
    else if src = dst ∧ wafer = 0 ∨ (wafer = 0 ∧ (s.queue dst).active) ∨ (s.queue src).migration.isSome then ends c stBADARG s
    else
      let m : Migration := { caller := c, dst := dst, wafer := wafer, newGate := newGate, deadline := s.now + 4000 * deadline }
      if wafer = 0 ∧ (s.queue src).gate.isSome ∧ (s.gateWord src m).2 = none then s
      else (s.modCall c fun f => { f with started := true }).modQueue src fun x => { x with migration := some m }

/-- The gate word of a queue is FULL, or there is none (R409): decided at the word's home, so none while its slice has no home that serves it. A
page that is not VALID reads as POISON (R37). -/
def State.gateOpen (q : BitVec 12) (s : State) : State × Option Bool :=
  match (s.queue q).gate with
  | none => (s, some true)
  | some g =>
    match s.feHome (s.queue q).tabId needR g.va with
    | (s, some h) =>
      if !s.feOpen h then (s.holdAt h, none)
      else if !s.pageOk h then (s.logDpa h, some false)
      else let s := s.detect h; (s, some (s.tagOf h == .full))
    | (s, none) => (s, some false)

/-- The entries move with the queue's registers; the source is left with its place at its port. (DEDUCED: log entry 42.) -/
def State.moveQueue (q : BitVec 12) (m : Migration) (gate : Option Gate) (s : State) : State :=
  let x := s.queue q
  let s := s.unlink x.tabId none q
  let s := s.modQueue q fun _ => { Queue.reset with port := x.port, vf := x.vf }
  if m.wafer = 0 then
    (s.modQueue m.dst fun y => { x with port := y.port, vf := y.vf, migration := none, gate := gate }).reloadQueue m.dst
  else s

/-- A migration may be decided: the source has no DISPATCHED launch. -/
def Queue.still (q : Queue) : Bool := !q.launches.any fun l => l.state == .dispatched

/-- Freeze with the gate open, or none: the destination starts ungated. -/
def State.freezeOpen (q : BitVec 12) (m : Migration) (s : State) : State := ends m.caller stOK (s.moveQueue q m none)

/-- An attempt to freeze: with no DISPATCHED launch and the gate open the entries move; else the freeze is deferred. -/
def State.freeze? (q : BitVec 12) (s : State) : State :=
  match (s.queue q).migration with
  | some m =>
    if (s.queue q).still then
      match s.gateOpen q with
      | (s, some true) => s.freezeOpen q m
      | (s, _) => s
    else s
  | none => s

/-- MIGRATE_FREEZE: an attempt to freeze. -/
def execMigrateFreeze (q : BitVec 12) (s : State) : Out := .next (s.freeze? q)

/-- Every step ends with the attempts that its fills and writes of gate words call for, so that no FULL word is missed (R409). -/
def State.freezes (s : State) : State :=
  (s.queues.filter fun p => p.2.migration.isSome).foldl (fun s p => s.freeze? p.1) s

/-- MIGRATE_DEADLINE: the entries move to a queue gated on a new word set EMPTY; words 1 and 2 return the old and the new gate. A word of
another wafer is set there (log entry 8); one of this wafer that its home does not serve now is waited for, and the write to a page that
is not VALID ends with a record, as any access to one does (R37). -/
def execMigrateDeadline (q : BitVec 12) (s : State) : Out :=
  .next (match (s.queue q).migration with
    | some m =>
      if (s.queue q).still then
        let s := s.reach m.deadline
        match s.gateOpen q with
        | (s, none) => s
        | (s, some true) => s.freezeOpen q m
        | (s, some false) =>
          let old := match (s.queue q).gate with | some g => g.va | none => 0
          let move := fun (s : State) =>
            (s.moveQueue q m (some (newGate m.newGate s.now))).answer m.caller stOK 0 [(1, old), (2, m.newGate)]
          if m.wafer != 0 then move s
          else
            match s.gateWord q m with
            | (s, some h) =>
              if !s.feOpen h then s.holdAt h
              else if !s.pageOk h then move (s.logDpa h)
              else move ((s.detectWrite h [h]).act (.set .empty) h 0 0).1
            | (s, none) => s
      else s
    | none => s)

/-! ## Storage (R401) -/

/-- The engine's view of a tableau for a storage transfer's accesses. -/
def State.storeCtx (s : State) (t : BitVec 16) : EngCtx :=
  { hart := { tile := { tab := t, vt := 0 }, num := 0 }, user := false, root := match s.tab? t with | some x => x.args.root | none => 0 }

/-- Every page of a transfer's range is mapped with a permission and not on a host page. -/
def State.storeMapped (t : BitVec 16) (n : Need) : Nat → Word → State → State × Bool
  | 0, _, s => (s, true)
  | k + 1, va, s =>
    match s.feHome t n va with
    | (s, some (.hbm _)) => State.storeMapped t n k (va + 65536) s
    | (s, _) => (s, false)

/-- The pages of 64 KiB that a transfer touches. -/
def storeSpan (a : StoreArgs) : Nat := (a.va.toNat % 65536 + 4096 * a.count + 65535) / 65536

def State.storeArgs (a : StoreArgs) (n : Need) (s : State) : State × Bool :=
  if decide (a.port < 8) && decide (1 ≤ a.count ∧ a.count ≤ 2 ^ 20) && a.va.toNat % 4096 == 0 && range a.va == .paged &&
      (s.tab? a.tab).isSome then
    s.storeMapped a.tab n (storeSpan a) (setBits a.va 0 16 0)
  else (s, false)

/-- Starts a transfer whose arguments are good. -/
def startStore (c : Caller) (write : Bool) (a : StoreArgs) (s : State) : State :=
  match s.storeArgs a (if write then needR else needW) with
  | (s, true) =>
    { s.modCall c (fun f => { f with started := true }) with transfer := s.transfer ++ [{ caller := c, write := write, args := a }] }
  | (s, false) => ends c stBADARG s

/-- The arguments of a transfer as its block holds them; bit 8 of the last word asks for the verification (PRESUMED, log entry 40). -/
def storeBlock (a : StoreArgs) : List Nat :=
  [a.port, a.nspace, a.lba, a.count, a.tab.toNat, a.va.toNat, match a.key with | some k => 256 + k.toNat | none => 0]

def execStoreRead (c : Caller) (args : StoreArgs) (s : State) : Out :=
  onCall c 0x0D (some args.tab) false (storeBlock args) s (startStore c false args)
def execStoreWrite (c : Caller) (args : StoreArgs) (s : State) : Out :=
  onCall c 0x0E (some args.tab) false (storeBlock args) s (startStore c true args)

/-- Whole-word plain writes of the words of a transfer that the predicate names, in address order. (DEDUCED: log entry 43.) -/
def State.storeWords (t : BitVec 16) (p : Nat → Bool) : Nat → Word → List Byte → Nat → State → State
  | 0, _, _, _, s => s
  | n + 1, va, bs, i, s =>
    let s := if !p i then s
      else
        match s.feHome t needW va with
        | (s, some h) => s.putWord h (leNat (bs.take 8))
        | (s, none) => s
    State.storeWords t p n (va + 8) (bs.drop 8) (i + 1) s

/-- The bytes of words, lowest first. -/
def wordsBytes (ws : List Word) : List Byte := ws.flatMap fun w => leBytes 8 w.toNat

/-- What a STORE_WRITE sends to flash: the blocks before the first that failed, or all of them (R401). A POISON word fails the call. -/
def State.sendFlash (c : Caller) (a : StoreArgs) (badLba : Option Nat) (s : State) : State :=
  let blocks := match badLba with
    | some b => b - a.lba
    | none => a.count
  match s.feRead a.tab false (512 * blocks) a.va with
  | (s, none) => ends c stBADARG s
  | (s, some ws) =>
    let s := { s with answers := s.answers ++ [.flash a (wordsBytes ws)] }
    match badLba with
    | some b => s.answer c stMEDIA 0 [(1, BitVec.ofNat 64 b)]
    | none => ends c stOK s

/-- The data of a STORE_READ reach HBM, and the image is checked where a key entry asks for it. Of the words from a block that failed on,
each is old or new, as free values choose (DESIGN CHOICE, log entry 9). None while the image cannot be read yet. -/
def State.takeFlash (c : Caller) (a : StoreArgs) (data : List Byte) (badLba : Option Nat) (s : State) : Option State :=
  let words := 512 * a.count
  match badLba with
  | some b =>
    let good := 512 * (b - a.lba)
    let s := s.storeWords a.tab (fun i => decide (i < good) || Config.freeNew s.tick i) words a.va data 0
    some (s.answer c stMEDIA 0 [(1, BitVec.ofNat 64 b)])
  | none =>
    let s := s.storeWords a.tab (fun _ => true) words a.va data 0
    match a.key with
    | some k =>
      match s.readImage (s.storeCtx a.tab) k a.va (4096 * a.count) [] with
      | (s, _, .ok _ _) => some (ends c stOK s)
      | (s, _, .bad _ r) => some (s.answer c stBADARG r [])
      | (_, _, .hold) => none
    | none => some (ends c stOK s)

/-- STORE_TRANSFER_DONE: the data read from flash, or the first block that failed; a write's source is read with plain reads
(R401). (DEDUCED: log entry 43.) -/
def execStoreTransferDone (c : Caller) (data : List Byte) (badLba : Option Nat) (s : State) : Out :=
  .next (match s.transfer.find? fun t => t.caller = c with
    | some t =>
      let r := { s with transfer := s.transfer.filter fun x => x.caller ≠ c }
      if t.write then r.sendFlash c t.args badLba else (r.takeFlash c t.args data badLba).getD s
    | none => s)

end Sys2Proof.Machine
end

