-- ==== Sys2Proof/Machine/Scalar.lean ====
section
/-!
DEFINITION. The scalar ALU: majors 0x00 to 0x0C (R229-R233). Results are interlocked and written at issue (R227).
-/

namespace Sys2Proof.Machine

/-- Writes a scalar result and completes the instruction. -/
def writeG (d : Reg) (v : Word) (s : State) : State := retire (s.mod (·.setG d v))

/-- A form with two sources (R229). -/
def alu3 (f : Word → Word → Word) (d a b : Reg) (w : Bool) (s : State) : Out :=
  withRegs [gRef a, gRef b] [gRef d] w s (.next (writeG d (f (s.hart.gr a) (s.hart.gr b)) s))

/-- A form with one source. -/
def alu2 (f : Word → Word) (d a : Reg) (w : Bool) (s : State) : Out :=
  withRegs [gRef a] [gRef d] w s (.next (writeG d (f (s.hart.gr a)) s))

/-! ## What each form computes (R229, R230) -/

def aluMulhi (x y : Word) : Word := BitVec.ofNat 64 (x.toNat * y.toNat / 2 ^ 64)
def aluMulhis (x y : Word) : Word := BitVec.ofInt 64 (x.toInt * y.toInt / 2 ^ 64)
def aluDiv (x y : Word) : Word := if y = 0 then BitVec.allOnes 64 else BitVec.ofNat 64 (x.toNat / y.toNat)
def aluRem (x y : Word) : Word := if y = 0 then x else BitVec.ofNat 64 (x.toNat % y.toNat)
def aluDivs (x y : Word) : Word := if y = 0 then BitVec.allOnes 64 else BitVec.ofInt 64 (x.toInt.tdiv y.toInt)
def aluRems (x y : Word) : Word := if y = 0 then x else BitVec.ofInt 64 (x.toInt.tmod y.toInt)
def aluMin (x y : Word) : Word := if x.toNat ≤ y.toNat then x else y
def aluMax (x y : Word) : Word := if x.toNat ≤ y.toNat then y else x
def aluMins (x y : Word) : Word := if x.toInt ≤ y.toInt then x else y
def aluMaxs (x y : Word) : Word := if x.toInt ≤ y.toInt then y else x

/-- Leading zero bits; 64 for zero. -/
def aluClz (x : Word) : Word := BitVec.ofNat 64 (if x = 0 then 64 else 63 - x.toNat.log2)

/-- Trailing zero bits from bit i on. -/
def ctzFrom (x : Word) : Nat → Nat → Nat
  | 0, i => i
  | n + 1, i => if x.getLsbD i then i else ctzFrom x n (i + 1)

/-- Trailing zero bits; 64 for zero. -/
def aluCtz (x : Word) : Word := BitVec.ofNat 64 (ctzFrom x 64 0)

def aluPopc (x : Word) : Word := BitVec.ofNat 64 (((List.range 64).filter x.getLsbD).length)

def aluBswap (x : Word) : Word :=
  x.extractLsb' 0 8 ++ x.extractLsb' 8 8 ++ x.extractLsb' 16 8 ++ x.extractLsb' 24 8 ++ x.extractLsb' 32 8 ++ x.extractLsb' 40 8 ++
    x.extractLsb' 48 8 ++ x.extractLsb' 56 8

def shAmt (y : Word) : Nat := bits y 0 6

def execAdd (d a b : Reg) (w : Bool) (s : State) : Out := alu3 (· + ·) d a b w s
def execSub (d a b : Reg) (w : Bool) (s : State) : Out := alu3 (· - ·) d a b w s
def execAnd (d a b : Reg) (w : Bool) (s : State) : Out := alu3 (· &&& ·) d a b w s
def execOr (d a b : Reg) (w : Bool) (s : State) : Out := alu3 (· ||| ·) d a b w s
def execXor (d a b : Reg) (w : Bool) (s : State) : Out := alu3 (· ^^^ ·) d a b w s
def execAndn (d a b : Reg) (w : Bool) (s : State) : Out := alu3 (fun x y => x &&& ~~~y) d a b w s
def execShl (d a b : Reg) (w : Bool) (s : State) : Out := alu3 (fun x y => x <<< shAmt y) d a b w s
def execShr (d a b : Reg) (w : Bool) (s : State) : Out := alu3 (fun x y => x >>> shAmt y) d a b w s
def execSar (d a b : Reg) (w : Bool) (s : State) : Out := alu3 (fun x y => x.sshiftRight (shAmt y)) d a b w s
def execMul (d a b : Reg) (w : Bool) (s : State) : Out := alu3 (· * ·) d a b w s
def execMulhi (d a b : Reg) (w : Bool) (s : State) : Out := alu3 aluMulhi d a b w s
def execMulhis (d a b : Reg) (w : Bool) (s : State) : Out := alu3 aluMulhis d a b w s
def execDiv (d a b : Reg) (w : Bool) (s : State) : Out := alu3 aluDiv d a b w s
def execDivs (d a b : Reg) (w : Bool) (s : State) : Out := alu3 aluDivs d a b w s
def execRem (d a b : Reg) (w : Bool) (s : State) : Out := alu3 aluRem d a b w s
def execRems (d a b : Reg) (w : Bool) (s : State) : Out := alu3 aluRems d a b w s
def execMin (d a b : Reg) (w : Bool) (s : State) : Out := alu3 aluMin d a b w s
def execMins (d a b : Reg) (w : Bool) (s : State) : Out := alu3 aluMins d a b w s
def execMax (d a b : Reg) (w : Bool) (s : State) : Out := alu3 aluMax d a b w s
def execMaxs (d a b : Reg) (w : Bool) (s : State) : Out := alu3 aluMaxs d a b w s
def execCmpeq (d a b : Reg) (w : Bool) (s : State) : Out := alu3 (fun x y => flagWord (x == y)) d a b w s
def execCmplt (d a b : Reg) (w : Bool) (s : State) : Out := alu3 (fun x y => flagWord (x.ult y)) d a b w s
def execCmplts (d a b : Reg) (w : Bool) (s : State) : Out := alu3 (fun x y => flagWord (x.slt y)) d a b w s

/-- SEL reads g[d] as its condition (R229). -/
def execSel (d a b : Reg) (w : Bool) (s : State) : Out :=
  withRegs [gRef a, gRef b, gRef d] [] w s
    (.next (writeG d (if s.hart.gr d ≠ 0 then s.hart.gr a else s.hart.gr b) s))

def execClz (d a : Reg) (w : Bool) (s : State) : Out := alu2 aluClz d a w s
def execCtz (d a : Reg) (w : Bool) (s : State) : Out := alu2 aluCtz d a w s
def execPopc (d a : Reg) (w : Bool) (s : State) : Out := alu2 aluPopc d a w s
def execBswap (d a : Reg) (w : Bool) (s : State) : Out := alu2 aluBswap d a w s

/-! ## Immediates (R231-R233) -/

def execAddi (d a : Reg) (w : Bool) (i : BitVec 15) (s : State) : Out := alu2 (· + sx15 i) d a w s
def execAndi (d a : Reg) (w : Bool) (i : BitVec 15) (s : State) : Out := alu2 (· &&& zx15 i) d a w s
def execOri (d a : Reg) (w : Bool) (i : BitVec 15) (s : State) : Out := alu2 (· ||| zx15 i) d a w s
def execXori (d a : Reg) (w : Bool) (i : BitVec 15) (s : State) : Out := alu2 (· ^^^ zx15 i) d a w s
def execShli (d a : Reg) (w : Bool) (n : BitVec 6) (s : State) : Out := alu2 (· <<< n.toNat) d a w s
def execShri (d a : Reg) (w : Bool) (n : BitVec 6) (s : State) : Out := alu2 (· >>> n.toNat) d a w s
def execSari (d a : Reg) (w : Bool) (n : BitVec 6) (s : State) : Out := alu2 (fun x => x.sshiftRight n.toNat) d a w s
def execCmplti (d a : Reg) (w : Bool) (i : BitVec 15) (s : State) : Out := alu2 (fun x => flagWord (x.slt (sx15 i))) d a w s

/-- LIH: sext(imm21) · 2^11 (R232). -/
def execLih (d : Reg) (i : BitVec 21) (s : State) : Out :=
  withRegs [] [gRef d] true s (.next (writeG d (i.signExtend 64 <<< 11) s))

/-- ADDPC: the address of its own word plus sext(imm21), in a repeat body too (R232). -/
def execAddpc (d : Reg) (i : BitVec 21) (s : State) : Out :=
  withRegs [] [gRef d] true s (.next (writeG d (s.hart.pc + i.signExtend 64) s))

/-- pos + len > 64 is no field (R233). -/
def fieldBad (pos len1 : BitVec 6) : Bool := decide (64 < pos.toNat + len1.toNat + 1)

/-- Bits [pos + len - 1 : pos], zero-extended. -/
def extract (pos len1 : BitVec 6) (x : Word) : Word := BitVec.ofNat 64 (bits x pos.toNat (len1.toNat + 1))

def execExt (d a : Reg) (w : Bool) (pos len1 : BitVec 6) (s : State) : Out :=
  if fieldBad pos len1 then trap (mkTrap cILLEGAL 0x26) s else alu2 (extract pos len1) d a w s

/-- INS also reads g[d] (R208, R233). (DEDUCED: log entry 20.) -/
def execIns (d a : Reg) (w : Bool) (pos len1 : BitVec 6) (s : State) : Out :=
  if fieldBad pos len1 then trap (mkTrap cILLEGAL 0x26) s
  else withRegs [gRef a, gRef d] [] w s
    (.next (writeG d (setBits (s.hart.gr d) pos.toNat (len1.toNat + 1) (s.hart.gr a).toNat) s))

end Sys2Proof.Machine
end

