-- ==== Sys2Proof/Machine/Vector.lean ====
section
/-!
DEFINITION. Vector arithmetic (majors 0x20 to 0x28): the queue and the unit (R154-R157, R256-R258), and the forms of R260-R268.
Operands are read and the result computed when the instruction enters the queue; the unit's issue writes it.
-/

namespace Sys2Proof

/-- Lanes of an element type and the width of one. -/
def EType.lanes (t : EType) : Nat := 64 / t.bytes
def EType.bits (t : EType) : Nat := 8 * t.bytes

/-- Whether an element type is one of the .SI types. -/
def EType.isSI (t : EType) : Bool := t.ffmt.isNone && t.signed

end Sys2Proof

namespace Sys2Proof.Machine

/-- Room for an operation in the vector queue (R154). -/
def Hart.vqFull (h : Hart) : Bool := decide (8 ≤ h.vq.length)

/-- Enters the queue after the checks at hart issue (R256). (DEDUCED: log entry 32.) -/
def enqueue (cost : Nat) (dest : RegRef) (val : VWord) (s : State) : Out :=
  if s.hart.vqFull then waitAt s
  else .next (retire (s.mod fun h => { h with vq := h.vq ++ [{ cost := cost, dest := some dest, val := val, op := none }] }))

/-! ## Elementwise forms -/

/-- Active elements from f, the others from the old register (R259). -/
def vmap (h : Hart) (t : EType) (k : KReg) (old : VWord) (f : Nat → Nat) : VWord :=
  ofElems t.bytes ((List.range t.lanes).map fun i => if h.active k t.bytes i then f i else elem old t.bytes i)

/-- A form with two vector sources: its result on elements x, y and the old z (R261). -/
def vbin (f : EType → Nat → Nat → Nat → Nat) (readsD : Bool) (d a b : Reg) (w : Bool) (k : KReg) (t : EType) (s : State) : Out :=
  let h := s.hart
  withRegs ([vRef a, vRef b] ++ maskRef k ++ (if readsD then [vRef d] else maskedDest k d)) [vRef d] w s
    (enqueue 1 (vRef d) (vmap h t k (h.vr d) fun i =>
      f t (elem (h.vr a) t.bytes i) (elem (h.vr b) t.bytes i) (elem (h.vr d) t.bytes i)) s)

/-- A form with one vector source. -/
def vun (f : EType → Nat → Nat) (d a : Reg) (w : Bool) (k : KReg) (t : EType) (s : State) : Out :=
  let h := s.hart
  withRegs ([vRef a] ++ maskRef k ++ maskedDest k d) [vRef d] w s
    (enqueue 1 (vRef d) (vmap h t k (h.vr d) fun i => f t (elem (h.vr a) t.bytes i)) s)

/-- A floating result rounded once (R198). -/
def fround (f : FFmt) (v : Val) : Nat := encodeF f false false v
def fval (f : FFmt) (x : Nat) : Val := decodeF f false x

def vaddE (t : EType) (x y _z : Nat) : Nat :=
  match t.ffmt with
  | some f => fround f ((fval f x).add (fval f y))
  | none => (x + y) % 2 ^ t.bits

def vsubE (t : EType) (x y _z : Nat) : Nat :=
  match t.ffmt with
  | some f => fround f ((fval f x).add (fval f y).neg)
  | none => (x + 2 ^ t.bits - y) % 2 ^ t.bits

def vmulE (t : EType) (x y _z : Nat) : Nat :=
  match t.ffmt with
  | some f => fround f ((fval f x).mul (fval f y))
  | none => (x * y) % 2 ^ t.bits

def vfmaE (t : EType) (x y z : Nat) : Nat :=
  match t.ffmt with
  | some f => fround f (((fval f x).mul (fval f y)).add (fval f z))
  | none => (x * y + z) % 2 ^ t.bits

def vminE (t : EType) (x y _z : Nat) : Nat :=
  match t.ffmt with
  | some f => fround f ((fval f x).min (fval f y))
  | none => if intOf t.signed t.bits x ≤ intOf t.signed t.bits y then x else y

def vmaxE (t : EType) (x y _z : Nat) : Nat :=
  match t.ffmt with
  | some f => fround f ((fval f x).max (fval f y))
  | none => if intOf t.signed t.bits x ≤ intOf t.signed t.bits y then y else x

def vabsE (t : EType) (x : Nat) : Nat :=
  match t.ffmt with
  | some f => if (fval f x).isNan then f.nan false else x % 2 ^ (t.bits - 1)
  | none => (intOf t.signed t.bits x).natAbs % 2 ^ t.bits

def vnegE (t : EType) (x : Nat) : Nat :=
  match t.ffmt with
  | some f => if (fval f x).isNan then f.nan false else (x + 2 ^ (t.bits - 1)) % 2 ^ t.bits
  | none => (2 ^ t.bits - x) % 2 ^ t.bits

def execVadd (d a b : Reg) (w : Bool) (k : KReg) (t : EType) (s : State) : Out := vbin vaddE false d a b w k t s
def execVsub (d a b : Reg) (w : Bool) (k : KReg) (t : EType) (s : State) : Out := vbin vsubE false d a b w k t s
def execVmul (d a b : Reg) (w : Bool) (k : KReg) (t : EType) (s : State) : Out := vbin vmulE false d a b w k t s
def execVmin (d a b : Reg) (w : Bool) (k : KReg) (t : EType) (s : State) : Out := vbin vminE false d a b w k t s
def execVmax (d a b : Reg) (w : Bool) (k : KReg) (t : EType) (s : State) : Out := vbin vmaxE false d a b w k t s
def execVfma (d a b : Reg) (w : Bool) (k : KReg) (t : EType) (s : State) : Out := vbin vfmaE true d a b w k t s
def execVabs (d a : Reg) (w : Bool) (k : KReg) (t : EType) (s : State) : Out := vun vabsE d a w k t s
def execVneg (d a : Reg) (w : Bool) (k : KReg) (t : EType) (s : State) : Out := vun vnegE d a w k t s

def vandE (_ : EType) (x y _z : Nat) : Nat := x &&& y
def vorE (_ : EType) (x y _z : Nat) : Nat := x ||| y
def vxorE (_ : EType) (x y _z : Nat) : Nat := x ^^^ y
/-- Shift amounts are taken modulo the element width (R261). -/
def vshlE (t : EType) (x y _z : Nat) : Nat := (x * 2 ^ (y % t.bits)) % 2 ^ t.bits
def vshrE (t : EType) (x y _z : Nat) : Nat := x / 2 ^ (y % t.bits)
def vsarE (t : EType) (x y _z : Nat) : Nat := lowBits t.bits (intOf true t.bits x / 2 ^ (y % t.bits))

def execVand (d a b : Reg) (w : Bool) (k : KReg) (t : EType) (s : State) : Out := vbin vandE false d a b w k t s
def execVor (d a b : Reg) (w : Bool) (k : KReg) (t : EType) (s : State) : Out := vbin vorE false d a b w k t s
def execVxor (d a b : Reg) (w : Bool) (k : KReg) (t : EType) (s : State) : Out := vbin vxorE false d a b w k t s
def execVshl (d a b : Reg) (w : Bool) (k : KReg) (t : EType) (s : State) : Out := vbin vshlE false d a b w k t s
def execVshr (d a b : Reg) (w : Bool) (k : KReg) (t : EType) (s : State) : Out := vbin vshrE false d a b w k t s
def execVsar (d a b : Reg) (w : Bool) (k : KReg) (t : EType) (s : State) : Out := vbin vsarE false d a b w k t s

/-! ## Compare, select, broadcast, extract, permute (R262, R263) -/

/-- Less-than and equality of two elements, and whether either is NaN. -/
def relE (t : EType) (x y : Nat) : Bool × Bool × Bool :=
  match t.ffmt with
  | some f =>
    let u := fval f x
    let v := fval f y
    let n := u.isNan || v.isNan
    (u.lt false v, !n && !u.lt false v && !v.lt false u, n)
  | none =>
    let u := intOf t.signed t.bits x
    let v := intOf t.signed t.bits y
    (decide (u < v), decide (u = v), false)

/-- A relation of R262: a NaN makes NE true and every other one false. -/
def condE (c : Cond) (t : EType) (x y : Nat) : Bool :=
  let r := relE t x y
  match c with
  | .eq => r.2.1
  | .ne => !r.2.1
  | .lt => r.1
  | .le => r.1 || r.2.1
  | .gt => !r.2.2 && !r.1 && !r.2.1
  | .ge => !r.2.2 && !r.1

/-- e mask bits for each element (R262). -/
def maskOf (n : Nat) (bs : List Bool) : Word :=
  BitVec.ofNat 64 (bs.foldr (fun b acc => (if b then 2 ^ n - 1 else 0) + 2 ^ n * acc) 0)

def execVcmp (d : KReg) (a b : Reg) (w : Bool) (k : KReg) (t : EType) (c : Cond) (s : State) : Out :=
  let h := s.hart
  withRegs ([vRef a, vRef b] ++ maskRef k) [kRef d] w s
    (enqueue 1 (kRef d) ((maskOf t.bytes ((List.range t.lanes).map fun i =>
      h.active k t.bytes i && condE c t (elem (h.vr a) t.bytes i) (elem (h.vr b) t.bytes i))).setWidth 512) s)

/-- VSEL: every element is written, from a or from b by the bits of k (R263). -/
def execVsel (d a b : Reg) (w : Bool) (k : KReg) (t : EType) (s : State) : Out :=
  let h := s.hart
  withRegs [vRef a, vRef b, kRef k] [vRef d] w s
    (enqueue 1 (vRef d) (ofElems t.bytes ((List.range t.lanes).map fun i =>
      elem (if (h.kr k).getLsbD (t.bytes * i) then h.vr a else h.vr b) t.bytes i)) s)

def execVbcast (d a : Reg) (w : Bool) (k : KReg) (t : EType) (s : State) : Out :=
  let h := s.hart
  withRegs ([gRef a] ++ maskRef k ++ maskedDest k d) [vRef d] w s
    (enqueue 1 (vRef d) (vmap h t k (h.vr d) fun _ => (h.gr a).toNat % 2 ^ t.bits) s)

def execVmovg (d a b : Reg) (w : Bool) (t : EType) (s : State) : Out :=
  let h := s.hart
  let x := elem (h.vr a) t.bytes ((h.gr b).toNat % t.lanes)
  withRegs [vRef a, gRef b] [gRef d] w s
    (enqueue 1 (gRef d) ((if t.isSI then sext t.bits x else BitVec.ofNat 64 x).setWidth 512) s)

def execVperm (d a b : Reg) (w : Bool) (k : KReg) (t : EType) (s : State) : Out :=
  let h := s.hart
  withRegs ([vRef a, vRef b] ++ maskRef k ++ maskedDest k d) [vRef d] w s
    (enqueue 1 (vRef d) (vmap h t k (h.vr d) fun i => elem (h.vr a) t.bytes (elem (h.vr b) t.bytes i % t.lanes)) s)

/-! ## Conversion (R264) -/

/-- Element i of n bits of a vector register. -/
def bitElem (v : VWord) (n i : Nat) : Nat := (v.toNat / 2 ^ (n * i)) % 2 ^ n

/-- The result of VCVT: N elements converted or kept, and zero above them when the destination is narrower. -/
def convertV (h : Hart) (old src : VWord) (t : EType) (k : KReg) (dst : Fmt) (sat : Bool) : VWord :=
  let wd := dst.laneBits
  let n := Nat.min (512 / t.bits) (512 / wd)
  let xs := (List.range n).map fun i =>
    if h.active k t.bytes i then dst.encode h.nm sat (t.fmt.decode h.nm (elem src t.bytes i)) % 2 ^ wd else bitElem old wd i
  BitVec.ofNat 512 (xs.foldr (fun x acc => x + 2 ^ wd * acc) 0)

def execVcvt (d a : Reg) (fmt : BitVec 5) (w : Bool) (k : KReg) (t : EType) (sat : Bool) (s : State) : Out :=
  let h := s.hart
  withRegs ([vRef a] ++ maskRef k ++ maskedDest k d) [vRef d] w s
    (enqueue 1 (vRef d) (convertV h (h.vr d) (h.vr a) t k (fmtOf fmt.toNat) sat) s)

/-! ## Reduction (R265) -/

/-- The sum of floating elements: exact, rounded once. -/
def redSumF (xs : List Val) : Val :=
  match special xs with
  | some v => v
  | none =>
    let zero := xs.all fun v => decide (v = .fin true 0 0) || (match v with
      | .fin n m _ => n && m == 0
      | _ => false)
    if zero && xs != [] then .fin true 0 0 else sumFin xs

/-- The reduction of the active elements to a register value. -/
def reduce (op : RedOp) (t : EType) (xs : List Nat) : Word :=
  match t.ffmt with
  | some f =>
    let vs := xs.map (fval f)
    BitVec.ofNat 64 (fround f (match op with
      | .add => redSumF vs
      | .min => vs.foldl Val.min (.inf false)
      | .max => vs.foldl Val.max (.inf true)))
  | none =>
    let is := xs.map (intOf t.signed t.bits)
    let lo : Int := if t.signed then -(2 ^ (t.bits - 1) : Int) else 0
    let hi : Int := if t.signed then 2 ^ (t.bits - 1) - 1 else 2 ^ t.bits - 1
    BitVec.ofInt 64 (match op with
      | .add => is.foldl (· + ·) 0
      | .min => is.foldl min hi
      | .max => is.foldl max lo)

def execVred (d a : Reg) (w : Bool) (k : KReg) (t : EType) (op : RedOp) (s : State) : Out :=
  let h := s.hart
  withRegs ([vRef a] ++ maskRef k) [gRef d] w s
    (enqueue 1 (gRef d) ((reduce op t (((List.range t.lanes).filter (h.active k t.bytes)).map fun i => elem (h.vr a) t.bytes i)).setWidth 512) s)

/-! ## Transcendentals (R199, R266) and random numbers (R267) -/

def vtrans (f : Val → Val) (t : EType) (x : Nat) : Nat :=
  match t.ffmt with
  | some g => fround g (f (fval g x))
  | none => x

def execVexp2 (d a : Reg) (w : Bool) (k : KReg) (t : EType) (s : State) : Out := vun (vtrans exp2V) d a w k t s
def execVrcp (d a : Reg) (w : Bool) (k : KReg) (t : EType) (s : State) : Out := vun (vtrans rcpV) d a w k t s
def execVrsq (d a : Reg) (w : Bool) (k : KReg) (t : EType) (s : State) : Out := vun (vtrans rsqV) d a w k t s
def execVsig (d a : Reg) (w : Bool) (k : KReg) (t : EType) (s : State) : Out := vun (vtrans sigV) d a w k t s

def execVrand (d a b : Reg) (w : Bool) (s : State) : Out :=
  let h := s.hart
  withRegs [vRef a, vRef b] [vRef d] w s (enqueue 4 (vRef d) (vrand (h.vr a) (h.vr b)) s)

/-! ## Mask operations (R268): in the scalar pipeline -/

def kop2 (f : Word → Word → Word) (d a b : KReg) (s : State) : Out :=
  withRegs [kRef a, kRef b] [kRef d] false s (.next (retire (s.mod fun h => h.setK d (f (h.kr a) (h.kr b)))))

def execKopAnd (d a b : KReg) (s : State) : Out := kop2 (· &&& ·) d a b s
def execKopOr (d a b : KReg) (s : State) : Out := kop2 (· ||| ·) d a b s
def execKopXor (d a b : KReg) (s : State) : Out := kop2 (· ^^^ ·) d a b s
def execKopAndn (d a b : KReg) (s : State) : Out := kop2 (fun x y => x &&& ~~~y) d a b s

def execKopNot (d a : KReg) (s : State) : Out :=
  withRegs [kRef a] [kRef d] false s (.next (retire (s.mod fun h => h.setK d (~~~(h.kr a)))))

def execKopFromg (d : KReg) (a : Reg) (s : State) : Out :=
  withRegs [gRef a] [kRef d] true s (.next (retire (s.mod fun h => h.setK d (h.gr a))))

/-- KOP TOG. It is checked under R78 for the g register that it writes (R256; DEDUCED, log entry 59). -/
def execKopTog (d : Reg) (a : KReg) (s : State) : Out :=
  withRegs [kRef a] [gRef d] false s (.next (retire (s.mod fun h => h.setG d (h.kr a))))

/-! ## The unit (R154-R157) -/

/-- SY.VSHARE.WEIGHT of a hart of a tile. -/
def State.vweight (s : State) (t : TileId) (j : BitVec 2) : Int := (bits (s.hartOf ⟨t, j⟩).sy.vshare 0 4 : Int)

/-- The turns of R154: at most n more; the hart that issues, if one does, with the counters after them. -/
def vturns (w : BitVec 2 → Int) (queue : BitVec 2 → List VOp) : Nat → Tile → Tile × Option (BitVec 2 × VOp)
  | 0, x => (x, none)
  | n + 1, x =>
    let h := x.turn
    let i := h.toNat
    match queue h with
    | [] => vturns w queue n { x with dc := x.dc.setIfInBounds i 0, turn := h + 1 }
    | o :: _ =>
      let dc := x.dc.getD i 0
      let dc := if x.opened.getD i false then dc else min (dc + w h) (w h + 63)
      let x := { x with dc := x.dc.setIfInBounds i dc, opened := x.opened.setIfInBounds i true }
      if (o.cost : Int) ≤ dc then ({ x with dc := x.dc.setIfInBounds i (dc - o.cost) }, some (h, o))
      else vturns w queue n { x with opened := x.opened.setIfInBounds i false, turn := h + 1 }

/-- VECTOR_ISSUE: the unit of a tile picks a hart and issues the operation at its head, which writes its result (R154, R257). (DEDUCED: log entry 32.) -/
def execVectorIssue (t : TileId) (s : State) : Out :=
  .next (
    let e := s.mapEntry t
    if e.st = .absent ∨ e.st = .settling then s
    else
      match vturns (s.vweight t) (fun j => (s.hartOf ⟨t, j⟩).vq) 4 (s.tile t) with
      | (x, none) => s.setTile t x
      | (x, some (j, o)) =>
        (s.setTile t x).modHart ⟨t, j⟩ fun h =>
          let h := { h with vq := h.vq.drop 1 }
          match o.dest, o.op with
          | some (f, r), none => h.writeReg f r o.val
          | _, _ => h)

end Sys2Proof.Machine
end

