-- ==== Sys2Proof/Machine/VectorMem.lean ====
section
/-!
DEFINITION. Vector memory (R256, R257, R259, R269, R271, R272): accesses of active elements, sent at hart issue, with a queue
entry for their cost.
-/

namespace Sys2Proof.Machine

/-- The active elements of n bytes at addresses given by their number (R259). -/
def vecExts (h : Hart) (k : KReg) (n : Nat) (addr : Nat → Word) : List Ext :=
  ((List.range (64 / n)).filter (h.active k n)).map fun i => { va := addr i, len := n, pos := n * i }

/-- A plain vector access. -/
def vecAcc (load : Bool) (exts : List Ext) (n : Nat) (sc : Scope) (acq rel : Bool) (d : Reg) (data : VWord) : Acc :=
  { kind := if load then .vload else .store, exts := exts, need := if load then needR else needW, align := n, span := false, dev := false,
    wr := !load, past := false, scope := sc, acq := acq, rel := rel, dest := if load then some (vRef d) else none, data := data,
    whole := n == 8, x := 0, y := 0 }

/-- Adds an entry to the hart's vector queue. -/
def Hart.pushV (cost : Nat) (dest : Option RegRef) (v : VWord) (op : Option Nat) (h : Hart) : Hart :=
  { h with vq := h.vq ++ [{ cost := cost, dest := dest, val := v, op := op }] }

/-- Issues a vector access (R256, R257): in flight, or, when every active element lies in the own-slice alias, performed at once
with a result that the unit's issue writes. -/
def vecIssue (a : Acc) (cost : Nat) (s : State) : Out :=
  if s.hart.vqFull then waitAt s
  else
    access a s fun s ps =>
      let load := a.dest.isSome
      if a.allAlias then
        releaseHere a s fun s =>
          match s.performAll a (partsOf a ps) a.data with
          | (s, .done v) =>
            let s := if a.acq && Scope.wide a.scope then s.dropL1 s.focus.tile else s
            .next (retire (s.mod (·.pushV cost a.dest v none)))
          | (s, .poison va) => .next (s.mod fun h => ((h.meetPoison a.dest va).pushV cost none 0 none).advance)
          | (s, .wait) => .next (retire (s.mod (·.pushV cost none 0 none)))
      else
        let id := s.nextId
        .next (retire ((s.send s.focus a ps).mod (·.pushV cost none 0 (if load then some id else none))))

/-- A vector full/empty access takes a place in the vector queue, at cost 1 (R154, R155, R256). -/
def feLine (kind : Nat) (reads writes : List RegRef) (w : Bool) (sc : Scope) (o : Ord) (r : Reg) (ea : Word) (data : VWord) (s : State) : Out :=
  feIssue kind reads writes w sc o r ea data s.hart.vqFull (fun id h => h.pushV 1 none 0 (if feIsLoad kind then some id else none)) s

/-- VLD.TAKE: the eight words of a line (R270). -/
def execVldTake (d a : Reg) (w : Bool) (sc : Scope) (o : Ord) (imm : BitVec 5) (s : State) : Out :=
  feLine 3 [gRef a] [vRef d] w sc o d (eaVector (s.hart.gr a) imm) 0 s

/-- VST.FILL: the eight words of a line (R270). Its data is read at issue (R256). -/
def execVstFill (d a : Reg) (w : Bool) (sc : Scope) (o : Ord) (imm : BitVec 5) (s : State) : Out :=
  feLine 4 [gRef a, vRef d] [] w sc o d (eaVector (s.hart.gr a) imm) (s.hart.vr d) s

/-- Distinct 64-byte lines that extents touch (R155). -/
def linesOf (exts : List Ext) : Nat := Nat.max 1 ((exts.map fun e => e.va.toNat / 64).eraseDups).length

def execVld (d a : Reg) (w : Bool) (k : KReg) (sc : Scope) (o : Ord) (esz : Size) (imm : BitVec 5) (s : State) : Out :=
  let h := s.hart
  let n := esz.bytes
  let ea := eaVector (h.gr a) imm
  withRegs ([gRef a] ++ maskRef k ++ maskedDest k d) [vRef d] w s
    (vecIssue (vecAcc true (vecExts h k n fun i => ea + BitVec.ofNat 64 (n * i)) n sc o.isAcq false d (h.vr d)) 1 s)

def execVst (d a : Reg) (w : Bool) (k : KReg) (sc : Scope) (o : Ord) (esz : Size) (imm : BitVec 5) (s : State) : Out :=
  let h := s.hart
  let n := esz.bytes
  let ea := eaVector (h.gr a) imm
  withRegs ([gRef a] ++ maskRef k ++ [vRef d]) [] w s
    (vecIssue (vecAcc false (vecExts h k n fun i => ea + BitVec.ofNat 64 (n * i)) n sc false o.isRel d (h.vr d)) 1 s)

/-- VLDS: a signed byte stride (R271). -/
def execVlds (d a b : Reg) (w : Bool) (k : KReg) (t : EType) (s : State) : Out :=
  let h := s.hart
  withRegs ([gRef a, gRef b] ++ maskRef k ++ maskedDest k d) [vRef d] w s
    (vecIssue (vecAcc true (vecExts h k t.bytes fun i => h.gr a + BitVec.ofNat 64 i * h.gr b) t.bytes .w false false d (h.vr d)) 1 s)

/-- The address of element i of VGATH and VSCAT (R271). -/
def gatherAddr (h : Hart) (t : EType) (a b : Reg) (i : Nat) : Word :=
  h.gr a + BitVec.ofNat 64 t.bytes * sext t.bits (elem (h.vr b) t.bytes i)

def execVgath (d a b : Reg) (w : Bool) (k : KReg) (t : EType) (s : State) : Out :=
  let h := s.hart
  let exts := vecExts h k t.bytes (gatherAddr h t a b)
  withRegs ([gRef a, vRef b] ++ maskRef k ++ maskedDest k d) [vRef d] w s
    (vecIssue (vecAcc true exts t.bytes .w false false d (h.vr d)) (linesOf exts) s)

/-- VSCAT: elements to the same bytes are written in ascending order (R271). -/
def execVscat (d a b : Reg) (w : Bool) (k : KReg) (t : EType) (s : State) : Out :=
  let h := s.hart
  let exts := vecExts h k t.bytes (gatherAddr h t a b)
  withRegs ([gRef a, vRef b] ++ maskRef k ++ [vRef d]) [] w s
    (vecIssue (vecAcc false exts t.bytes .w false false d (h.vr d)) (linesOf exts) s)

end Sys2Proof.Machine
end

