-- ==== Sys2Proof/Machine/Wafer.lean ====
section
/-!
DEFINITION. What happens to the part as a whole: host accesses (R396), the drover (R40-R44), the scrubber (R90), duty (R183), power
(R353, R408), the head factor's lease (R406), and the start (R404, R407).
-/

namespace Sys2Proof.Machine

/-! ## Host accesses (R396) -/

/-- A port reaches a page: through CXL.mem, or when the page is exported. (DEDUCED: log entry 44.) -/
def State.hostReaches (s : State) (port : BitVec 2) (dpa : Nat) : Bool :=
  s.cxlPorts.getLsbD port.toNat || ((s.dpitOf dpa).valid && (s.dpitOf dpa).exported)

/-- The words that n bytes from a DPA touch. -/
def dpaWords (dpa n : Nat) : List Home := if n = 0 then [] else wordsOf (.hbm dpa) n

/-- HOST_MEMORY_READ: a plain read; a POISON word, or a page that is not VALID, completes it poisoned (R37, R60, R396). (DEDUCED: log entry 44.) -/
def execHostMemoryRead (port : BitVec 2) (dpa : BitVec 42) (len : Nat) (s : State) : Out :=
  let ws := dpaWords dpa.toNat len
  .next (if !ws.all fun h => s.hostReaches port h.key then s
    else
      let s := ws.foldl (fun s h => if s.pageOk h then (s.track (fromPort port) h).detect h else s.logDpa h) s
      let bad := ws.any fun h => !s.pageOk h || s.tagOf h == .poison
      let v := if bad then none else some ((List.range len).map (s.loadByte (.hbm dpa.toNat)))
      { s with answers := s.answers ++ [.read port dpa.toNat v] })

/-- The bytes that a host write has for a word: a mask and the bytes as a number. -/
def wordOf (word dpa : Nat) (bs : List Byte) : Nat × Nat :=
  (List.range 8).foldl (fun (acc : Nat × Nat) i =>
    let a := word + i
    if dpa ≤ a ∧ a < dpa + bs.length then (acc.1 + 2 ^ i, acc.2 + (bs.getD (a - dpa) 0).toNat * 2 ^ (8 * i)) else acc) (0, 0)

/-- HOST_MEMORY_WRITE: whole words set FULL, the others are partial writes (R56, R57, R61, R396). -/
def execHostMemoryWrite (port : BitVec 2) (dpa : BitVec 42) (bytes : List Byte) (s : State) : Out :=
  let ws := dpaWords dpa.toNat bytes.length
  .next (if !ws.all fun h => s.hostReaches port h.key then s
    else
      let part := fun (h : Home) => wordOf h.key dpa.toNat bytes
      let whole := ws.filter fun h => (part h).1 == 255
      ws.foldl (fun s h =>
        if !s.pageOk h then s.logDpa h
        else
          let p := part h
          (((s.track (fromPort port) h).detectWrite h whole).act (if p.1 = 255 then .write else .partWrite) h p.1 p.2).1) s)

/-! ## The drover (R40-R44) -/

def Drover.en (d : Drover) : Bool := d.ctl.getLsbD 0
def Drover.limit (d : Drover) : Nat := bits d.ctl 12 13
def Drover.period (d : Drover) : Nat := 40000 * bits d.ctl 2 10

/-- A page that the drover may move to a stack: allocated, not pinned, not there already (R41). (DESIGN CHOICE: log entry 50.) -/
def State.movable (s : State) (m : Nat × Nat) : Bool :=
  let e := s.dpitOf (65536 * m.1)
  e.valid && !e.pin && decide (m.2 < 64) && e.stk != m.2

/-- Accesses to a page in a map of counts, from one quadrant or from all (R103). -/
def quadCount (counts : Map Nat Nat) (page : Nat) (q : BitVec 2) : Nat := findD (quadKey page q) counts 0
def pageCount (counts : Map Nat Nat) (page : Nat) : Nat := (List.range 4).foldl (fun n q => n + quadCount counts page (BitVec.ofNat 2 q)) 0

/-- The accesses of the period to a page come mostly, more than half, from the quadrant of a stack (R103; DEDUCED, log entry 50). -/
def Drover.mostly (d : Drover) (m : Nat × Nat) : Bool :=
  decide (pageCount d.counts m.1 < 2 * quadCount d.counts m.1 (BitVec.ofNat 2 (m.2 / 16)))

/-- DROVER_PERIOD_END: the pages chosen for migration to a stack of the quadrant that most of their accesses came from, each once and at
most LIMIT (R41, R103); which ones is the drover's policy. (DESIGN CHOICE: log entry 50.) -/
def execDroverPeriodEnd (moves : List (Nat × Nat)) (s : State) : Out :=
  .next (if !s.drover.en then s
    else
      let s := s.reach (s.drover.since + s.drover.period)
      let ok := moves.foldl (fun (acc : List (Nat × Nat)) m =>
        if s.movable m && s.drover.mostly m && !(acc.any fun x => x.1 == m.1) then acc ++ [m] else acc) []
      { s with drover := { s.drover with since := s.now, moved := [], used := 0, moves := ok.take s.drover.limit,
                                         counts := [], seen := s.drover.counts } })

/-- A page was accessed less than another in the period tracked. -/
def Drover.less (d : Drover) (p q : Nat) : Bool := decide (pageCount d.seen p < pageCount d.seen q)

/-- The copy of a page meets uncorrectable errors: every word of such a line is POISON in the copy (R43). -/
def State.copyErrors (page : Nat) (s : State) : State :=
  let lo := 65536 * page
  let bad := s.latentUE.filter fun k => decide (lo ≤ k) && decide (k < lo + 65536)
  let s := { s with latentUE := s.latentUE.filter fun k => !bad.contains k }
  ((bad.map fun k => k / 64).eraseDups).foldl (fun (s : State) l =>
    (s.poisonWords ((List.range 8).map fun i => Home.hbm (64 * l + 8 * i))).logHome 0x08 (.hbm (64 * l))) s

/-- A page takes a frame (R42). -/
def State.setFrame (page stk frame : Nat) (s : State) : State :=
  match find page s.dpit with
  | some e => { s with dpit := put page { e with stk := stk, frame := frame } s.dpit }
  | none => s

/-- PAGE_MIGRATION: while EN = 1 (R40) the page goes to a free frame of its new stack, or is exchanged with a page of that stack that was accessed less,
which counts twice (R41-R43). Data, tags and waiters do not change (R44). -/
def execPageMigration (page : Nat) (s : State) : Out :=
  .next (match s.drover.moves.find? fun m => s.drover.en && m.1 == page with
    | some m =>
      let d := s.drover
      let e := findD page s.dpit DpitEntry.reset
      let s := { s with drover := { d with moves := d.moves.filter fun x => x.1 != page } }
      if !s.movable m || d.moved.contains page then s
      else
        match s.freeFrame m.2 with
        | some n =>
          if d.used + 1 ≤ d.limit then
            let s := (s.copyErrors page).setFrame page m.2 n
            { s with drover := { s.drover with moved := page :: d.moved, used := d.used + 1 } }
          else s
        | none =>
          match s.dpit.find? fun q => s.movable (q.1, e.stk) && q.2.stk == m.2 && !d.moved.contains q.1 && d.less q.1 page with
          | some q =>
            if d.used + 2 ≤ d.limit then
              let s := (((s.copyErrors page).copyErrors q.1).setFrame page m.2 q.2.frame).setFrame q.1 e.stk e.frame
              { s with drover := { s.drover with moved := page :: q.1 :: d.moved, used := d.used + 2 } }
            else s
          | none => s
    | none => s)

/-! ## The scrubber (R90) -/

/-- The home of a key of stored bytes. -/
def homeAt (k : Nat) : Option Home :=
  if k < 2 ^ 42 then some (.hbm k)
  else if 2 ^ 62 ≤ k ∧ k < 2 ^ 63 then
    let o := k - 2 ^ 62
    if o < 2 ^ 58 then some (.slice { tab := BitVec.ofNat 16 (o / 2 ^ 42), vt := BitVec.ofNat 20 (o / 2 ^ 22) } (o % 2 ^ 22)) else none
  else none

/-- SCRUB_LINE: the line that holds a key is read; the words named prove uncorrectable, and they and every other uncorrectable
granule of the line become POISON, and no waiter is woken (R60, R90). A word with a correctable error keeps its value. -/
def execScrubLine (line : Nat) (bad : List Nat) (s : State) : Out :=
  .next (match homeAt (line / 64 * 64) with
    | some h =>
      let ws := (List.range 8).map fun i => h.plus (8 * i)
      let hit := bad.filterMap fun i => ws[i]?
      let s := hit.foldl (fun (s : State) w =>
        let k := (w.align (s.granuleOf w)).key
        if s.granuleOf w = 0 ∨ s.latentUE.contains k then s else { s with latentUE := k :: s.latentUE }) s
      ws.foldl (fun s w => s.detectScrub w) s
    | none => s)

/-! ## Duty and power (R183, R353, R408) -/

/-- Duties that a factor may set in a field for the tiles of gangs of PRIO 0 to 7: none below that of a lower PRIO (R354). -/
def dutiesOk : List Nat → Bool
  | a :: b :: ds => decide (1 ≤ a) && decide (a ≤ b) && dutiesOk (b :: ds)
  | [d] => decide (1 ≤ d) && decide (d ≤ 16)
  | [] => true

/-- DUTY_CHANGE: a field's factor sets D, 1 to 16, for the tiles of gangs of each PRIO (R183, R354). -/
def execDutyChange (field : Nat) (duties : List Nat) (s : State) : Out :=
  .next (if field < 64 ∧ duties.length = 8 ∧ dutiesOk duties then { s with duty := put field duties s.duty } else s)

/-- POWER_MODE_CHANGE: the mode written takes effect, and slices below the new minimum are raised to it (R353). -/
def execPowerModeChange (s : State) : Out :=
  .next (match s.power.next with
    | some m =>
      let p : Power := { mode := m, next := none }
      { s with power := p, ostler := { s.ostler with slice0 := ostSlices p.minSlice s.ostler.slice0,
                                                      slice1 := ostSlices p.minSlice s.ostler.slice1 } }
    | none => s)

/-! ## The lease (R406) -/

/-- LEASE_RENEW: the deciding head renews, unless it has gone 9 ms without. -/
def execLeaseRenew (s : State) : Out :=
  .next (if s.factors.decides s.now then { s with factors := { s.factors with renewed := s.now } } else s)

/-- LEASE_RENEWAL_TIMEOUT: 9 ms without a renewal: the holder stops every decision, and is live no more (DEDUCED, log entry 45). -/
def execLeaseRenewalTimeout (s : State) : Out :=
  let s := s.reach (s.factors.renewed + 36000000)
  .next { s with factors := { s.factors with deciding := false, live := s.factors.live.setIfInBounds s.factors.head false } }

/-- LEASE_LAPSE: at 10 ms the lowest-numbered live factor receives the lease and goes on from the last committed pass. -/
def execLeaseLapse (s : State) : Out :=
  .next (if s.factors.deciding then s
    else
      match (List.range 64).find? fun i => s.factors.live.getD i false with
      | some f =>
        let s := s.reach (s.factors.renewed + 40000000)
        { s with factors := { s.factors with head := f, deciding := true, renewed := s.now }, ostler := { s.ostler with due := true } }
      | none => s)

/-! ## The start (R404, R407) -/

/-- The four tiles of a cluster (R18). -/
def clusterTiles (c : Nat) : List Nat :=
  let p := c / 56 * 224 + c % 56 * 2
  [p, p + 1, p + 112, p + 113]

/-- The tiles that a defect map retires: those it names, and all four of a cluster whose engine it names (R3). -/
def retiredBy (d : DefectMap) : List Nat :=
  (d.tiles.filter (fun p => decide (p < 12544)) ++ (d.engines.filter fun c => decide (c < 3136)).flatMap clusterTiles).eraseDups

/-- A map that some bin admits: at least 11,264 of the 12,544 tiles are usable (R3). -/
def binOk (retired : List Nat) : Bool := decide (11264 + retired.length ≤ 12544)

/-- What a start leaves: the state of reset, with host memory as it was, and the numbers of steps and free values going on. One that ends
has the loft that it reserves, the tiles that its defect map retires and the ports that train as CXL (R395); no part has a map that no bin
admits (R3). A verification failure stops it before those steps, the stored map stays, and an image whose write was interrupted fails
(R404, R407). -/
def State.start (assayerOk factorOk : Bool) (retired : List Nat) (setup : Setup) (s : State) : State :=
  let r := State.reset
  let image := factorOk && s.factors.whole
  let kept : State :=
    { r with tick := s.tick, nextId := s.nextId, answers := s.answers, mem := { cells := s.mem.cells.filter fun p => 2 ^ 63 ≤ p.1, tags := [] },
             factors := { r.factors with image := s.factors.image, whole := s.factors.whole } }
  if assayerOk && image then
    if binOk retired then { kept with cxlPorts := setup.cxl, loftSize := Nat.min setup.loft 65536, retired := retired } else s
  else
    { kept with
      retired := s.retired
      factors := { kept.factors with started := false, deciding := false, failedAt := if assayerOk then 2 else 1, recovery := assayerOk } }

/-- COLD_START: every step (R404). (DESIGN CHOICE: log entry 4.) (DEDUCED: log entry 45.) -/
def execColdStart (assayerOk factorOk : Bool) (defects : DefectMap) (setup : Setup) (s : State) : Out :=
  .next (s.start assayerOk factorOk (retiredBy defects) setup)

/-- The recovery function has written an image: the part starts cold (R407). -/
def Factors.mustCold (f : Factors) : Bool := !f.started && f.failedAt == 2 && !f.recovery

/-- WARM_START: the stored defect map stands when its signature matches; HBM training has no effect that a program sees (R404). After a recovery
the start is a cold one all the same: it scans (R407). (DEDUCED: log entry 45.) -/
def execWarmStart (assayerOk factorOk _hbmNear mapOk : Bool) (defects : DefectMap) (setup : Setup) (s : State) : Out :=
  .next (s.start assayerOk factorOk (if mapOk && !s.factors.mustCold then s.retired else retiredBy defects) setup)

/-- RECOVERY_IMAGE: on port 0, while the factors are in reset: a verified image is written, wholly or with its write interrupted; the cold
start that follows is the next COLD_START, which scans for defects (R404, R407; DEDUCED, log entry 45). -/
def execRecoveryImage (port : BitVec 2) (verified complete : Bool) (s : State) : Out :=
  .next (if s.factors.started || !s.factors.recovery || port != 0 || !verified then s
    else { s with factors := { s.factors with image := s.factors.image + 1, whole := complete, recovery := false } })

end Sys2Proof.Machine
end

