-- ==== Sys2Proof/Machine/Dispatch.lean ====
section
/-!
DEFINITION. The dispatch: one arm for each constructor of Instr.
-/

namespace Sys2Proof.Machine

def exec (i : Instr) (s : State) : Host.Outcome State Fault Refusal :=
  match i with
  | .add d a b w => Sys2Proof.Machine.execAdd d a b w s
  | .sub d a b w => Sys2Proof.Machine.execSub d a b w s
  | .and d a b w => Sys2Proof.Machine.execAnd d a b w s
  | .or d a b w => Sys2Proof.Machine.execOr d a b w s
  | .xor d a b w => Sys2Proof.Machine.execXor d a b w s
  | .andn d a b w => Sys2Proof.Machine.execAndn d a b w s
  | .shl d a b w => Sys2Proof.Machine.execShl d a b w s
  | .shr d a b w => Sys2Proof.Machine.execShr d a b w s
  | .sar d a b w => Sys2Proof.Machine.execSar d a b w s
  | .mul d a b w => Sys2Proof.Machine.execMul d a b w s
  | .mulhi d a b w => Sys2Proof.Machine.execMulhi d a b w s
  | .mulhis d a b w => Sys2Proof.Machine.execMulhis d a b w s
  | .div d a b w => Sys2Proof.Machine.execDiv d a b w s
  | .divs d a b w => Sys2Proof.Machine.execDivs d a b w s
  | .rem d a b w => Sys2Proof.Machine.execRem d a b w s
  | .rems d a b w => Sys2Proof.Machine.execRems d a b w s
  | .min d a b w => Sys2Proof.Machine.execMin d a b w s
  | .mins d a b w => Sys2Proof.Machine.execMins d a b w s
  | .max d a b w => Sys2Proof.Machine.execMax d a b w s
  | .maxs d a b w => Sys2Proof.Machine.execMaxs d a b w s
  | .cmpeq d a b w => Sys2Proof.Machine.execCmpeq d a b w s
  | .cmplt d a b w => Sys2Proof.Machine.execCmplt d a b w s
  | .cmplts d a b w => Sys2Proof.Machine.execCmplts d a b w s
  | .sel d a b w => Sys2Proof.Machine.execSel d a b w s
  | .clz d a w => Sys2Proof.Machine.execClz d a w s
  | .ctz d a w => Sys2Proof.Machine.execCtz d a w s
  | .popc d a w => Sys2Proof.Machine.execPopc d a w s
  | .bswap d a w => Sys2Proof.Machine.execBswap d a w s
  | .addi d a w imm => Sys2Proof.Machine.execAddi d a w imm s
  | .andi d a w imm => Sys2Proof.Machine.execAndi d a w imm s
  | .ori d a w imm => Sys2Proof.Machine.execOri d a w imm s
  | .xori d a w imm => Sys2Proof.Machine.execXori d a w imm s
  | .shli d a w amt => Sys2Proof.Machine.execShli d a w amt s
  | .shri d a w amt => Sys2Proof.Machine.execShri d a w amt s
  | .sari d a w amt => Sys2Proof.Machine.execSari d a w amt s
  | .cmplti d a w imm => Sys2Proof.Machine.execCmplti d a w imm s
  | .lih d imm => Sys2Proof.Machine.execLih d imm s
  | .addpc d imm => Sys2Proof.Machine.execAddpc d imm s
  | .ext d a w pos len1 => Sys2Proof.Machine.execExt d a w pos len1 s
  | .ins d a w pos len1 => Sys2Proof.Machine.execIns d a w pos len1 s
  | .beq a b w off => Sys2Proof.Machine.execBeq a b w off s
  | .bne a b w off => Sys2Proof.Machine.execBne a b w off s
  | .blt a b w off => Sys2Proof.Machine.execBlt a b w off s
  | .bge a b w off => Sys2Proof.Machine.execBge a b w off s
  | .blts a b w off => Sys2Proof.Machine.execBlts a b w off s
  | .bges a b w off => Sys2Proof.Machine.execBges a b w off s
  | .jmp off => Sys2Proof.Machine.execJmp off s
  | .call off => Sys2Proof.Machine.execCall off s
  | .jr a w => Sys2Proof.Machine.execJr a w s
  | .callr a w => Sys2Proof.Machine.execCallr a w s
  | .ret => Sys2Proof.Machine.execRet s
  | .ld d a w sz sc o imm => Sys2Proof.Machine.execLd d a w sz sc o imm s
  | .lds d a w sz sc o imm => Sys2Proof.Machine.execLds d a w sz sc o imm s
  | .st d a w sz sc o imm => Sys2Proof.Machine.execSt d a w sz sc o imm s
  | .ldWait d a w sc o imm => Sys2Proof.Machine.execLdWait d a w sc o imm s
  | .ldTake d a w sc o imm => Sys2Proof.Machine.execLdTake d a w sc o imm s
  | .stFill d a w sc o imm => Sys2Proof.Machine.execStFill d a w sc o imm s
  | .stEmpty d a w sc o imm => Sys2Proof.Machine.execStEmpty d a w sc o imm s
  | .tagGet d a w imm => Sys2Proof.Machine.execTagGet d a w imm s
  | .tagSet d a w imm => Sys2Proof.Machine.execTagSet d a w imm s
  | .park => Sys2Proof.Machine.execPark s
  | .pref a w imm => Sys2Proof.Machine.execPref a w imm s
  | .amoAdd d a b w dbl sc o => Sys2Proof.Machine.execAmoAdd d a b w dbl sc o s
  | .amoFadd d a b w dbl sc o => Sys2Proof.Machine.execAmoFadd d a b w dbl sc o s
  | .amoAnd d a b w dbl sc o => Sys2Proof.Machine.execAmoAnd d a b w dbl sc o s
  | .amoOr d a b w dbl sc o => Sys2Proof.Machine.execAmoOr d a b w dbl sc o s
  | .amoXor d a b w dbl sc o => Sys2Proof.Machine.execAmoXor d a b w dbl sc o s
  | .amoMin d a b w dbl sc o => Sys2Proof.Machine.execAmoMin d a b w dbl sc o s
  | .amoMins d a b w dbl sc o => Sys2Proof.Machine.execAmoMins d a b w dbl sc o s
  | .amoMax d a b w dbl sc o => Sys2Proof.Machine.execAmoMax d a b w dbl sc o s
  | .amoMaxs d a b w dbl sc o => Sys2Proof.Machine.execAmoMaxs d a b w dbl sc o s
  | .amoFmax d a b w dbl sc o => Sys2Proof.Machine.execAmoFmax d a b w dbl sc o s
  | .amoSwap d a b w dbl sc o => Sys2Proof.Machine.execAmoSwap d a b w dbl sc o s
  | .amoCas d a b w dbl sc o => Sys2Proof.Machine.execAmoCas d a b w dbl sc o s
  | .ship d a b w n sc o => Sys2Proof.Machine.execShip d a b w n sc o s
  | .fence kind sc => Sys2Proof.Machine.execFence kind sc s
  | .vadd d a b w k t => Sys2Proof.Machine.execVadd d a b w k t s
  | .vsub d a b w k t => Sys2Proof.Machine.execVsub d a b w k t s
  | .vmul d a b w k t => Sys2Proof.Machine.execVmul d a b w k t s
  | .vmin d a b w k t => Sys2Proof.Machine.execVmin d a b w k t s
  | .vmax d a b w k t => Sys2Proof.Machine.execVmax d a b w k t s
  | .vabs d a w k t => Sys2Proof.Machine.execVabs d a w k t s
  | .vneg d a w k t => Sys2Proof.Machine.execVneg d a w k t s
  | .vfma d a b w k t => Sys2Proof.Machine.execVfma d a b w k t s
  | .vand d a b w k t => Sys2Proof.Machine.execVand d a b w k t s
  | .vor d a b w k t => Sys2Proof.Machine.execVor d a b w k t s
  | .vxor d a b w k t => Sys2Proof.Machine.execVxor d a b w k t s
  | .vshl d a b w k t => Sys2Proof.Machine.execVshl d a b w k t s
  | .vshr d a b w k t => Sys2Proof.Machine.execVshr d a b w k t s
  | .vsar d a b w k t => Sys2Proof.Machine.execVsar d a b w k t s
  | .vcmp d a b w k t cond => Sys2Proof.Machine.execVcmp d a b w k t cond s
  | .vsel d a b w k t => Sys2Proof.Machine.execVsel d a b w k t s
  | .vbcast d a w k t => Sys2Proof.Machine.execVbcast d a w k t s
  | .vmovg d a b w t => Sys2Proof.Machine.execVmovg d a b w t s
  | .vperm d a b w k t => Sys2Proof.Machine.execVperm d a b w k t s
  | .vcvt d a fmt w k t sat => Sys2Proof.Machine.execVcvt d a fmt w k t sat s
  | .vred d a w k t op => Sys2Proof.Machine.execVred d a w k t op s
  | .vexp2 d a w k t => Sys2Proof.Machine.execVexp2 d a w k t s
  | .vrcp d a w k t => Sys2Proof.Machine.execVrcp d a w k t s
  | .vrsq d a w k t => Sys2Proof.Machine.execVrsq d a w k t s
  | .vsig d a w k t => Sys2Proof.Machine.execVsig d a w k t s
  | .vrand d a b w => Sys2Proof.Machine.execVrand d a b w s
  | .kopAnd d a b => Sys2Proof.Machine.execKopAnd d a b s
  | .kopOr d a b => Sys2Proof.Machine.execKopOr d a b s
  | .kopXor d a b => Sys2Proof.Machine.execKopXor d a b s
  | .kopAndn d a b => Sys2Proof.Machine.execKopAndn d a b s
  | .kopNot d a => Sys2Proof.Machine.execKopNot d a s
  | .kopFromg d a => Sys2Proof.Machine.execKopFromg d a s
  | .kopTog d a => Sys2Proof.Machine.execKopTog d a s
  | .vld d a w k sc o esz imm => Sys2Proof.Machine.execVld d a w k sc o esz imm s
  | .vst d a w k sc o esz imm => Sys2Proof.Machine.execVst d a w k sc o esz imm s
  | .vldTake d a w sc o imm => Sys2Proof.Machine.execVldTake d a w sc o imm s
  | .vstFill d a w sc o imm => Sys2Proof.Machine.execVstFill d a w sc o imm s
  | .vlds d a b w k t => Sys2Proof.Machine.execVlds d a b w k t s
  | .vgath d a b w k t => Sys2Proof.Machine.execVgath d a b w k t s
  | .vscat d a b w k t => Sys2Proof.Machine.execVscat d a b w k t s
  | .msgSend a b w o sc => Sys2Proof.Machine.execMsgSend a b w o sc s
  | .msgRecv d b o sc => Sys2Proof.Machine.execMsgRecv d b o sc s
  | .msgPoll d => Sys2Proof.Machine.execMsgPoll d s
  | .msgCnt d => Sys2Proof.Machine.execMsgCnt d s
  | .barCfg a w grp => Sys2Proof.Machine.execBarCfg a w grp s
  | .barArr grp => Sys2Proof.Machine.execBarArr grp s
  | .barWait grp => Sys2Proof.Machine.execBarWait grp s
  | .barTest d grp => Sys2Proof.Machine.execBarTest d grp s
  | .barSs grp => Sys2Proof.Machine.execBarSs grp s
  | .cpCopy d a b w c mode sc => Sys2Proof.Machine.execCpCopy d a b w c mode sc s
  | .cpCopy2 d a b w c mode sc => Sys2Proof.Machine.execCpCopy2 d a b w c mode sc s
  | .cpFillv d a b w c mode sc => Sys2Proof.Machine.execCpFillv d a b w c mode sc s
  | .cpVerify d a b w c sc => Sys2Proof.Machine.execCpVerify d a b w c sc s
  | .cpWait sc => Sys2Proof.Machine.execCpWait sc s
  | .mxCtx a w => Sys2Proof.Machine.execMxCtx a w s
  | .mxSyncBlocking sc => Sys2Proof.Machine.execMxSyncBlocking sc s
  | .mxSyncWord sc w c => Sys2Proof.Machine.execMxSyncWord sc w c s
  | .mxOwn d n => Sys2Proof.Machine.execMxOwn d n s
  | .mxFree n => Sys2Proof.Machine.execMxFree n s
  | .mxPin n => Sys2Proof.Machine.execMxPin n s
  | .mxUnpin n => Sys2Proof.Machine.execMxUnpin n s
  | .mxBld d a b w => Sys2Proof.Machine.execMxBld d a b w s
  | .mxZero n => Sys2Proof.Machine.execMxZero n s
  | .mxMac d a b w n z => Sys2Proof.Machine.execMxMac d a b w n z s
  | .mxMact d a b w n z => Sys2Proof.Machine.execMxMact d a b w n z s
  | .mxRd d a w n hi => Sys2Proof.Machine.execMxRd d a w n hi s
  | .mxWr a b w n add => Sys2Proof.Machine.execMxWr a b w n add s
  | .mxDelta d a b w n bf r => Sys2Proof.Machine.execMxDelta d a b w n bf r s
  | .mxQry d a b w n bf => Sys2Proof.Machine.execMxQry d a b w n bf s
  | .mxSpill d a b w n => Sys2Proof.Machine.execMxSpill d a b w n s
  | .mxLoad d a b w n => Sys2Proof.Machine.execMxLoad d a b w n s
  | .trap code => Sys2Proof.Machine.execTrap code s
  | .tret => Sys2Proof.Machine.execTret s
  | .esc => Sys2Proof.Machine.execEsc s
  | .syr d sy => Sys2Proof.Machine.execSyr d sy s
  | .syw a w sy => Sys2Proof.Machine.execSyw a w sy s
  | .yield => Sys2Proof.Machine.execYield s
  | .wfe a w => Sys2Proof.Machine.execWfe a w s
  | .halt => Sys2Proof.Machine.execHalt s
  | .tlbInv a w => Sys2Proof.Machine.execTlbInv a w s
  | .icInv a w => Sys2Proof.Machine.execIcInv a w s
  | .dcWb a w => Sys2Proof.Machine.execDcWb a w s
  | .dcInv a w => Sys2Proof.Machine.execDcInv a w s
  | .brk code => Sys2Proof.Machine.execBrk code s
  | .rpt n1 count sd sa sb => Sys2Proof.Machine.execRpt n1 count sd sa sb s
  | .tlbInvRemote op => Sys2Proof.Machine.execTlbInvRemote op s
  | .vectorIssue t => Sys2Proof.Machine.execVectorIssue t s
  | .step h => Sys2Proof.Machine.execStep h s
  | .emptyWait h => Sys2Proof.Machine.execEmptyWait h s
  | .msgLimit h => Sys2Proof.Machine.execMsgLimit h s
  | .interrupt h => Sys2Proof.Machine.execInterrupt h s
  | .wfeTimeout h => Sys2Proof.Machine.execWfeTimeout h s
  | .asyncRegisterWrite op => Sys2Proof.Machine.execAsyncRegisterWrite op s
  | .sliceBankAccess op part => Sys2Proof.Machine.execSliceBankAccess op part s
  | .chandlerAccess op part => Sys2Proof.Machine.execChandlerAccess op part s
  | .hostPortAccess op part => Sys2Proof.Machine.execHostPortAccess op part s
  | .homeRetryAttempt op => Sys2Proof.Machine.execHomeRetryAttempt op s
  | .storeAck op => Sys2Proof.Machine.execStoreAck op s
  | .writeBufferDrain t => Sys2Proof.Machine.execWriteBufferDrain t s
  | .l1LineFill op part => Sys2Proof.Machine.execL1LineFill op part s
  | .l1LineExpiry t line => Sys2Proof.Machine.execL1LineExpiry t line s
  | .sequentialPrefetch h => Sys2Proof.Machine.execSequentialPrefetch h s
  | .pageWalkRead t walk => Sys2Proof.Machine.execPageWalkRead t walk s
  | .tileMapRead t vt => Sys2Proof.Machine.execTileMapRead t vt s
  | .tileMapReread t vt => Sys2Proof.Machine.execTileMapReread t vt s
  | .staleReply op part => Sys2Proof.Machine.execStaleReply op part s
  | .dpitAnchorLookup op part => Sys2Proof.Machine.execDpitAnchorLookup op part s
  | .reroute op part => Sys2Proof.Machine.execReroute op part s
  | .parkLink op => Sys2Proof.Machine.execParkLink op s
  | .wake op => Sys2Proof.Machine.execWake op s
  | .wakeDelivery op => Sys2Proof.Machine.execWakeDelivery op s
  | .wokenReattempt h => Sys2Proof.Machine.execWokenReattempt h s
  | .fillWaitRetry h => Sys2Proof.Machine.execFillWaitRetry h s
  | .messageArrival op => Sys2Proof.Machine.execMessageArrival op s
  | .backlogAppend op => Sys2Proof.Machine.execBacklogAppend op s
  | .messageAck op => Sys2Proof.Machine.execMessageAck op s
  | .backlogMove t => Sys2Proof.Machine.execBacklogMove t s
  | .phasePass tab grp => Sys2Proof.Machine.execPhasePass tab grp s
  | .extendedArrival h grp => Sys2Proof.Machine.execExtendedArrival h grp s
  | .extendedRelease h grp => Sys2Proof.Machine.execExtendedRelease h grp s
  | .copyCommandStart t => Sys2Proof.Machine.execCopyCommandStart t s
  | .copyLine op => Sys2Proof.Machine.execCopyLine op s
  | .mxCommandStart cluster lane => Sys2Proof.Machine.execMxCommandStart cluster lane s
  | .mxMacGroup op => Sys2Proof.Machine.execMxMacGroup op s
  | .mxDeltaToken op => Sys2Proof.Machine.execMxDeltaToken op s
  | .mxQryQuery op => Sys2Proof.Machine.execMxQryQuery op s
  | .mxBldColumn op => Sys2Proof.Machine.execMxBldColumn op s
  | .mxSpillUnit op => Sys2Proof.Machine.execMxSpillUnit op s
  | .mxLoadCommit op => Sys2Proof.Machine.execMxLoadCommit op s
  | .slotZeroDone cluster slot => Sys2Proof.Machine.execSlotZeroDone cluster slot s
  | .mxSyncFill op => Sys2Proof.Machine.execMxSyncFill op s
  | .ostlerPass => Sys2Proof.Machine.execOstlerPass s
  | .passTimer => Sys2Proof.Machine.execPassTimer s
  | .sliceExpiry gg => Sys2Proof.Machine.execSliceExpiry gg s
  | .loftSlotClear t => Sys2Proof.Machine.execLoftSlotClear t s
  | .preemptRequest gg => Sys2Proof.Machine.execPreemptRequest gg s
  | .forcedStop gg => Sys2Proof.Machine.execForcedStop gg s
  | .swapOut gg perform => Sys2Proof.Machine.execSwapOut gg perform s
  | .loftWriteback gg => Sys2Proof.Machine.execLoftWriteback gg s
  | .granuleWriteback t name => Sys2Proof.Machine.execGranuleWriteback t name s
  | .swapIn gg => Sys2Proof.Machine.execSwapIn gg s
  | .granuleRestore t name => Sys2Proof.Machine.execGranuleRestore t name s
  | .launchEntryRead q => Sys2Proof.Machine.execLaunchEntryRead q s
  | .headerFetch q => Sys2Proof.Machine.execHeaderFetch q s
  | .launchDispatch q => Sys2Proof.Machine.execLaunchDispatch q s
  | .launchDone q launch => Sys2Proof.Machine.execLaunchDone q launch s
  | .gateRead q => Sys2Proof.Machine.execGateRead q s
  | .frontEndWake q => Sys2Proof.Machine.execFrontEndWake q s
  | .qtailWrite q half x => Sys2Proof.Machine.execQtailWrite q half x s
  | .qstatWrite q half x => Sys2Proof.Machine.execQstatWrite q half x s
  | .qcancelWrite q half x => Sys2Proof.Machine.execQcancelWrite q half x s
  | .tblKill tab => Sys2Proof.Machine.execTblKill tab s
  | .powerModeChange => Sys2Proof.Machine.execPowerModeChange s
  | .migrateFreeze q => Sys2Proof.Machine.execMigrateFreeze q s
  | .fwCallStatus c => Sys2Proof.Machine.execFwCallStatus c s
  | .pageMigration page => Sys2Proof.Machine.execPageMigration page s
  | .peerPieceResend op plane => Sys2Proof.Machine.execPeerPieceResend op plane s
  | .leaseRenew => Sys2Proof.Machine.execLeaseRenew s
  | .leaseLapse => Sys2Proof.Machine.execLeaseLapse s
  | .unallocatedEncoding reason => Sys2Proof.Machine.execUnallocatedEncoding reason s
  | .instructionFetchFault cause reason va => Sys2Proof.Machine.execInstructionFetchFault cause reason va s
  | .migrateDeadline q => Sys2Proof.Machine.execMigrateDeadline q s
  | .leaseRenewalTimeout => Sys2Proof.Machine.execLeaseRenewalTimeout s
  | .memAlloc c count => Sys2Proof.Machine.execMemAlloc c count s
  | .memFree c page count => Sys2Proof.Machine.execMemFree c page count s
  | .memPin c page count pin exported => Sys2Proof.Machine.execMemPin c page count pin exported s
  | .routineLoad c addr => Sys2Proof.Machine.execRoutineLoad c addr s
  | .keyLoad c tab entry session wrapped => Sys2Proof.Machine.execKeyLoad c tab entry session wrapped s
  | .errRing c base count vector => Sys2Proof.Machine.execErrRing c base count vector s
  | .xlateReg c tab digest header => Sys2Proof.Machine.execXlateReg c tab digest header s
  | .peerSet c tab index port partner => Sys2Proof.Machine.execPeerSet c tab index port partner s
  | .tblCreate c args => Sys2Proof.Machine.execTblCreate c args s
  | .queueAssign c q port vf => Sys2Proof.Machine.execQueueAssign c q port vf s
  | .queueGate c q va => Sys2Proof.Machine.execQueueGate c q va s
  | .migrate c src dst wafer newGate deadline => Sys2Proof.Machine.execMigrate c src dst wafer newGate deadline s
  | .storeRead c args => Sys2Proof.Machine.execStoreRead c args s
  | .storeWrite c args => Sys2Proof.Machine.execStoreWrite c args s
  | .storeTransferDone c data badLba => Sys2Proof.Machine.execStoreTransferDone c data badLba s
  | .postIrq c tab vt hart source => Sys2Proof.Machine.execPostIrq c tab vt hart source s
  | .hostMemoryRead port dpa len => Sys2Proof.Machine.execHostMemoryRead port dpa len s
  | .hostMemoryWrite port dpa bytes => Sys2Proof.Machine.execHostMemoryWrite port dpa bytes s
  | .droverPeriodEnd moves => Sys2Proof.Machine.execDroverPeriodEnd moves s
  | .scrubLine line bad => Sys2Proof.Machine.execScrubLine line bad s
  | .dutyChange field duties => Sys2Proof.Machine.execDutyChange field duties s
  | .coldStart assayerOk factorOk defects setup => Sys2Proof.Machine.execColdStart assayerOk factorOk defects setup s
  | .warmStart assayerOk factorOk hbmNear mapOk defects setup => Sys2Proof.Machine.execWarmStart assayerOk factorOk hbmNear mapOk defects setup s
  | .recoveryImage port verified complete => Sys2Proof.Machine.execRecoveryImage port verified complete s
  | .shareShrink tab share => Sys2Proof.Machine.execShareShrink tab share s
  | .translationDeclined tab digest => Sys2Proof.Machine.execTranslationDeclined tab digest s
  | .tdispRequest port vf lock => Sys2Proof.Machine.execTdispRequest port vf lock s
  | .spdmRequest port index => Sys2Proof.Machine.execSpdmRequest port index s
  | .tilemapEntryRewrite t => Sys2Proof.Machine.execTilemapEntryRewrite t s
  | .pwrModeWrite half x => Sys2Proof.Machine.execPwrModeWrite half x s
  | .machineCheck h => Sys2Proof.Machine.execMachineCheck h s
  | .hardwarePrefetch h va => Sys2Proof.Machine.execHardwarePrefetch h va s
  | .deviceRegisterWrite c off half x => Sys2Proof.Machine.execDeviceRegisterWrite c off half x s
  | .qcfgWrite q reg half x => Sys2Proof.Machine.execQcfgWrite q reg half x s

end Sys2Proof.Machine
end

