-- ==== Sys2Proof/Machine/Schedule.lean ====
section
/-!
DEFINITION. Which step of the part comes while a hart waits (DESIGN CHOICE, log entry 1), and what every step does to the clock, the step
number, the error ring (R381, R399) and the focus.
-/

namespace Sys2Proof.Machine

/-! ## The error ring -/

/-- A record's eight words (R381). -/
def ErrRec.words (e : ErrRec) : List Word :=
  [atBits 32 32 e.count ||| atBits 16 1 (b2n e.fatal) ||| atBits 8 8 e.source ||| atBits 0 8 e.kind, Config.time e.time,
   atBits 36 2 e.hart.toNat ||| atBits 16 20 e.vt.toNat ||| atBits 0 16 e.tab.toNat, e.va, atBits 0 42 e.dpa, e.detail, 0, 0]

/-- Writes a record's words, where the ring can be written. -/
def State.ringWords (r : ErrRing) : List Word → Word → State → State
  | [], _, s => s
  | w :: ws, va, s =>
    let s := match s.callHome r.caller needW r.host va with
      | (s, some h) => if h.isHost then s.writeWord h w else s.putWord h w.toNat
      | (s, none) => s
    State.ringWords r ws (va + 8) s

/-- Firmware appends the records of a step to the ring, and writes again those that it merged; an appended one sends the ring's
MSI-X vector (R381, R399). (DEDUCED: log entry 47.) -/
def State.ring (old : List ErrRec) (s : State) : State :=
  match s.errRing with
  | none => s
  | some r =>
    if s.errors = old then s
    else
      s.errors.zipIdx.foldl (fun s p =>
        if p.2 < r.first ∨ old[p.2]? = some p.1 then s
        else
          let s := s.ringWords r p.1.words (r.base + BitVec.ofNat 64 (64 * ((p.2 - r.first) % r.count)))
          if old[p.2]?.isNone then { s with answers := s.answers ++ [.msix r.vector] } else s) s

/-! ## The end of a step -/

/-- The head factor renews its lease every 2 ms while it is live (R406; DEDUCED, log entry 45). -/
def Factors.renewals (now : Nat) (f : Factors) : Factors :=
  if f.deciding && f.live.getD f.head false then { f with renewed := f.renewed + (now - f.renewed) / 8000000 * 8000000 } else f

/-- The clock and the step number go on (DESIGN CHOICE, log entry 5), and with the clock the renewals of the lease. -/
def State.pass (s : State) : State :=
  let now := s.now + Config.stepCycles s.tick
  { s with tick := s.tick + 1, now := now, factors := s.factors.renewals now }

/-- Ends a step that began with these error records: the attempts to freeze migrating queues, the error ring, and the clock. -/
def finish (old : List ErrRec) (o : Out) : Out :=
  match o with
  | .next s => .next (s.freezes.ring old).pass
  | o => o

/-- The next hart comes into focus. -/
def State.rotate (s : State) : State :=
  match s.turns with
  | h :: rest => { s with focus := h, turns := rest ++ [h] }
  | [] => s

/-- Ends a hart's turn. -/
def turned (o : Out) : Out :=
  match o with
  | .next s => .next s.rotate
  | o => o

/-! ## The steps of the part that can be made now (DESIGN CHOICE, log entry 1) -/

/-- Reports of FRESH entries that the ostler has not finished with (R23). -/
def State.reports (s : State) : Nat := (s.tiles.filter fun p => p.2.slotClearing).length

/-- A step that changes a part of the state, or reports a FRESH entry. -/
def changes {α : Type} [DecidableEq α] (s : State) (f : State → α) (o : Out) : Bool :=
  match o with
  | .next t => decide (f t ≠ f s) || t.reports != s.reports
  | _ => false

/-- The next step of a piece of an access. -/
def State.pieceStep (s : State) (o : MemOp) (p : Part) (i : Nat) : Option Instr :=
  if !s.ready o p || !o.inTurn i then none
  else
    match p.home, p.route with
    | .slice _ _, .sent _ => some (.sliceBankAccess o.id i)
    | .slice _ _, .loft => some (.chandlerAccess o.id i)
    | .slice _ _, .stale => some (.staleReply o.id i)
    | .slice t _, .mapRead => if (s.mapEntry t).bad then none else some (.tileMapRead o.hart.tile t.vt)
    | .slice t _, .held => if !(s.mapEntry t).bad && routeOf (s.mapEntry t) != .held then some (.tileMapReread o.hart.tile t.vt) else none
    | .hbm _, .stack _ _ => some (.chandlerAccess o.id i)
    | .hbm _, .anchor => some (.dpitAnchorLookup o.id i)
    | .hbm _, .reroute => some (.reroute o.id i)
    | .host _ _, .port => some (.hostPortAccess o.id i)
    | h, .l1 => if s.lineBuffered o.hart.tile none o.id (h.align 64) then none else some (.l1LineFill o.id i)
    | _, _ => none

/-- The vector unit of a tile can issue: its context stands on the tile, or is on the way there. -/
def State.vectorRuns (s : State) (t : TileId) : Bool := (s.mapEntry t).st != .absent && (s.mapEntry t).st != .settling

/-- The next step of an in-flight access. A load that is over while its tile is away waits in its vector queue for the swap-in. -/
def State.opStep (s : State) (o : MemOp) : Option Instr :=
  if o.over then
    if o.isPref || o.kind == .flush then some (.asyncRegisterWrite o.id)
    else if o.kind.storeLike then some (.storeAck o.id)
    else if o.isRefill then none
    else if (s.hartOf o.hart).vq.any (fun q => q.op == some o.id) then
      (if s.vectorRuns o.hart.tile then some (.vectorIssue o.hart.tile) else none)
    else some (.asyncRegisterWrite o.id)
  else o.parts.zipIdx.findSome? fun p => s.pieceStep o p.1 p.2

/-- The next step of a tile: walks, map reads, the buffer, the backlog, the vector unit, and a loft slot being cleared. -/
def State.tileStep (s : State) (t : TileId) (x : Tile) : Option Instr :=
  match x.active, x.mapWants.find? fun v => !(s.mapEntry { tab := t.tab, vt := v }).bad with
  | w :: _, _ => some (.pageWalkRead t w.id)
  | [], some v => some (.tileMapRead t v)
  | [], none =>
    if s.mayDrain t then some (.writeBufferDrain t)
    else if x.backlog != [] && s.resident t && decide (x.inbox.length < 64) then some (.backlogMove t)
    else if x.slotClearing && x.entry.lslot.isSome then some (.loftSlotClear t)
    else if t.harts.any (fun h => (s.hartOf h).vq != []) && s.vectorRuns t then some (.vectorIssue t)
    else if changes s (fun s => t.harts.map fun h => ((s.hartOf h).cps.map (·.started))) (execCopyCommandStart t s) then some (.copyCommandStart t)
    else none

/-- The next step of the park table and of its wakes. -/
def State.parkStep (s : State) : Option Instr :=
  match s.parkReqs, s.wakes with
  | (id, .link _) :: _, _ => some (.parkLink id)
  | (id, _) :: _, _ => some (.wake id)
  | [], m :: _ => if m.hart.isSome then some (.wakeDelivery m.id) else some (.frontEndWake m.queue)
  | [], [] =>
    (s.harts.find? fun p => p.2.run == .parked && p.2.feLinked && p.2.feWoken &&
      changes s (fun s => (s.hartOf p.1).sy.ferec) (execWokenReattempt p.1 s)).map fun p => .wokenReattempt p.1

/-- The next step of a message. -/
def State.msgStep (s : State) : Option Instr :=
  s.msgs.findSome? fun m => match m.route with
    | .sent gen =>
      let e := s.mapEntry m.dst
      if s.first m && (!e.bad || (e.st == .resident && e.gen == gen)) then some (.messageArrival m.id) else none
    | .mapRead => if (s.mapEntry m.dst).bad then none else some (.messageArrival m.id)
    | .append => if s.first m then some (.backlogAppend m.id) else none
    | .placed => some (.messageAck m.id)
    | .refused => none

/-- The next step of the barriers. -/
def State.barStep (s : State) : Option Instr :=
  match s.tabs.findSome? fun t => (t.2.state.find? fun g => g.2.plane.isSome && s.phaseDone t.1 g.1).map fun g => (t.1, g.1) with
  | some (t, g) => some (.phasePass t g)
  | none =>
    s.harts.findSome? fun h => h.2.bars.findSome? fun b =>
      if !b.2.sent then some (Instr.extendedArrival h.1 b.1)
      else if b.2.member && s.resident h.1.tile && (s.group h.1.tile.tab b.1).plane.isNone &&
          b.2.seen != (s.group h.1.tile.tab b.1).phase - 1 then some (Instr.extendedRelease h.1 b.1)
      else none

/-- The step of a matrix command that has started. -/
def mxStep (c : MxCmd) : Option Instr :=
  match c.kind with
  | .mac _ _ => some (.mxMacGroup c.id)
  | .delta _ _ => some (.mxDeltaToken c.id)
  | .qry _ => some (.mxQryQuery c.id)
  | .bld => some (.mxBldColumn c.id)
  | .spill => some (.mxSpillUnit c.id)
  | .load => some (.mxLoadCommit c.id)
  | _ => none

/-- What that step does. -/
def mxEffect (c : MxCmd) (s : State) : Out :=
  match c.kind with
  | .mac _ _ => execMxMacGroup c.id s
  | .delta _ _ => execMxDeltaToken c.id s
  | .qry _ => execMxQryQuery c.id s
  | .bld => execMxBldColumn c.id s
  | .spill => execMxSpillUnit c.id s
  | .load => execMxLoadCommit c.id s
  | _ => .next s

/-- The next step of the engines: copy lines, commands at work, slots being zeroed, lanes with a command to start, fills. -/
def State.engineStep (s : State) : Option Instr :=
  let cps := s.harts.flatMap fun p => p.2.cps.filter (·.started)
  let mxs := s.harts.flatMap fun p => p.2.mxq
  match cps.find? (fun c => changes s (fun s => (s.cp? c.id, s.ops.length)) (execCopyLine c.id s)) with
  | some c => some (.copyLine c.id)
  | none =>
    match mxs.find? (fun c => c.started && (mxStep c).isSome && changes s (fun s => s.mx? c.id) (mxEffect c s)) with
    | some c => mxStep c
    | none =>
      match s.clusters.findSome? fun p => ((List.range 8).find? fun i => (p.2.slots.getD i AccSlot.reset).zeroing).map fun i => (p.1, i) with
      | some (c, i) => some (.slotZeroDone c i)
      | none =>
        match s.harts.findSome? fun p => match p.2.mxq with
          | c :: _ => if c.lane.isNone && changes s (fun s => (s.mx? c.id, s.ops.length)) (execMxSyncFill c.id s) then some c.id else none
          | [] => none with
        | some id => some (.mxSyncFill id)
        | none =>
          let waiting := ((mxs.filter fun c => !c.started && c.lane.isSome).map fun c => (s.clusterAt c.hart.tile, c.lane.getD 3)).eraseDups
          (waiting.find? fun p => changes s (fun s => s.cluster p.1) (execMxCommandStart p.1 (BitVec.ofNat 2 p.2) s)).map fun p =>
            .mxCommandStart p.1 (BitVec.ofNat 2 p.2)

/-- The next step of the front end. -/
def State.frontStep (s : State) : Option Instr :=
  s.queues.findSome? fun p =>
    let q := p.1
    let same := fun (o : Out) => changes s (fun s => (s.queue q, s.errors.length)) o
    if same (execLaunchEntryRead q s) then some (Instr.launchEntryRead q)
    else if same (execHeaderFetch q s) then some (Instr.headerFetch q)
    else if same (execLaunchDispatch q s) then some (Instr.launchDispatch q)
    else
      match p.2.launches.find? fun l => same (execLaunchDone q l.id s) with
      | some l => some (Instr.launchDone q l.id)
      | none => if same (execMigrateFreeze q s) then some (Instr.migrateFreeze q) else none

/-- The next step of the ostler and of a gang on its way. -/
def State.gangStep (s : State) : Option Instr :=
  if s.ostler.due && s.factors.decides s.now then some .ostlerPass
  else
    (s.gangs.filter fun p => s.lives p.1.tab).findSome? fun p =>
      let g := p.1
      match p.2.sched with
      | .placing => if s.comesIn g then some (Instr.swapIn g) else if p.2.inShadow && p.2.st == .settlingOut then some (Instr.loftWriteback g) else none
      | .stopping =>
        if (s.gangHarts g).any fun h => !(s.hartOf h).preqPend then some (Instr.preemptRequest g)
        else if ((s.gangHarts g).all fun h => (s.hartOf h).run == .halted) && s.shadowRoom g then some (Instr.swapOut g true)
        else none
      | .saving => if s.shadowRoom g then some (Instr.swapOut g true) else none
      | _ => if p.2.inShadow && p.2.st == .settlingOut then some (Instr.loftWriteback g) else none

/-- The next movement of a granule (R375, R376). -/
def State.granuleStep (s : State) : Option Instr :=
  s.tiles.findSome? fun t => (s.granulesOf t.1).findSome? fun b =>
    if changes s (·.granules) (execGranuleWriteback t.1 b.1 s) then some (Instr.granuleWriteback t.1 b.1)
    else if changes s (·.granules) (execGranuleRestore t.1 b.1 s) then some (Instr.granuleRestore t.1 b.1)
    else none

/-- The next step of firmware and of the drover: a killed tableau whose engines have gone quiet is torn down (R100). -/
def State.wideStep (s : State) : Option Instr :=
  match s.tabs.find? fun p => !p.2.alive && s.enginesQuiet p.1 with
  | some p => some (.tblKill p.1)
  | none =>
  match s.calls.find? fun p => s.callBad p.1 || (p.2.busy && p.2.status.isSome && (match p.2.block with | some b => s.feOpen b | none => false)) with
  | some p => some (.fwCallStatus p.1)
  | none =>
    match if s.drover.en then s.drover.moves else [] with
    | m :: _ => some (.pageMigration m.1)
    | [] => if s.power.next.isSome then some .powerModeChange else none

/-- Steps that come at a time, with the time. -/
def State.timed (s : State) : List (Nat × Instr) :=
  let retries := s.ops.filterMap fun o => match o.parts with
    | p :: _ => match p.route with
      | .retry _ due => some (due, Instr.homeRetryAttempt o.id)
      | _ => none
    | [] => none
  let sleeps := s.harts.filterMap fun p => if p.2.run = .sleeping then p.2.wfeDue.map fun d => (d, Instr.wfeTimeout p.1) else none
  let fills := s.harts.filterMap fun p => if p.2.run = .parked then p.2.parkDue.map fun d => (d, Instr.fillWaitRetry p.1) else none
  let gates := s.queues.filterMap fun p => if p.2.en then p.2.gateWaits.map fun g => (g.1.due, Instr.gateRead p.1) else none
  let lines := s.tiles.flatMap fun p => p.2.l1.map fun l => (l.filled + 65536, Instr.l1LineExpiry p.1 l.line)
  let moves := s.queues.filterMap fun p => match p.2.migration with
    | some m => if p.2.still && changes s (fun s => (s.queue p.1).migration.isSome) (execMigrateDeadline p.1 s) then
        some (m.deadline, Instr.migrateDeadline p.1) else none
    | none => none
  let stops := s.gangs.filterMap fun p =>
    if p.2.sched = .stopping then
      ((s.gangHarts p.1).find? fun h => (s.hartOf h).preqPend && (s.hartOf h).run != .halted).map fun h => (s.deadline h, Instr.forcedStop p.1)
    else none
  let wait := s.gangs.any fun p => p.2.sched == .runnable
  let slices := if wait then s.gangs.filterMap fun p =>
    if p.2.sched = .running ∧ !p.2.expired ∧ s.comingIn (s.unitOf p.1) = false then some (s.sliceEnd p.1, Instr.sliceExpiry p.1) else none else []
  let passes := if wait || s.msgs.any fun m => m.route == .refused && m.src.isNone then [(s.ostler.lastPass + 4000, Instr.passTimer)] else []
  let lease := if s.factors.deciding || !s.factors.live.any id then [] else [(s.factors.renewed + 40000000, Instr.leaseLapse)]
  retries ++ sleeps ++ fills ++ gates ++ lines ++ moves ++ stops ++ slices ++ passes ++ lease

/-- The first of the steps that come at a time. -/
def State.timedStep (s : State) : Option Instr :=
  (s.timed.foldl (fun (b : Option (Nat × Instr)) e => match b with
    | some x => if e.1 < x.1 then some e else some x
    | none => some e) none).map (·.2)

/-- The step of the part that comes next: one that can be made now, in the order of this list, else the first timed one. -/
def State.pending (s : State) : Option Instr :=
  (s.ops.findSome? s.opStep).orElse fun _ =>
  (s.tiles.findSome? fun t => s.tileStep t.1 t.2).orElse fun _ =>
  s.parkStep.orElse fun _ =>
  s.msgStep.orElse fun _ =>
  ((s.invs.find? fun m => !m.acked).map fun m => .tlbInvRemote m.id).orElse fun _ =>
  s.barStep.orElse fun _ =>
  s.frontStep.orElse fun _ =>
  s.gangStep.orElse fun _ =>
  s.engineStep.orElse fun _ =>
  s.granuleStep.orElse fun _ =>
  s.wideStep.orElse fun _ =>
  s.timedStep

/-! ## Before the start has ended (R404, R407) -/

/-- The steps that a part whose start has stopped takes: another start, or an image through the recovery function. Its ports are enabled,
its queues can be enabled and its firmware calls are heard from step 7 of a start on (R404). -/
def Instr.starts : Instr → Bool
  | .coldStart .. | .warmStart .. | .recoveryImage .. => true
  | _ => false

/-- The part takes a step that the agenda names. -/
def State.heeds (s : State) (i : Instr) : Bool := s.factors.started || Instr.starts i

end Sys2Proof.Machine
end

