-- ==== Sys2Proof/Machine/Step.lean ====
section
/-!
DEFINITION. One step of the machine. The agenda says which step of the part comes next, an outside event or one of the part's
own; with an empty agenda the hart in focus has its turn (DESIGN CHOICE, log entry 1). `State.withFetchWord` places an instruction where that
turn fetches.
-/

namespace Sys2Proof.Machine

/-- Executes the instruction that the hart in focus fetched. -/
def execWord (w : IWord) (s : State) : Out :=
  match decode w with
  | .ok i => exec i s
  | .error e => exec (.unallocatedEncoding e.code) s

/-- Fetches and executes the next instruction of the hart in focus. -/
def runHart (s : State) : Out :=
  match s.nextWord s.focus with
  | (s, .word w) => execWord w s
  | (s, .wait) => waitAt s
  | (s, .fault t) =>
    exec (.instructionFetchFault (BitVec.ofNat 8 t.cause) (t.info.setWidth 8) (t.addr.getD 0)) s

/-- The turn of the hart in focus: what its boundary takes, or its next instruction, or, while it waits, a step of the part. -/
def turn (s : State) : Out :=
  match s.boundary s.focus with
  | some s' => .next s'
  | none =>
    match s.hart.run with
    | .running => (s.duty?).getD (runHart s)
    | .blocked =>
      match s.pending with
      | some e => exec e (s.mod fun h => { h with run := .running })
      | none => (s.duty?).getD (runHart s)
    | _ =>
      match s.pending with
      | some e => exec e s
      | none => .next s

/-- One step (log entries 1 and 5). -/
def step (s : State) : Host.Outcome State Fault Refusal :=
  match s.agenda with
  | e :: rest => finish s.errors (if s.heeds e then exec e { s with agenda := rest } else .next { s with agenda := rest })
  | [] => if s.factors.started then finish s.errors (turned (turn s)) else .fault .notStarted

/-- Where a placed instruction stands: the program counter, or the first page above it that code can stand in. (DESIGN CHOICE: log entry 10.) -/
def fetchPc (pc : Word) : Word := if pc.toNat < 2 ^ 42 ∧ pc.toNat % 4 = 0 then pc else 0x10000

/-- Places the instruction with bits w where the next step fetches: the hart in focus runs at its program counter with a
translation of that page to the DPA of the same number, whose page is VALID, and the bytes stand there. (DESIGN CHOICE: log entry 10.) -/
def State.withFetchWord (s : State) (_nbits w : Nat) : State :=
  let h := s.hart
  let pc := fetchPc h.pc
  let page := pc.toNat / 65536
  let entry : TlbEntry :=
    { root := h.root, base := page * 65536, bits := 16, leaf := BitVec.ofNat 64 (page * 65536) ||| (if h.isU then 0x37 else 0x17) }
  let x : Hart :=
    { h with pc := pc, run := .running, rpt := none, irqs := [], posted := [], stepPend := none, ops := [], tlb := [entry],
             resume := none, sy := if s.reissueDue s.focus then { h.sy with ferec := 0 } else h.sy,
             misses := [] }
  let home : Home := .hbm pc.toNat
  let s1 := s.setHart s.focus x
  let s2 := { s1 with agenda := [], factors := { s1.factors with started := true },
                      dpit := put page { DpitEntry.reset with valid := true } s1.dpit,
                      latentUE := s1.latentUE.filter fun k => k / 32 != pc.toNat / 32 }
  (s2.writeNat home 4 w).setTag home .full

end Sys2Proof.Machine
end

