-- ==== Sys2Proof/Safety.lean ====
section
/-!
DEFINITION. The terms in which claims about the machine are stated: an instruction completes, memory is as before, only the
hart in focus has changed, the registers an instruction names can be used, and a step is the turn of a hart that fetches.
-/

namespace Sys2Proof.Machine

/-- The instruction i has its effect: it takes s to t. -/
def Completes (i : Instr) (s t : State) : Prop := exec i s = .next t

/-- Every byte and every tag of memory reads as before. -/
def SameMemory (s t : State) : Prop := ∀ a, t.mem.byte a = s.mem.byte a ∧ t.mem.tag a = s.mem.tag a

/-- Every byte of memory outside n bytes from a home reads as before. -/
def SameBytesBut (h : Home) (n : Nat) (s t : State) : Prop :=
  ∀ a, ¬(h.key ≤ a ∧ a < h.key + n) → t.mem.byte a = s.mem.byte a

/-- Nothing of the machine has changed but the hart in focus. -/
def OnlyHart (s t : State) : Prop := t = s.setHart s.focus t.hart

/-- Of a hart, nothing has changed but its g registers and what every completed instruction may change: the program counter, the
repeat at work with V of SY.RPTSTATE, the run state, walks that failed, and the mark of a STEP trap to come (R219, R364). -/
def SameButG (x y : Hart) : Prop :=
  y = { x with g := y.g, pc := y.pc, rpt := y.rpt, run := y.run, misses := y.misses, stepPend := y.stepPend,
               sy := { x.sy with rptstate := y.sy.rptstate } }

/-- Registers that an instruction can use at once: each is FULL, and no queued vector operation has still to write it
(R77, R213, R257). -/
def Hart.ready (h : Hart) (rs : List RegRef) : Bool := rs.all fun r => h.full r.1 r.2 && !h.vqPending r.1 r.2

/-- What a completed instruction leaves of a g register file: v in g[d], every other register as before; g0 discards. -/
def WritesG (d : Reg) (v : Word) (x y : Hart) : Prop := ∀ r, y.gr r = if r = d ∧ d ≠ 0 then v else x.gr r

/-- Every g register is as before. -/
def SameG (x y : Hart) : Prop := ∀ r, y.gr r = x.gr r

/-- The hart goes on from a captured execution of a repeat: to the next body word, from the last to the first of the next pass, and after
the last pass to the word behind the body, with V of SY.RPTSTATE clear (R218, R219). -/
def NextExecution (r : RptSeq) (x y : Hart) : Prop :=
  (r.pos < r.n1 → y.pc = x.pc + 4 ∧ y.rpt = some { r with pos := r.pos + 1 }) ∧
    (r.n1 ≤ r.pos → r.pass + 1 < r.count → y.pc = r.body ∧ y.rpt = some { r with pos := 0, pass := r.pass + 1 }) ∧
    (r.n1 ≤ r.pos → r.count ≤ r.pass + 1 → y.pc = x.pc + 4 ∧ y.rpt = none ∧ y.sy.rptstate.getLsbD 63 = false)

/-- A completed instruction goes on to the next word, or, where a repeat is at work, to its next captured execution. -/
def NextWord (x y : Hart) : Prop :=
  (x.rpt = none → y.pc = x.pc + 4 ∧ y.rpt = none) ∧ ∀ r, x.rpt = some r → NextExecution r x y

/-- The instruction i raises a trap precisely: it takes it, with its own address as that of the trap, and has no other effect
(R14, R360). -/
def Traps (i : Instr) (t : Posted) (s : State) : Prop := exec i s = .next (s.takeTrap s.focus t s.hart.pc)

/-- The instruction i waits at issue: only the run state of the hart changes. -/
def Waits (i : Instr) (s : State) : Prop := ∃ t, Completes i s t ∧ OnlyHart s t ∧ t.hart = s.hart.enter .blocked

/-- Of a hart, nothing has changed but its return stack and what every completed instruction may change. -/
def SameButReturns (x y : Hart) : Prop :=
  y = { x with rstack := y.rstack, pc := y.pc, run := y.run, misses := y.misses, stepPend := y.stepPend }

/-- The hart in focus fetches in this turn: it runs, its boundary takes nothing, no step of the part is due before it, and no
step stands on the agenda. -/
def Fetches (s : State) : Prop :=
  s.agenda = [] ∧ s.factors.started = true ∧ s.boundary s.focus = none ∧ s.hart.run = .running ∧ s.duty? = none

end Sys2Proof.Machine
end

