-- ==== Sys2Proof/Certificates/Slice0/Obligations.lean ====
section
/-!
DEFINITION. The statements for the provers, one def each, in the order of spec/07 to spec/14.
-/

set_option linter.constructorNameAsVariable false

namespace Sys2Proof.Machine

/-- The form i completes at s and writes v to g[d] (g0 discards it): the other registers and all else of the hart stay, and so
does the rest of the machine with every byte of memory; the program counter goes on to the next word. -/
def WritesOnlyG (i : Instr) (d : Reg) (v : Word) (s : State) : Prop :=
  ∃ t, Completes i s t ∧ WritesG d v s.hart t.hart ∧ NextWord s.hart t.hart ∧ SameButG s.hart t.hart ∧ OnlyHart s t ∧ SameMemory s t

/-- All ones in bits [n - 1 : 0]. -/
def lowOnes (n : Nat) : Word := BitVec.allOnes 64 >>> (64 - n)

end Sys2Proof.Machine

open Sys2Proof Sys2Proof.Machine

/-- Every scalar form with two sources completes when its registers are FULL and no queued vector result is still to be written to them,
and writes what R229 says; the divide forms have a statement of their own. -/
def Obligations.ScalarTwoSourceForms : Prop :=
  ∀ (s : State) (d a b : Reg) (w : Bool), s.hart.ready [gRef d, gRef a, gRef b] = true →
    let x := s.hart.gr a
    let y := s.hart.gr b
    WritesOnlyG (.add d a b w) d (x + y) s ∧
    WritesOnlyG (.sub d a b w) d (x - y) s ∧
    WritesOnlyG (.and d a b w) d (x &&& y) s ∧
    WritesOnlyG (.or d a b w) d (x ||| y) s ∧
    WritesOnlyG (.xor d a b w) d (x ^^^ y) s ∧
    WritesOnlyG (.andn d a b w) d (x &&& ~~~y) s ∧
    WritesOnlyG (.shl d a b w) d (x <<< (y.toNat % 64)) s ∧
    WritesOnlyG (.shr d a b w) d (x >>> (y.toNat % 64)) s ∧
    WritesOnlyG (.sar d a b w) d (x.sshiftRight (y.toNat % 64)) s ∧
    WritesOnlyG (.mul d a b w) d (x * y) s ∧
    WritesOnlyG (.mulhi d a b w) d ((x.setWidth 128 * y.setWidth 128).extractLsb' 64 64) s ∧
    WritesOnlyG (.mulhis d a b w) d ((x.signExtend 128 * y.signExtend 128).extractLsb' 64 64) s ∧
    WritesOnlyG (.min d a b w) d (if x.ult y then x else y) s ∧
    WritesOnlyG (.mins d a b w) d (if x.slt y then x else y) s ∧
    WritesOnlyG (.max d a b w) d (if x.ult y then y else x) s ∧
    WritesOnlyG (.maxs d a b w) d (if x.slt y then y else x) s ∧
    WritesOnlyG (.cmpeq d a b w) d (if x = y then 1 else 0) s ∧
    WritesOnlyG (.cmplt d a b w) d (if x.toNat < y.toNat then 1 else 0) s ∧
    WritesOnlyG (.cmplts d a b w) d (if x.toInt < y.toInt then 1 else 0) s ∧
    WritesOnlyG (.sel d a b w) d (if s.hart.gr d ≠ 0 then x else y) s

/-- Every scalar form with one source or none completes when its registers are FULL and no queued vector result is still to be written to
them, and writes what R229 and R231 to R233 say; an EXT or INS whose field lies within 64 bits is among them. -/
def Obligations.ScalarOneSourceForms : Prop :=
  ∀ (s : State) (d a : Reg) (w : Bool) (i : BitVec 15) (n p l : BitVec 6) (j : BitVec 21),
    s.hart.ready [gRef d, gRef a] = true →
    let x := s.hart.gr a
    WritesOnlyG (.clz d a w) d (aluClz x) s ∧
    WritesOnlyG (.ctz d a w) d (aluCtz x) s ∧
    WritesOnlyG (.popc d a w) d (aluPopc x) s ∧
    WritesOnlyG (.bswap d a w) d (aluBswap x) s ∧
    WritesOnlyG (.addi d a w i) d (x + i.signExtend 64) s ∧
    WritesOnlyG (.andi d a w i) d (x &&& i.setWidth 64) s ∧
    WritesOnlyG (.ori d a w i) d (x ||| i.setWidth 64) s ∧
    WritesOnlyG (.xori d a w i) d (x ^^^ i.setWidth 64) s ∧
    WritesOnlyG (.shli d a w n) d (x <<< n.toNat) s ∧
    WritesOnlyG (.shri d a w n) d (x >>> n.toNat) s ∧
    WritesOnlyG (.sari d a w n) d (x.sshiftRight n.toNat) s ∧
    WritesOnlyG (.cmplti d a w i) d (if x.toInt < i.toInt then 1 else 0) s ∧
    WritesOnlyG (.lih d j) d (j.signExtend 64 * 2048) s ∧
    WritesOnlyG (.addpc d j) d (s.hart.pc + j.signExtend 64) s ∧
    (p.toNat + (l.toNat + 1) ≤ 64 →
      WritesOnlyG (.ext d a w p l) d ((x >>> p.toNat) &&& lowOnes (l.toNat + 1)) s ∧
      WritesOnlyG (.ins d a w p l) d ((s.hart.gr d &&& ~~~(lowOnes (l.toNat + 1) <<< p.toNat)) |||
        ((x &&& lowOnes (l.toNat + 1)) <<< p.toNat)) s)

/-- The divide forms of R230: they complete on every pair of operands, with the fixed values for a zero divisor and for the one signed
overflow, and x = y · q + r modulo 2^64 for every divisor. -/
def Obligations.DivideForms : Prop :=
  ∀ (s : State) (d a b : Reg) (w : Bool), s.hart.ready [gRef d, gRef a, gRef b] = true →
    let x := s.hart.gr a
    let y := s.hart.gr b
    ∃ q r qs rs : Word,
      WritesOnlyG (.div d a b w) d q s ∧ WritesOnlyG (.rem d a b w) d r s ∧
      WritesOnlyG (.divs d a b w) d qs s ∧ WritesOnlyG (.rems d a b w) d rs s ∧
      q.toNat = (if y = 0 then 2 ^ 64 - 1 else x.toNat / y.toNat) ∧
      r.toNat = (if y = 0 then x.toNat else x.toNat - y.toNat * (x.toNat / y.toNat)) ∧
      qs.toInt = (if y = 0 then -1 else if x.toInt = -2 ^ 63 ∧ y.toInt = -1 then -2 ^ 63 else x.toInt.tdiv y.toInt) ∧
      rs.toInt = (if y = 0 then x.toInt else if x.toInt = -2 ^ 63 ∧ y.toInt = -1 then 0 else x.toInt - y.toInt * x.toInt.tdiv y.toInt) ∧
      x = y * q + r ∧ x = y * qs + rs

/-- CLZ, CTZ, POPC and BSWAP as R229 words them: leading and trailing zero bits with 64 for 0, one bits, and byte i moved to byte 7 - i.
-/
def Obligations.BitCountForms : Prop :=
  ∀ x : Word,
    (x = 0 → aluClz x = 64 ∧ aluCtz x = 64) ∧
    (x ≠ 0 → (aluClz x).toNat < 64 ∧ x.getLsbD (63 - (aluClz x).toNat) = true ∧
      ∀ i, 63 - (aluClz x).toNat < i → x.getLsbD i = false) ∧
    (x ≠ 0 → (aluCtz x).toNat < 64 ∧ x.getLsbD (aluCtz x).toNat = true ∧ ∀ i, i < (aluCtz x).toNat → x.getLsbD i = false) ∧
    (aluPopc x).toNat = (List.range 64).countP (fun i => x.getLsbD i) ∧
    ∀ i, i < 8 → (aluBswap x).extractLsb' (8 * i) 8 = x.extractLsb' (8 * (7 - i)) 8

namespace Sys2Proof.Machine

/-- The forms with two sources that read no destination (R229). -/
def twoSourceForms : List (Reg → Reg → Reg → Bool → Instr) :=
  [.add, .sub, .and, .or, .xor, .andn, .shl, .shr, .sar, .mul, .mulhi, .mulhis, .div, .divs, .rem, .rems, .min, .mins, .max, .maxs,
   .cmpeq, .cmplt, .cmplts]

/-- The cause of an empty register: its number in SY.EINFO (R213, R360). -/
def emptyReg (r : Reg) : Posted := { cause := 0x06, info := r.setWidth 64, addr := none }

/-- The cause of a write to a register whose write is pending (R78, R360). -/
def overwrite (r : Reg) : Posted := { cause := 0x07, info := r.setWidth 64, addr := none }

/-- A form, given its w bit, finds its source r EMPTY: it reports it with w = 0 and waits for it with w = 1 (R213). -/
def LacksSource (f : Bool → Instr) (r : Reg) (s : State) : Prop := Traps (f false) (emptyReg r) s ∧ Waits (f true) s

/-- The forms with one source that read no destination, but for EXT (R229, R231). -/
def oneSourceForms (i : BitVec 15) (n : BitVec 6) : List (Reg → Reg → Bool → Instr) :=
  [.clz, .ctz, .popc, .bswap, (.addi · · · i), (.andi · · · i), (.ori · · · i), (.xori · · · i), (.shli · · · n), (.shri · · · n),
   (.sari · · · n), (.cmplti · · · i)]

/-- The six branches and their conditions (R234). -/
def branches : List ((Reg → Reg → Bool → BitVec 15 → Instr) × (Word → Word → Prop)) :=
  [(.beq, fun x y => x = y), (.bne, fun x y => x ≠ y), (.blt, fun x y => x.toNat < y.toNat), (.bge, fun x y => x.toNat ≥ y.toNat),
   (.blts, fun x y => x.toInt < y.toInt), (.bges, fun x y => x.toInt ≥ y.toInt)]

/-- A transfer completes: the program counter is the target, and nothing else of the hart but its return stack, nothing else of
the machine and no byte of memory changes. -/
def JumpsTo (i : Instr) (pc : Word) (stack : List Word) (s : State) : Prop :=
  ∃ t, Completes i s t ∧ t.hart.pc = pc ∧ t.hart.rstack = stack ∧ SameButReturns s.hart t.hart ∧ OnlyHart s t ∧ SameMemory s t

/-- The address of the spill word of a PTR, which has 45 bits: PTR · 8 (R214, R215). -/
def spillAddr (ptr : Nat) : Word := BitVec.ofNat 64 (8 * (ptr % 2 ^ 45))

/-- The depth of the return stack's memory has become d, and the next spill word is that of PTR p, in SY.RSPILL (R215). -/
def SpillsAt (d p : Nat) (t : State) : Prop := bits t.hart.sy.rspill 48 16 = d ∧ bits t.hart.sy.rspill 3 45 = p % 2 ^ 45

/-- A CALL to an address that finds 16 entries held (R214): where its spill store of the
oldest entry may issue, the store is in flight or in the write-through buffer, DEPTH is one more and PTR 8 more, the oldest entry has left and
the address of the next instruction is the newest, and the hart is at the target; a fault of the store is taken at the call, and nothing
else happens. -/
def Spills (i : Instr) (dst : Word) (s : State) : Prop :=
  let w := s.hart.sy.rspill
  let a := plainStore (spillAddr (bits w 3 45)) (s.hart.rstack.headD 0)
  (∀ ps, accCheck s s.focus a = .ok ps → s.blocked s.focus a ps = false →
    ∃ t, Completes i s t ∧ t.mem = s.mem ∧ t.hart.pc = dst ∧ t.hart.rstack = s.hart.rstack.drop 1 ++ [s.hart.pc + 4] ∧
      SpillsAt (bits w 48 16 + 1) (bits w 3 45 + 8) t ∧ t.hart.g = s.hart.g ∧ t.hart.v = s.hart.v ∧ t.hart.gFull = s.hart.gFull ∧
      ((∃ p ∈ t.ops, p.id = s.nextId ∧ p.hart = s.focus ∧ p.kind = .store) ∨ s.nextId ∈ t.buffered s.focus)) ∧
  (∀ ps, accCheck s s.focus a = .ok ps → s.blocked s.focus a ps = true → Waits i s) ∧
  (∀ f, accCheck s s.focus a = .fault f → Traps i f.posted s)

/-- RET with no entry held and DEPTH > 0 (R214): it sends a load of the newest spilled word and
waits for it at the RET; when the value has arrived, it returns to it, with DEPTH one less and PTR 8 less; a fault of the load, and POISON that
it meets, are taken at the RET with the stack and SY.RSPILL as they were. -/
def Refills (s : State) : Prop :=
  let w := s.hart.sy.rspill
  let va := spillAddr (bits w 3 45 + (2 ^ 45 - 8))
  let a := plainLoad va s.hart.pc
  (s.refill va = none →
    (∀ ps, accCheck s s.focus a = .ok ps → s.blocked s.focus a ps = false →
      ∃ t, Completes .ret s t ∧ t.mem = s.mem ∧ t.hart.pc = s.hart.pc ∧ t.hart.rstack = [] ∧ t.hart.sy = s.hart.sy ∧
        t.hart.g = s.hart.g ∧ t.hart.v = s.hart.v ∧ (t.refill va).isSome = true) ∧
    (∀ f, accCheck s s.focus a = .fault f → Traps .ret f.posted s)) ∧
  (∀ p, s.refill va = some p →
    (p.over = false → Waits .ret s) ∧
    (p.over = true → p.poisoned = none →
      ∃ t, Completes .ret s t ∧ t.mem = s.mem ∧ t.hart.pc = p.val.setWidth 64 ∧ t.hart.rstack = [] ∧
        SpillsAt (bits w 48 16 - 1) (bits w 3 45 + (2 ^ 45 - 8)) t ∧ t.hart.g = s.hart.g ∧ t.hart.v = s.hart.v) ∧
    (∀ q, p.over = true → p.poisoned = some q →
      exec .ret s = .next ((s.dropOp p.id).takeTrap s.focus { cause := 0x09, info := 0, addr := some q } s.hart.pc)))

end Sys2Proof.Machine

/-- The register checks of the scalar forms (R78, R208, R213): an EMPTY source, a before b before a destination that the form also reads, is
reported by EMPTY_REG with w = 0 and awaited with w = 1; with the sources FULL an EMPTY destination raises OVERWRITE_PENDING. -/
def Obligations.RegisterChecks : Prop :=
  (∀ f ∈ twoSourceForms, ∀ (s : State) (d a b : Reg),
    (s.hart.full .g a = false → LacksSource (f d a b) a s) ∧
    (s.hart.full .g a = true → s.hart.full .g b = false → LacksSource (f d a b) b s) ∧
    (s.hart.full .g a = true → s.hart.full .g b = true → s.hart.full .g d = false → ∀ w, Traps (f d a b w) (overwrite d) s)) ∧
  (∀ (s : State) (d a : Reg) (i : BitVec 15) (n p l : BitVec 6) (j : BitVec 21),
    (∀ f ∈ oneSourceForms i n, (s.hart.full .g a = false → LacksSource (f d a) a s) ∧
      (s.hart.full .g a = true → s.hart.full .g d = false → ∀ w, Traps (f d a w) (overwrite d) s)) ∧
    (p.toNat + (l.toNat + 1) ≤ 64 →
      (s.hart.full .g a = false → LacksSource (.ext d a · p l) a s ∧ LacksSource (.ins d a · p l) a s) ∧
      (s.hart.full .g a = true → s.hart.full .g d = false →
        (∀ w, Traps (.ext d a w p l) (overwrite d) s) ∧ LacksSource (.ins d a · p l) d s)) ∧
    (s.hart.full .g d = false → Traps (.lih d j) (overwrite d) s ∧ Traps (.addpc d j) (overwrite d) s)) ∧
  (∀ (s : State) (d a b : Reg) (o : BitVec 15),
    (s.hart.full .g a = false →
      LacksSource (.sel d a b) a s ∧ (∀ p ∈ branches, LacksSource (p.1 a b · o) a s) ∧ LacksSource (.jr a) a s ∧
      (s.hart.rstack.length < 16 ∨ bits s.hart.sy.rspill 48 16 < 65535 → LacksSource (.callr a) a s)) ∧
    (s.hart.full .g a = true → s.hart.full .g b = false →
      LacksSource (.sel d a b) b s ∧ ∀ p ∈ branches, LacksSource (p.1 a b · o) b s) ∧
    (s.hart.full .g a = true → s.hart.full .g b = true → s.hart.full .g d = false → LacksSource (.sel d a b) d s))

/-- A branch whose registers are ready sets PC to PC + sext(off15) · 4 where its condition holds, else to PC + 4, modulo 2^64 (R234). -/
def Obligations.Branches : Prop :=
  ∀ p ∈ branches, ∀ (s : State) (a b : Reg) (w : Bool) (o : BitVec 15), s.hart.ready [gRef a, gRef b] = true → s.hart.rpt = none →
    (p.2 (s.hart.gr a) (s.hart.gr b) → JumpsTo (p.1 a b w o) (s.hart.pc + o.signExtend 64 * 4) s.hart.rstack s) ∧
    (¬p.2 (s.hart.gr a) (s.hart.gr b) → JumpsTo (p.1 a b w o) (s.hart.pc + 4) s.hart.rstack s)

/-- JMP, and JR with its target aligned, jump and leave the return stack; CALL and CALLR with room push the address of the next
instruction; RET with an entry held pops it. JR and CALLR to a target that is not aligned to 4 raise ALIGN with the target as the address;
RET with no entry held and DEPTH = 0 raises ILLEGAL 0x23, and a CALL or CALLR that would spill at DEPTH = 65,535 ILLEGAL 0x24. With 16
entries held CALL and CALLR spill the oldest to memory, and with none held RET refills from it (R214, R235, R236). -/
def Obligations.Jumps : Prop :=
  (∀ (s : State) (a : Reg) (w : Bool) (o : BitVec 25),
     JumpsTo (.jmp o) (s.hart.pc + o.signExtend 64 * 4) s.hart.rstack s ∧
     (s.hart.rstack.length < 16 → JumpsTo (.call o) (s.hart.pc + o.signExtend 64 * 4) (s.hart.rstack ++ [s.hart.pc + 4]) s) ∧
     (∀ r rest, s.hart.rstack = rest ++ [r] → JumpsTo .ret r rest s) ∧
     (s.hart.ready [gRef a] = true → (s.hart.gr a).toNat % 4 = 0 →
       JumpsTo (.jr a w) (s.hart.gr a) s.hart.rstack s ∧
       (s.hart.rstack.length < 16 → JumpsTo (.callr a w) (s.hart.gr a) (s.hart.rstack ++ [s.hart.pc + 4]) s))) ∧
  (∀ (s : State) (a : Reg) (w : Bool) (o : BitVec 25),
     (s.hart.ready [gRef a] = true → (s.hart.gr a).toNat % 4 ≠ 0 →
       Traps (.jr a w) { cause := 0x03, info := 0, addr := some (s.hart.gr a) } s ∧
       (s.hart.rstack.length < 16 ∨ bits s.hart.sy.rspill 48 16 < 65535 →
         Traps (.callr a w) { cause := 0x03, info := 0, addr := some (s.hart.gr a) } s)) ∧
     (s.hart.rstack = [] → bits s.hart.sy.rspill 48 16 = 0 → Traps .ret { cause := 0x01, info := 0x23, addr := none } s) ∧
     (16 ≤ s.hart.rstack.length → bits s.hart.sy.rspill 48 16 = 65535 →
       Traps (.call o) { cause := 0x01, info := 0x24, addr := none } s ∧ Traps (.callr a w) { cause := 0x01, info := 0x24, addr := none } s)) ∧
  (∀ (s : State) (a : Reg) (w : Bool) (o : BitVec 25), s.hart.holds = [] →
     (16 ≤ s.hart.rstack.length → bits s.hart.sy.rspill 48 16 < 65535 →
       Spills (.call o) (s.hart.pc + o.signExtend 64 * 4) s ∧
       (s.hart.ready [gRef a] = true → (s.hart.gr a).toNat % 4 = 0 → Spills (.callr a w) (s.hart.gr a) s)) ∧
     (s.hart.rstack = [] → 0 < bits s.hart.sy.rspill 48 16 → Refills s))

namespace Sys2Proof.Machine

/-- Every bit of a word outside some bits is as before. -/
def SameBitsBut (bs : List Nat) (x y : Word) : Prop := ∀ i, i ∉ bs → y.getLsbD i = x.getLsbD i

/-- A trap entry leaves memory, the other harts, and the register files of its own. -/
def EntryFrame (h : HartId) (s t : State) : Prop :=
  t.mem = s.mem ∧ (∀ j, j ≠ h → t.hartOf j = s.hartOf j) ∧ (t.hartOf h).g = (s.hartOf h).g ∧ (t.hartOf h).v = (s.hartOf h).v ∧
    (t.hartOf h).k = (s.hartOf h).k ∧ (t.hartOf h).gFull = (s.hartOf h).gFull ∧ (t.hartOf h).vFull = (s.hartOf h).vFull

/-- What an entry to S mode does to SY.STATUS and the program counter (R357): PMODE = MODE, PIE = SIE, SIE = 0, PSTEP = STEP,
STEP = 0, MODE = S; execution continues at SY.STVEC.ADDR. -/
def SupervisorStatus (x y : Hart) : Prop :=
  bits y.sy.status 6 2 = bits x.sy.status 0 2 ∧ y.sy.status.getLsbD 5 = x.sy.status.getLsbD 4 ∧ y.sy.status.getLsbD 4 = false ∧
    y.sy.status.getLsbD 10 = x.sy.status.getLsbD 8 ∧ y.sy.status.getLsbD 8 = false ∧ bits y.sy.status 0 2 = 1 ∧
    y.pc = x.sy.stvec &&& 0xFFFFFFFFFFFC

/-- What a SYW to a register of its own leaves to be read: each field as its map says it reads back (R326 with R29, R49, R63, R69,
R156, R173, R215, R220, R359, R361, R363). -/
def readBack (v : Word) : Nat → Option Word
  | 0x01 | 0x09 => some (v &&& 0xC0000000000000FF)
  | 0x02 | 0x04 | 0x07 | 0x08 | 0x0B | 0x0C => some v
  | 0x03 | 0x0A => some (v &&& 0x8000FFFFFFFFFFFF)
  | 0x05 | 0x06 => some (v &&& 0xFFFFFFFFFFFD)
  | 0x12 => some ((v &&& 0xFFFFFFFFF000) ||| (if bits v 0 5 < 10 then 10 else if 24 < bits v 0 5 then 24 else v &&& 31))
  | 0x10 => some ((v &&& 0xFFFF) ||| (if bits v 28 12 < 8 then 0x80000000 else v &&& 0xFFF0000000) |||
      (if bits v 20 8 = 0 then 0x100000 else v &&& 0xFF00000))
  | 0x13 => some (v &&& 0x800000FFF3FFFF00)
  | 0x14 => some (v &&& 0xFFFFFFFFFFFFFFF8)
  | 0x32 => some (if v.toNat % 8 = 0 then 1 else if 4 < v.toNat % 8 then 4 else v &&& 7)
  | 0x33 => some (if v.toNat % 16 = 0 then 1 else v &&& 15)
  | 0x40 => some (v &&& 0x3FFFFFFF000)
  | 0x41 => some (v &&& 0xFFFFFFFFFFC0)
  | _ => none

/-- A mode may read a system register: U mode reads none of the S level (R359, R361). -/
def mayRead (mode n : Nat) : Prop := mode = 0 → n ≠ 0x06 ∧ ¬(0x08 ≤ n ∧ n ≤ 0x0C)

/-- A register is read-only in every mode (R18, R108, R151, R178, R184, R212, R363, R365, R366). -/
def readOnly (n : Nat) : Prop := n ∈ [0x20, 0x21, 0x22, 0x23, 0x24, 0x25, 0x30, 0x31, 0x34, 0x50, 0x51]

/-- A mode may write a system register: no mode one that is read-only, and U mode none of the S level, nor SY.FADDR, SY.PARKBASE,
SY.MSGMAX, SY.VSHARE, SY.PTBASE or SY.FLIMIT. -/
def mayWrite (mode n : Nat) : Prop :=
  ¬readOnly n ∧ (mode = 0 → n ≠ 0x06 ∧ ¬(0x08 ≤ n ∧ n ≤ 0x0C) ∧ n ∉ [0x04, 0x12, 0x32, 0x33, 0x40, 0x41])

/-- No record of the hart in focus stands in its park table (R70). -/
def NoParkRecord (s : State) : Prop := ∀ r ∈ s.parks, ¬(r.tab = s.focus.tile.tab ∧ r.hart = some s.focus)

/-- What a write of SY.FEREC does to a hart (R65, R67): V = 0 discards an exhausted record, and with a load's its register becomes zero and
FULL; every other write is ignored. -/
def DiscardsByWrite (v : Word) (x y : Hart) : Prop :=
  (v.getLsbD 63 = false ∧ x.feV = true ∧ x.fePend = false →
    y.feV = false ∧ SameBitsBut [47, 48, 62, 63] x.sy.ferec y.sy.ferec ∧
    (x.feKind = 0 ∨ x.feKind = 1 → WritesG x.feReg 0 x y ∧ y.full .g x.feReg = true ∧ y.v = x.v) ∧
    (x.feKind = 3 → y.vr x.feReg = 0 ∧ y.full .v x.feReg = true ∧ (∀ r, r ≠ x.feReg → y.vr r = x.vr r) ∧ SameG x y) ∧
    (x.feKind = 2 ∨ x.feKind = 4 → SameG x y ∧ y.v = x.v)) ∧
  (v.getLsbD 63 = true ∨ x.feV = false ∨ x.fePend = true → y.sy.ferec = x.sy.ferec ∧ SameG x y ∧ y.v = x.v ∧ y.gFull = x.gFull ∧ y.vFull = x.vFull)

/-- The numbers that R211 allocates. -/
def systemRegisters : List Nat :=
  [0x00, 0x01, 0x02, 0x03, 0x04, 0x05, 0x06, 0x07, 0x08, 0x09, 0x0A, 0x0B, 0x0C, 0x10, 0x11, 0x12, 0x13, 0x14, 0x15,
   0x20, 0x21, 0x22, 0x23, 0x24, 0x25, 0x30, 0x31, 0x32, 0x33, 0x34, 0x40, 0x41, 0x50, 0x51]

end Sys2Proof.Machine

namespace Sys2Proof.Machine

/-- What a trap entry does to the repeat (R219, R220): none is at work any more, and SY.RPTSTATE holds the state of one that was, with V = 1
and the PASS and POS of the next captured execution, or of one that was still to be resumed; else it is as before. -/
def LeavesRepeat (x y : Hart) : Prop :=
  y.rpt = none ∧
    (∀ r, x.rpt = some r → let w := y.sy.rptstate
      w.getLsbD 63 = true ∧ bits w 32 8 = r.pass % 256 ∧ bits w 28 4 = r.pos % 16 ∧ bits w 22 4 = r.n1 % 16 ∧ bits w 14 8 = r.count % 256 ∧
        bits w 12 2 = r.sd % 4 ∧ bits w 10 2 = r.sa % 4 ∧ bits w 8 2 = r.sb % 4) ∧
    (x.rpt = none → (∀ w, x.resume = some w → y.sy.rptstate = w) ∧ (x.resume = none → y.sy.rptstate = x.sy.rptstate) ∧ y.resume = none)

end Sys2Proof.Machine

/-- Entry to the user handler (R356): a trap but INTERRUPT taken in U mode with UIN = 0 and a user handler installed writes the U-level
registers, sets UIN, and continues at SY.UTVEC.ADDR; no S-level register and no other bit of SY.STATUS changes, and the state of a repeat
goes into SY.RPTSTATE (R219). TRET then clears UIN and
resumes at SY.EPC; a TRET in U mode with UIN = 0 raises ILLEGAL with reason 0x2B. -/
def Obligations.UserTrapEntry : Prop :=
  ∀ (s : State) (h : HartId) (t : Posted) (epc : Word),
    let x := s.hartOf h
    let y := (s.takeTrap h t epc).hartOf h
    bits x.sy.status 0 2 = 0 → x.sy.status.getLsbD 2 = false → t.cause ≠ 0x13 → x.sy.utvec.getLsbD 0 = true →
      y.sy.epc = epc ∧ y.sy.cause = BitVec.ofNat 64 t.cause ∧ y.sy.einfo = t.info ∧ y.sy.faddr = t.addr.getD x.sy.faddr ∧
      y.sy.status.getLsbD 2 = true ∧ SameBitsBut [2] x.sy.status y.sy.status ∧ y.pc = x.sy.utvec &&& 0xFFFFFFFFFFFC ∧
      y.sy.sepc = x.sy.sepc ∧ y.sy.scause = x.sy.scause ∧ y.sy.seinfo = x.sy.seinfo ∧ y.sy.sfaddr = x.sy.sfaddr ∧
      EntryFrame h s (s.takeTrap h t epc) ∧ LeavesRepeat x y ∧
      (y.sy.rptstate.getLsbD 63 = false → h = s.focus →
        ∃ z, Completes .tret (s.takeTrap h t epc) z ∧ z.hart.sy.status = x.sy.status ∧ z.hart.pc = epc) ∧
      Traps .tret { cause := 0x01, info := 0x2B, addr := none } (s.setHart s.focus { s.hart with sy := { s.hart.sy with status := x.sy.status } })

/-- Direct entry to the supervisor handler (R355, R357): a trap taken in S mode, or in U mode while UIN = 1, and every INTERRUPT of those
modes, with a supervisor handler installed. NESTED is set when UIN = 1; no U-level register changes, and the state of a repeat goes into
SY.RPTSTATE (R219). -/
def Obligations.SupervisorTrapEntry : Prop :=
  ∀ (s : State) (h : HartId) (t : Posted) (epc : Word),
    let x := s.hartOf h
    let y := (s.takeTrap h t epc).hartOf h
    bits x.sy.status 0 2 ≠ 3 → (bits x.sy.status 0 2 ≠ 0 ∨ x.sy.status.getLsbD 2 = true ∨ t.cause = 0x13) →
    x.sy.stvec.getLsbD 0 = true → t.cause < 256 →
      y.sy.sepc = epc ∧ y.sy.scause = BitVec.ofNat 64 t.cause ||| (if x.sy.status.getLsbD 2 then 0x4000000000000000 else 0) ∧
      y.sy.seinfo = t.info ∧ y.sy.sfaddr = t.addr.getD x.sy.sfaddr ∧ SupervisorStatus x y ∧
      SameBitsBut [0, 1, 4, 5, 6, 7, 8, 10] x.sy.status y.sy.status ∧
      y.sy.epc = x.sy.epc ∧ y.sy.cause = x.sy.cause ∧ y.sy.einfo = x.sy.einfo ∧ y.sy.faddr = x.sy.faddr ∧
      EntryFrame h s (s.takeTrap h t epc) ∧ LeavesRepeat x y

/-- A trap of U mode with UIN = 0 and no user handler goes to the supervisor handler as if the user handler had executed ESC at once: the
U-level registers are written and passed on, ESCALATED is set, UIN is 0 and PMODE is U (R355, R357), and the state of a repeat goes into
SY.RPTSTATE (R219). A trap bound for S mode with
SY.STVEC.EN = 0 halts the hart and logs a record of kind NO_HANDLER, and firmware is to kill the tableau (R357). -/
def Obligations.EscalatedTrapEntry : Prop :=
  (∀ (s : State) (h : HartId) (t : Posted) (epc : Word),
     let x := s.hartOf h
     let y := (s.takeTrap h t epc).hartOf h
     bits x.sy.status 0 2 = 0 → x.sy.status.getLsbD 2 = false → t.cause ≠ 0x13 → x.sy.utvec.getLsbD 0 = false →
     x.sy.stvec.getLsbD 0 = true →
       y.sy.epc = epc ∧ y.sy.cause = BitVec.ofNat 64 t.cause ∧ y.sy.sepc = epc ∧
       y.sy.scause = BitVec.ofNat 64 t.cause ||| 0x8000000000000000 ∧ y.sy.seinfo = t.info ∧
       y.sy.sfaddr = t.addr.getD x.sy.faddr ∧ y.sy.status.getLsbD 2 = false ∧ bits y.sy.status 6 2 = 0 ∧ SupervisorStatus x y ∧
       EntryFrame h s (s.takeTrap h t epc) ∧ LeavesRepeat x y) ∧
  (∀ (s : State) (h : HartId) (t : Posted) (epc : Word),
     let x := s.hartOf h
     bits x.sy.status 0 2 ≠ 3 → x.sy.stvec.getLsbD 0 = false →
     (bits x.sy.status 0 2 ≠ 0 ∨ x.sy.status.getLsbD 2 = true ∨ t.cause = 0x13 ∨ x.sy.utvec.getLsbD 0 = false) →
       ((s.takeTrap h t epc).hartOf h).run = .halted ∧ (∃ e ∈ (s.takeTrap h t epc).errors, e.kind = 0x0A ∧ e.hart = h.num) ∧
       Instr.tblKill h.tile.tab ∈ (s.takeTrap h t epc).agenda)

/-- TRAP raises SYSCALL with the address after it, but in M mode, where it is a machine check, with its own; BRK raises BREAK with its own
address; each with its code in SY.EINFO; from U mode the user handler, when there is one and it is not at work, takes it, and from S mode
the supervisor handler (R323, R384). -/
def Obligations.TrapAndBrk : Prop :=
  ∀ (s : State) (c : BitVec 11),
    let x := s.hart
    ∀ p ∈ [(Instr.trap c, 0x11, if bits x.sy.status 0 2 = 3 then x.pc else x.pc + 4), (Instr.brk c, 0x10, x.pc)],
      Completes p.1 s (s.takeTrap s.focus { cause := p.2.1, info := c.setWidth 64, addr := none } p.2.2) ∧
      (bits x.sy.status 0 2 = 0 → x.sy.status.getLsbD 2 = false → x.sy.utvec.getLsbD 0 = true →
        ∃ t, Completes p.1 s t ∧ t.hart.sy.cause = BitVec.ofNat 64 p.2.1 ∧ t.hart.sy.einfo = c.setWidth 64 ∧ t.hart.sy.epc = p.2.2 ∧
          t.hart.pc = x.sy.utvec &&& 0xFFFFFFFFFFFC ∧ EntryFrame s.focus s t) ∧
      (bits x.sy.status 0 2 = 1 → x.sy.status.getLsbD 2 = false → x.sy.stvec.getLsbD 0 = true →
        ∃ t, Completes p.1 s t ∧ t.hart.sy.scause = BitVec.ofNat 64 p.2.1 ∧ t.hart.sy.seinfo = c.setWidth 64 ∧ t.hart.sy.sepc = p.2.2 ∧
          t.hart.pc = x.sy.stvec &&& 0xFFFFFFFFFFFC ∧ EntryFrame s.focus s t)

/-- ESC in U mode passes the U-level trap registers to the supervisor handler with bit 63 of SY.SCAUSE set, UIN = 0 and PMODE = U, and
changes nothing else of the hart; in S and M modes it raises ILLEGAL with reason 0x2A (R322, R325, R357). With no supervisor handler it halts
the hart, logs NO_HANDLER and asks for the kill of the tableau: the model's reading, log entry 30. -/
def Obligations.EscForms : Prop :=
  ∀ s : State,
    let x := s.hart
    (bits x.sy.status 0 2 = 0 → x.sy.stvec.getLsbD 0 = true →
      ∃ t, Completes .esc s t ∧ OnlyHart s t ∧ SameMemory s t ∧ t.hart.sy.sepc = x.sy.epc ∧
        t.hart.sy.scause = x.sy.cause ||| 0x8000000000000000 ∧ t.hart.sy.seinfo = x.sy.einfo ∧ t.hart.sy.sfaddr = x.sy.faddr ∧
        t.hart.sy.status.getLsbD 2 = false ∧ bits t.hart.sy.status 6 2 = 0 ∧ SupervisorStatus x t.hart ∧
        SameBitsBut [0, 1, 2, 4, 5, 6, 7, 8, 10] x.sy.status t.hart.sy.status ∧
        t.hart = { x with pc := t.hart.pc, run := t.hart.run, wfeDue := t.hart.wfeDue, misses := t.hart.misses,
                          sy := { x.sy with status := t.hart.sy.status, sepc := x.sy.epc, scause := t.hart.sy.scause, seinfo := x.sy.einfo, sfaddr := x.sy.faddr } }) ∧
    (bits x.sy.status 0 2 = 0 → x.sy.stvec.getLsbD 0 = false →
      ∃ t, Completes .esc s t ∧ SameMemory s t ∧ t.hart.run = .halted ∧ (∃ e ∈ t.errors, e.kind = 0x0A ∧ e.hart = s.focus.num) ∧
        Instr.tblKill s.focus.tile.tab ∈ t.agenda) ∧
    (bits x.sy.status 0 2 ≠ 0 → Traps .esc { cause := 0x01, info := 0x2A, addr := none } s)

/-- TRET with UIN = 1 in U mode sets UIN = 0 and resumes at SY.EPC; in S mode it sets MODE = PMODE, SIE = PIE and STEP = PSTEP and resumes
at SY.SEPC; in U mode with UIN = 0 it raises ILLEGAL with reason 0x2B (before the check of the repeat state, which is the model's choice,
log entry 93). A repeat with V = 1 is to be resumed before the next instruction (what that does is in Repeats). A repeat state with PASS ≥ COUNT
or POS > N1 raises ILLEGAL with reason 0x22 (R221, R324, R356, R357). -/
def Obligations.TretForms : Prop :=
  ∀ s : State,
    let x := s.hart
    let w := x.sy.rptstate
    let stale := w.getLsbD 63 = true ∧ (bits w 14 8 ≤ bits w 32 8 ∨ bits w 22 4 < bits w 28 4)
    (bits x.sy.status 0 2 = 0 → x.sy.status.getLsbD 2 = true → ¬stale →
      ∃ t, Completes .tret s t ∧ t.hart.pc = x.sy.epc ∧ t.hart.sy.status.getLsbD 2 = false ∧
        SameBitsBut [2] x.sy.status t.hart.sy.status ∧ SameG x t.hart ∧ SameMemory s t ∧
        t.hart.resume = if w.getLsbD 63 then some w else none) ∧
    (bits x.sy.status 0 2 = 1 → ¬stale →
      ∃ t, Completes .tret s t ∧ t.hart.pc = x.sy.sepc ∧ bits t.hart.sy.status 0 2 = bits x.sy.status 6 2 ∧
        t.hart.sy.status.getLsbD 4 = x.sy.status.getLsbD 5 ∧ t.hart.sy.status.getLsbD 8 = x.sy.status.getLsbD 10 ∧
        SameBitsBut [0, 1, 4, 8] x.sy.status t.hart.sy.status ∧ SameG x t.hart ∧ SameMemory s t ∧
        t.hart.resume = if w.getLsbD 63 then some w else none) ∧
    (bits x.sy.status 0 2 = 0 → x.sy.status.getLsbD 2 = false → Traps .tret { cause := 0x01, info := 0x2B, addr := none } s) ∧
    (¬(bits x.sy.status 0 2 = 0 ∧ x.sy.status.getLsbD 2 = false) → stale →
      Traps .tret { cause := 0x01, info := 0x22, addr := none } s)

/-- SYR writes the register's value to g[d] in every mode that its map permits, raises PRIV in another, and ILLEGAL with reason 0x20 for a
number that R211 does not allocate (R326). That U mode reads SY.PTBASE and SY.FLIMIT, and none of the S level, is the model's reading, log
entry 23. -/
def Obligations.SyrForms : Prop :=
  ∀ (s : State) (d : Reg) (n : BitVec 11),
    (n.toNat ∈ systemRegisters → s.hart.ready [gRef d] = true →
      (mayRead (bits s.hart.sy.status 0 2) n.toNat → WritesOnlyG (.syr d n) d (s.syRead s.focus n.toNat) s) ∧
      (¬mayRead (bits s.hart.sy.status 0 2) n.toNat → Traps (.syr d n) { cause := 0x02, info := 0, addr := none } s)) ∧
    (n.toNat ∉ systemRegisters → Traps (.syr d n) { cause := 0x01, info := 0x20, addr := none } s)

/-- SYW writes the register's fields, which then read back as its map says, and changes no memory and no g register, but where a write of
SY.FEREC discards a record: V = 0 written to an exhausted record ends it, and a load's register is zero and FULL, while V = 1, and V = 0
with PEND = 1, change nothing (R65, R67). A write of SY.RSCNT keeps the oldest entries down to the number written (R215). SYW raises PRIV
where the mode or the map forbids it (which registers U mode may not write is read as log entry 23 says), and ILLEGAL with reason 0x20 for
a number that R211 does not allocate (R326, R358). -/
def Obligations.SywForms : Prop :=
  ∀ (s : State) (a : Reg) (w : Bool) (n : BitVec 11),
    (n.toNat ∈ systemRegisters → s.hart.ready [gRef a] = true →
      (mayWrite (bits s.hart.sy.status 0 2) n.toNat →
        ∃ t, Completes (.syw a w n) s t ∧ NextWord s.hart t.hart ∧
          (n ≠ 0x11 ∨ NoParkRecord s → SameMemory s t) ∧ (n ≠ 0x11 → SameG s.hart t.hart) ∧
          (n ≠ 0x11 → n ≠ 0x12 → OnlyHart s t) ∧
          (∀ v, s.hart.rpt = none → readBack (s.hart.gr a) n.toNat = some v → t.syRead s.focus n.toNat = v) ∧
          (n = 0 → SameBitsBut [4, 8, 12, 23] s.hart.sy.status t.hart.sy.status ∧
            t.hart.sy.status.getLsbD 23 = (s.hart.gr a).getLsbD 23 ∧
            t.hart.sy.status.getLsbD 12 = (s.hart.sy.status.getLsbD 12 && (s.hart.gr a).getLsbD 12) ∧
            (bits s.hart.sy.status 0 2 = 0 → SameBitsBut [12, 23] s.hart.sy.status t.hart.sy.status) ∧
            (bits s.hart.sy.status 0 2 ≠ 0 → t.hart.sy.status.getLsbD 4 = (s.hart.gr a).getLsbD 4 ∧
              t.hart.sy.status.getLsbD 8 = (s.hart.gr a).getLsbD 8)) ∧
          (n = 0x11 → DiscardsByWrite (s.hart.gr a) s.hart t.hart) ∧
          (n = 0x15 → t.hart.rstack = s.hart.rstack.take ((s.hart.gr a).toNat % 32) ∧
            (t.syRead s.focus 0x15).toNat = min ((s.hart.gr a).toNat % 32) s.hart.rstack.length % 2 ^ 64)) ∧
      (¬mayWrite (bits s.hart.sy.status 0 2) n.toNat → Traps (.syw a w n) { cause := 0x02, info := 0, addr := none } s)) ∧
    (n.toNat ∉ systemRegisters → Traps (.syw a w n) { cause := 0x01, info := 0x20, addr := none } s)

/-- SY.CAPS is read-only in every mode, a write by SYW raises PRIV, and it reads REV = 1, MAJOR = 1, MINOR = 0 and zero elsewhere (R212).
-/
def Obligations.CapsRegister : Prop :=
  ∀ (s : State) (d a : Reg) (w : Bool),
    (s.hart.ready [gRef d] = true → WritesOnlyG (.syr d 0x23) d 0x10100 s) ∧
    (s.hart.ready [gRef a] = true → Traps (.syw a w 0x23) { cause := 0x02, info := 0, addr := none } s)

namespace Sys2Proof.Machine

/-- The form i completes at s, and nothing changes but what every completed instruction may change. -/
def NoEffect (i : Instr) (s : State) : Prop :=
  ∃ t, Completes i s t ∧ SameG s.hart t.hart ∧ NextWord s.hart t.hart ∧ SameButG s.hart t.hart ∧ OnlyHart s t ∧ SameMemory s t

/-- The form i completes at s: the program counter goes on, no register of the hart and no byte of memory changes. -/
def Passes (i : Instr) (s t : State) : Prop :=
  Completes i s t ∧ NextWord s.hart t.hart ∧ t.hart.g = s.hart.g ∧ t.hart.v = s.hart.v ∧ t.hart.k = s.hart.k ∧ t.mem = s.mem

/-- A TLB entry of the 64 KiB page that holds an address. -/
def TlbEntry.ofPage (e : TlbEntry) (va : Word) : Prop := e.base = Machine.bits va 16 32 * 65536 / 2 ^ e.bits * 2 ^ e.bits

/-- Nothing keeps HALT waiting: every register is FULL, no recorded access is outstanding, and no copy or matrix command runs (R328); and no
vector operation is queued (the model's choice, log entry 88). -/
def Settled (h : Hart) : Prop :=
  h.gFull = 0xFFFFFFFF ∧ h.vFull = 0xFFFFFFFF ∧ h.vq = [] ∧ ¬(h.feV = true ∧ h.fePend = true) ∧ h.cps = [] ∧ h.mxq = []

end Sys2Proof.Machine

/-- YIELD with no request pending has no effect; with one pending and nothing to take at the boundary the hart stops with the next
instruction as its stop address (R327, R367). WFE with the event latch set clears it and goes on; with it clear the hart sleeps, with the
limit of g[a] cycles or none (R329). -/
def Obligations.YieldAndWfe : Prop :=
  (∀ s : State,
     (s.hart.sy.preq.getLsbD 0 = false → NoEffect .yield s) ∧
     (s.hart.sy.preq.getLsbD 0 = true → s.hart.posted = [] → s.hart.stepPend = none → s.hart.irqs = [] →
       s.hart.sy.status.getLsbD 8 = false → s.hart.rpt = none →
       ∃ t, Completes .yield s t ∧ OnlyHart s t ∧ SameG s.hart t.hart ∧ SameMemory s t ∧ t.hart.run = .halted ∧
         t.hart.stopped = true ∧ t.hart.stoppc = s.hart.pc + 4)) ∧
  (∀ (s : State) (a : Reg) (w : Bool), s.hart.ready [gRef a] = true →
     (s.hart.latch = true → ∃ t, Passes (.wfe a w) s t ∧ OnlyHart s t ∧ t.hart.latch = false ∧ t.hart.run = .running) ∧
     (s.hart.latch = false → s.hart.sy.preq.getLsbD 0 = false →
       ∃ t, Passes (.wfe a w) s t ∧ OnlyHart s t ∧ t.hart.run = .sleeping ∧
         t.hart.wfeDue = if s.hart.gr a = 0 then none else some (s.now + (s.hart.gr a).toNat)))

/-- HALT with nothing of the hart outstanding completes: it ends the hart's part in its launch and, where no launch record waits for it,
halts the hart; an exhausted record is discarded first, so that the register its load left EMPTY, of LD.WAIT, LD.TAKE or VLD.TAKE, is zero
and FULL and does not keep the HALT waiting (R65, R67). With a register write, a recorded access or a command outstanding it waits (R328). That it waits for queued vector operations as well, which R328 does not
name, is the model's own choice, log entry 88. -/
def Obligations.HaltForms : Prop :=
  ∀ s : State,
    (Settled s.hart →
      ∃ t, Completes .halt s t ∧ (NoParkRecord s → SameMemory s t) ∧ t.hart.launch = none ∧ t.hart.feV = false ∧
        t.hart.stopped = false ∧
        ((s.tile s.focus.tile).recordFor s.focus.num = none → t.hart.run = .halted ∧ t.hart.pc = s.hart.pc + 4)) ∧
    (Settled (s.hart.setFull .g s.hart.feReg true) → s.hart.feV = true → s.hart.feKind = 0 ∨ s.hart.feKind = 1 →
      (s.tile s.focus.tile).recordFor s.focus.num = none →
      ∃ t, Completes .halt s t ∧ t.hart.run = .halted ∧ t.hart.feV = false ∧ WritesG s.hart.feReg 0 s.hart t.hart ∧
        t.hart.full .g s.hart.feReg = true ∧ t.hart.v = s.hart.v) ∧
    (Settled (s.hart.setFull .v s.hart.feReg true) → s.hart.feV = true → s.hart.feKind = 3 →
      (s.tile s.focus.tile).recordFor s.focus.num = none →
      ∃ t, Completes .halt s t ∧ t.hart.run = .halted ∧ t.hart.feV = false ∧ SameG s.hart t.hart ∧ t.hart.vr s.hart.feReg = 0 ∧
        (∀ r, r ≠ s.hart.feReg → t.hart.vr r = s.hart.vr r) ∧ t.hart.full .v s.hart.feReg = true) ∧
    ((s.hart.feV = true ∧ s.hart.fePend = true) ∨ s.hart.vq ≠ [] ∨ s.hart.cps ≠ [] ∨ s.hart.mxq ≠ [] → Waits .halt s) ∧
    (s.hart.feV = false → s.hart.gFull ≠ 0xFFFFFFFF ∨ s.hart.vFull ≠ 0xFFFFFFFF → Waits .halt s)

/-- The maintenance forms of one tile (R322, R330): what TLB.INV kinds 0 and 1, IC.INV kinds 0 and 1, DC.WB and DC.INV drop, when no store
of the hart has still to be acknowledged; a kind that is not listed raises ILLEGAL with reason 0x20, and TLB.INV, and IC.INV of kind 2,
raise PRIV in U mode. That an unlisted kind comes before the mode is the model's reading, log entry 27. -/
def Obligations.MaintenanceForms : Prop :=
  ∀ (s : State) (a : Reg) (w : Bool), s.hart.ready [gRef a] = true → s.unwritten s.focus none = false →
    let x := s.hart.gr a
    let line := bits x 6 42
    (bits s.hart.sy.status 0 2 ≠ 0 → bits x 0 3 = 0 →
      ∃ t, Passes (.tlbInv a w) s t ∧ (∀ e ∈ t.hart.tlb, e ∈ s.hart.tlb ∧ ¬e.ofPage x) ∧
        ∀ e ∈ (t.tile s.focus.tile).tlb2, e ∈ (s.tile s.focus.tile).tlb2 ∧ ¬e.ofPage x) ∧
    (bits s.hart.sy.status 0 2 ≠ 0 → bits x 0 3 = 1 →
      ∃ t, Passes (.tlbInv a w) s t ∧ t.hart.tlb = [] ∧ (t.tile s.focus.tile).tlb2 = [] ∧ (t.tile s.focus.tile).walkCache = []) ∧
    (bits x 0 3 = 0 → ∃ t, Passes (.icInv a w) s t ∧ OnlyHart s t ∧ ∀ o ∈ t.hart.ops, o ∈ s.hart.ops ∧ o.block / 2 ≠ line) ∧
    (bits x 0 3 = 1 → ∃ t, Passes (.icInv a w) s t ∧ OnlyHart s t ∧ t.hart.ops = []) ∧
    (bits x 0 3 = 1 → NoEffect (.dcWb a w) s) ∧
    (bits x 0 3 = 0 → s.unwritten s.focus (some line) = false → NoEffect (.dcWb a w) s ∧
      ∃ t, Passes (.dcInv a w) s t ∧ ∀ l ∈ (t.tile s.focus.tile).l1, l.home.key / 64 % 128 ≠ bits x 6 7) ∧
    (bits x 0 3 = 1 → ∃ t, Passes (.dcInv a w) s t ∧ (t.tile s.focus.tile).l1 = []) ∧
    (let k := bits x 0 3
     let ill : Posted := { cause := 0x01, info := 0x20, addr := none }
     let priv : Posted := { cause := 0x02, info := 0, addr := none }
     (3 < k → Traps (.tlbInv a w) ill s) ∧ (2 < k → Traps (.icInv a w) ill s) ∧
     (1 < k → Traps (.dcWb a w) ill s ∧ Traps (.dcInv a w) ill s) ∧
     (bits s.hart.sy.status 0 2 = 0 → (k ≤ 3 → Traps (.tlbInv a w) priv s) ∧ (k = 2 → Traps (.icInv a w) priv s)))

namespace Sys2Proof.Machine

/-- What a tableau-wide form leaves on a tile that it reaches (R330, R331): TLB.INV of kind 3 no entry in the TLBs of its four harts and in
its L2 TLB, that of kind 2 none of the page, each an empty walk cache; IC.INV no decoded op of the four harts. -/
def Invalidated (tlb : Bool) (kind : Nat) (va : Word) (u : TileId) (s t : State) : Prop :=
  (tlb = true → (t.tile u).walkCache = [] ∧
    (kind = 3 → (t.tile u).tlb2 = [] ∧ ∀ h ∈ u.harts, (t.hartOf h).tlb = []) ∧
    (kind = 2 → (∀ e, e ∈ (t.tile u).tlb2 ↔ e ∈ (s.tile u).tlb2 ∧ ¬e.ofPage va) ∧
      ∀ h ∈ u.harts, ∀ e, e ∈ (t.hartOf h).tlb ↔ e ∈ (s.hartOf h).tlb ∧ ¬e.ofPage va)) ∧
  (tlb = false → ∀ h ∈ u.harts, (t.hartOf h).ops = [])

/-- The invalidations that the hart in focus has sent for a form (R331). -/
def State.sentInvs (tlb : Bool) (kind : Nat) (va : Word) (s : State) : List InvMsg :=
  s.invs.filter fun m => decide (m.src = s.focus) && m.tlb == tlb && m.kind == kind && m.addr == va

end Sys2Proof.Machine

/-- The tableau-wide forms, TLB.INV of kinds 2 and 3 and IC.INV of kind 2 (R331). One that reaches a tile drops there what its kind names and
is acknowledged, and no memory and no register changes. Its own hart invalidates its own tile and every tile that is not resident, and sends
to each other resident tile: with none it completes at once, else it waits until all have acknowledged, and then completes. -/
def Obligations.RemoteInvalidation : Prop :=
  (∀ (s : State) (m : InvMsg), s.invs.find? (fun q => q.id == m.id) = some m → m.acked = false →
    ∃ t, Completes (.tlbInvRemote m.id) s t ∧ t.mem = s.mem ∧
      (∀ q ∈ t.invs, q.id = m.id → q.acked = true) ∧ (∀ h, (t.hartOf h).g = (s.hartOf h).g ∧ (t.hartOf h).pc = (s.hartOf h).pc) ∧
      Invalidated m.tlb m.kind m.addr m.tile s t) ∧
  (∀ (s : State) (a : Reg) (w tlb : Bool),
    let x := s.hart.gr a
    let kind := bits x 0 3
    let i := if tlb then Instr.tlbInv a w else .icInv a w
    let rest := (s.tiles.map (·.1)).filter fun u => u.tab == s.focus.tile.tab && decide (u ≠ s.focus.tile)
    let mine := s.sentInvs tlb kind x
    s.hart.ready [gRef a] = true → bits s.hart.sy.status 0 2 ≠ 0 → (tlb = true → kind = 2 ∨ kind = 3) →
    (tlb = false → kind = 2 ∧ s.unwritten s.focus none = false) →
      (mine = [] → (∀ u ∈ rest, s.resident u = false) →
        ∃ t, Passes i s t ∧ ∀ u, u = s.focus.tile ∨ u ∈ rest → Invalidated tlb kind x u s t) ∧
      (mine = [] → (∃ u ∈ rest, s.resident u = true) →
        ∃ t, Completes i s t ∧ t.mem = s.mem ∧ t.hart.g = s.hart.g ∧ t.hart.pc = s.hart.pc ∧
          (∀ u, u = s.focus.tile ∨ (u ∈ rest ∧ s.resident u = false) → Invalidated tlb kind x u s t) ∧
          ∀ u ∈ rest, s.resident u = true → ∃ m ∈ t.sentInvs tlb kind x, m.tile = u ∧ m.acked = false) ∧
      (mine ≠ [] → (∀ m ∈ mine, m.acked = true) → ∃ t, Passes i s t) ∧
      ((∃ m ∈ mine, m.acked = false) → Waits i s))

namespace Sys2Proof.Machine

/-- Nothing of the hart in focus is outstanding and nothing holds its accesses back: no ordering in force, no in-flight access, no
buffered store of its own, no claimed granule of its tile, room in the write-through buffer, no undetected memory error, and no host
port with writes that a flushing read has still to follow. -/
def Unheld (s : State) : Prop :=
  s.hart.holds = [] ∧ (∀ o ∈ s.ops, o.hart ≠ s.focus) ∧ s.pendingOp s.focus true true (fun _ => true) = false ∧
    (s.tile s.focus.tile).claims = [] ∧ (s.tile s.focus.tile).wbuf.length ≤ 16 ∧ s.latentUE = [] ∧ s.hart.hostWrote = []

/-- An address of n naturally aligned bytes at an offset of the hart's own slice, through the alias (R11). -/
def OwnBytes (va : Word) (off n : Nat) : Prop := va.toNat = 0x1F00000000000000 + off ∧ off + n ≤ 2 ^ 22 ∧ off % n = 0

/-- The home of an offset of the hart's own slice. -/
def State.ownHome (s : State) (off : Nat) : Home := .slice s.focus.tile off

/-- A form that reads the own slice at once: g[d] receives v, nothing else of the hart and no byte of memory changes; a form with no
ordering changes nothing else at all. -/
def ReadsOwn (i : Instr) (d : Reg) (o : Ord) (v : Word) (s : State) : Prop :=
  ∃ t, Completes i s t ∧ WritesG d v s.hart t.hart ∧ NextWord s.hart t.hart ∧ SameButG s.hart t.hart ∧ SameMemory s t ∧
    (o = .none → OnlyHart s t)

/-- A form that writes n bytes of the own slice at once: they hold the number v, little-endian, their word's tag becomes x, every
other byte and every other tag of memory stays, and g[d] receives the result where there is one. -/
def WritesOwn (i : Instr) (r : Option (Reg × Word)) (off n v : Nat) (x : Tag) (s : State) : Prop :=
  ∃ t, Completes i s t ∧ NextWord s.hart t.hart ∧ SameButG s.hart t.hart ∧
    (match r with | some (d, old) => WritesG d old s.hart t.hart | none => SameG s.hart t.hart) ∧
    t.readNat (s.ownHome off) n = v % 2 ^ (8 * n) ∧ SameBytesBut (s.ownHome off) n s t ∧
    t.tagOf (s.ownHome off) = x ∧ ∀ a, a ≠ ((s.ownHome off).align 8).key → t.mem.tag a = s.mem.tag a

/-- The new value of an AMO on n bits of integers (R250). -/
def amoInt (n old y e : Nat) : AmoOp → Option Nat
  | .add => some ((old + y) % 2 ^ n)
  | .and => some (old &&& y)
  | .or => some (old ||| y)
  | .xor => some (old ^^^ y)
  | .min => some (if old < y then old else y)
  | .mins => some (if (BitVec.ofNat n old).slt (BitVec.ofNat n y) then old else y)
  | .max => some (if old < y then y else old)
  | .maxs => some (if (BitVec.ofNat n old).slt (BitVec.ofNat n y) then y else old)
  | .swap => some y
  | .cas => some (if old = e then y else old)
  | .fadd | .fmax => none

/-- u is below v as numbers are, −0 below +0; NaNs aside (R198, R251). -/
def floatBelow : Val → Val → Bool
  | .inf a, .inf b => a && !b
  | .inf a, _ => a
  | _, .inf b => !b
  | .fin a m e, .fin b n g =>
    let x := (if a then -(m : Int) else m) * 2 ^ (e - min e g).toNat
    let y := (if b then -(n : Int) else n) * 2 ^ (g - min e g).toNat
    decide (x < y) || (decide (x = 0) && decide (y = 0) && a && !b)
  | _, _ => false

/-- The new value of FADD and FMAX on F32, or F64 for .D (R251): FADD rounds the exact sum of the two decoded values once to nearest even, with
−0 only for two of them, and an infinity stays, or is the canonical NaN beside its opposite; FMAX writes the larger; a NaN gives the canonical
NaN. -/
def amoFloat (dbl max : Bool) (old y : Nat) : Nat :=
  let f := if dbl then FFmt.f64 else .f32
  let nan := if dbl then 0x7FF8000000000000 else 0x7FC00000
  match decodeF f false old, decodeF f false y with
  | .nan, _ => nan
  | _, .nan => nan
  | u, v =>
    if max then (if floatBelow u v then y else old)
    else
      match u, v with
      | .inf a, .inf b => if a = b then old else nan
      | .inf _, _ => old
      | _, .inf _ => y
      | .fin a m e, .fin b n g =>
        let q := min e g
        let sum := (if a then -(m : Int) else m) * 2 ^ (e - q).toNat + (if b then -(n : Int) else n) * 2 ^ (g - q).toNat
        encodeF f false false (.fin (decide (sum < 0) || (decide (sum = 0) && a && b && decide (m = 0) && decide (n = 0))) sum.natAbs q)
      | _, _ => nan

/-- The new value of an AMO (R250, R251). -/
def amoValue (dbl : Bool) (old y e : Nat) (f : AmoOp) : Nat :=
  (amoInt (if dbl then 64 else 32) old y e f).getD (amoFloat dbl (f == .fmax) old y)

/-- The AMO forms and their operations (R249). -/
def amoForms : List ((Reg → Reg → Reg → Bool → Bool → Scope → Ord → Instr) × AmoOp) :=
  [(.amoAdd, .add), (.amoFadd, .fadd), (.amoAnd, .and), (.amoOr, .or), (.amoXor, .xor), (.amoMin, .min), (.amoMins, .mins),
   (.amoMax, .max), (.amoMaxs, .maxs), (.amoFmax, .fmax), (.amoSwap, .swap), (.amoCas, .cas)]

end Sys2Proof.Machine

/-- LD and LDS of naturally aligned bytes of the own slice through the alias: g[d] receives the bytes, zero-extended by LD and sign-
extended by LDS, and no tag and no byte of memory changes (R57, R227, R239, R241). On a POISON word g[d] of either becomes zero and POISON, with its
address, waits for the boundary that follows at once (R60). -/
def Obligations.OwnSliceLoads : Prop :=
  ∀ (s : State) (d a : Reg) (w : Bool) (z : Size) (sc : Scope) (o : Ord) (imm : BitVec 8) (off : Nat),
    let va := s.hart.gr a + imm.signExtend 64 * BitVec.ofNat 64 z.bytes
    s.hart.ready [gRef d, gRef a] = true → Unheld s → OwnBytes va off z.bytes →
      (s.tagOf (s.ownHome off) ≠ .poison →
        ReadsOwn (.ld d a w z sc o imm) d o (BitVec.ofNat 64 (s.readNat (s.ownHome off) z.bytes)) s ∧
        ReadsOwn (.lds d a w z sc o imm) d o ((BitVec.ofNat (8 * z.bytes) (s.readNat (s.ownHome off) z.bytes)).signExtend 64) s) ∧
      (s.tagOf (s.ownHome off) = .poison →
        ∀ i, i = Instr.ld d a w z sc o imm ∨ i = .lds d a w z sc o imm →
          ∃ t, Completes i s t ∧ WritesG d 0 s.hart t.hart ∧ SameMemory s t ∧
            ∃ p, t.hart.posted = s.hart.posted ++ [p] ∧ p.cause = 0x09 ∧ ∃ q, p.addr = some q ∧ q.toNat / 8 = va.toNat / 8)

/-- ST of naturally aligned bytes of the own slice: they receive the low bytes of g[d], the word becomes FULL, and no other byte or tag
changes; a partial write to a POISON word completes and changes nothing (R57, R239, R241). -/
def Obligations.OwnSliceStores : Prop :=
  ∀ (s : State) (d a : Reg) (w : Bool) (z : Size) (sc : Scope) (o : Ord) (imm : BitVec 8) (off : Nat),
    s.mem.wf = true → s.hart.ready [gRef d, gRef a] = true → Unheld s →
    OwnBytes (s.hart.gr a + imm.signExtend 64 * BitVec.ofNat 64 z.bytes) off z.bytes →
      (z = .d ∨ s.tagOf (s.ownHome off) ≠ .poison →
        WritesOwn (.st d a w z sc o imm) none off z.bytes (s.hart.gr d).toNat .full s) ∧
      (z ≠ .d → s.tagOf (s.ownHome off) = .poison →
        ∃ t, Completes (.st d a w z sc o imm) s t ∧ SameMemory s t ∧ SameG s.hart t.hart ∧ NextWord s.hart t.hart)

/-- ST.EMPTY and TAG.SET of one word of the own slice, and TAG.GET of 32: ST.EMPTY writes g[d] and leaves EMPTY, or PARKED where loads are
parked; TAG.SET changes the tag, and the data only of a POISON word, to zero; TAG.GET reads the 32 codes (R57, R243, R245, R246). A TAG.SET of
several words, each word an action of its own (R58), is among the forms that ScalarAccessesIssue names. -/
def Obligations.OwnSliceTags : Prop :=
  ∀ (s : State) (d a : Reg) (w : Bool) (sc : Scope) (o : Ord) (imm : BitVec 8) (off : Nat),
    s.mem.wf = true → s.hart.ready [gRef d, gRef a] = true → Unheld s →
      (OwnBytes (s.hart.gr a + imm.signExtend 64 * 8) off 8 →
        WritesOwn (.stEmpty d a w sc o imm) none off 8 (s.hart.gr d).toNat
          (if s.tagOf (s.ownHome off) = .parked then .parked else .empty) s ∧
        (bits (s.hart.gr d) 4 6 = 0 →
          (bits (s.hart.gr d) 0 2 = 1 → WritesOwn (.tagSet d a w imm) none off 8
            (if s.tagOf (s.ownHome off) = .poison then 0 else s.readNat (s.ownHome off) 8) .full s) ∧
          (bits (s.hart.gr d) 0 2 = 0 → WritesOwn (.tagSet d a w imm) none off 8
            (if s.tagOf (s.ownHome off) = .poison then 0 else s.readNat (s.ownHome off) 8)
            (if s.tagOf (s.ownHome off) = .parked then .parked else .empty) s) ∧
          (bits (s.hart.gr d) 0 2 = 3 → WritesOwn (.tagSet d a w imm) none off 8 (s.readNat (s.ownHome off) 8) .poison s))) ∧
      ((s.hart.gr a + imm.signExtend 64 * 8).toNat = 0x1F00000000000000 + off → off + 256 ≤ 2 ^ 22 → off % 8 = 0 →
        ∃ t, Completes (.tagGet d a w imm) s t ∧ NextWord s.hart t.hart ∧ SameButG s.hart t.hart ∧ SameMemory s t ∧ OnlyHart s t ∧
          (d ≠ 0 → ∀ i, i < 32 → bits (t.hart.gr d) (2 * i) 2 = (s.tagOf (s.ownHome (off + 8 * i))).code))

/-- Operand values that are illegal: EXT and INS with pos + len > 64 raise ILLEGAL with reason 0x26 before any register is examined (R209,
R233), and TAG.SET with code 10 raises it with reason 0x25 (R58, R246); each changes nothing. -/
def Obligations.OperandTraps : Prop :=
  ∀ (s : State) (d a : Reg) (w : Bool) (p l : BitVec 6) (imm : BitVec 8),
    (64 < p.toNat + (l.toNat + 1) →
      Traps (.ext d a w p l) { cause := 0x01, info := 0x26, addr := none } s ∧
      Traps (.ins d a w p l) { cause := 0x01, info := 0x26, addr := none } s) ∧
    (s.hart.ready [gRef d, gRef a] = true → bits (s.hart.gr d) 0 2 = 2 →
      Traps (.tagSet d a w imm) { cause := 0x01, info := 0x25, addr := none } s)

/-- An AMO of an aligned operand of the own slice whose word is not POISON returns the old value, zero-extended, in g[d]; the operand
becomes the new value of R250, or R251 for FADD and FMAX, the word becomes FULL, and nothing else of memory changes. On a POISON word memory
stays, g[d] is zero and FULL, and POISON is posted (R60, R250). -/
def Obligations.OwnSliceAtomics : Prop :=
  ∀ f ∈ amoForms, ∀ (s : State) (d a b : Reg) (w z : Bool) (sc : Scope) (o : Ord) (off : Nat),
    let n := if z then 8 else 4
    let old := s.readNat (s.ownHome off) n
    let y := (s.hart.gr b).toNat % 2 ^ (8 * n)
    let e := (s.hart.gr d).toNat % 2 ^ (8 * n)
    s.mem.wf = true → s.hart.ready [gRef d, gRef a, gRef b] = true → Unheld s → OwnBytes (s.hart.gr a) off n →
    (s.tagOf (s.ownHome off) ≠ .poison →
      WritesOwn (f.1 d a b w z sc o) (some (d, BitVec.ofNat 64 old)) off n
        (amoValue z old y e f.2) .full s) ∧
    (s.tagOf (s.ownHome off) = .poison →
      ∃ t, Completes (f.1 d a b w z sc o) s t ∧ WritesG d 0 s.hart t.hart ∧ t.hart.full .g d = true ∧ SameMemory s t ∧
        ∃ p, t.hart.posted = s.hart.posted ++ [p] ∧ p.cause = 0x09 ∧ ∃ q, p.addr = some q ∧ q.toNat / 8 = (s.hart.gr a).toNat / 8)

namespace Sys2Proof.Machine

/-- What a part of an access does, its way there aside. -/
def Part.deed (p : Part) : Home × Word × List RItem × List WItem := (p.home, p.va, p.reads, p.writes)

/-- A write of a part of store n of a hart stands in the write-through buffer, in the entry of its line, or in a line that has left it (R92). -/
def Buffered (h : HartId) (n : Nat) (p : Part) (i : WItem) (t : State) : Prop :=
  let line := p.home.align 64
  (∃ l ∈ (t.tile h.tile).wbuf, l.home = line ∧ (h, n, { i with off := i.off + (p.home.key - line.key) }) ∈ l.writes) ∨
  ∃ o ∈ t.ops, o.kind = .store ∧ (h, n) ∈ o.who ∧ ∃ q ∈ o.parts, q.home = p.home ∧ i ∈ q.writes

/-- The access a, number n of a hart, is on its way to the places ps: the writes of a store to paged memory stand in the write-through buffer,
and an access in flight has the other parts, each with its home, its address and what it reads and writes there, the access's operands and
destination, and, where it has no destination, its data. -/
def OnItsWay (h : HartId) (a : Acc) (ps : List Piece) (n : Nat) (t : State) : Prop :=
  let toBuffer := fun (p : Part) => a.kind == .store && p.home.pagedHome
  (∀ p ∈ partsOf a ps, toBuffer p = true → ∀ i ∈ p.writes, Buffered h n p i t) ∧
  let rest := (partsOf a ps).filter fun p => !toBuffer p
  (rest ≠ [] → ∃ o ∈ t.ops, o.id = n ∧ o.hart = h ∧ o.kind = a.kind ∧ o.dest = a.dest ∧ o.x = a.x ∧ o.y = a.y ∧
    o.parts.map Part.deed = rest.map Part.deed ∧ (a.dest = none → o.val = a.data))

/-- The form i, whose access is a, sends it: when no ordering is in force, the checks of R13 to R15 find every byte's home, none of
them a device register, nothing blocks it, and it is not performed at once (as an access that lies wholly in the own-slice alias is, but for
a recorded one, R64, and for a TAG.SET of several words, R58), then it completes; no byte of memory
changes yet, no register's value changes, the destination is EMPTY until the result arrives (R77), and the access, under the next
number after the flushing reads of a release at .s (R106), is on its way to those homes with its data (R21, R92). -/
def SendsAccess (i : Instr) (a : Acc) (s : State) : Prop :=
  ∀ ps, s.hart.holds = [] → accCheck s s.focus a = .ok ps → s.blocked s.focus a ps = false → (a.atOnce = false ∨ ∃ k, a.kind = .fe k) →
    (∀ p ∈ ps, ∀ off, p.home ≠ .dev off) →
    ∃ t, Completes i s t ∧ t.mem = s.mem ∧ NextWord s.hart t.hart ∧ t.hart.g = s.hart.g ∧ t.hart.v = s.hart.v ∧
      (∀ f r, a.dest = some (f, r) → ¬(f = .g ∧ r = 0) → f ≠ .k → t.hart.full f r = false) ∧
      OnItsWay s.focus a ps (s.release s.focus a.rel a.scope).nextId t

/-- The form i, a waiting, taking or filling access of KIND k, is recorded and sent (R64, R65, R242): SY.FEREC names it with V = 1 and
PEND = 1, and the retry buffer holds its address and data. -/
def SendsRecorded (i : Instr) (k : Nat) (r : Reg) (ea : Word) (data : VWord) (sc : Scope) (o : Ord) (s : State) : Prop :=
  SendsAccess i (feAcc k ea sc o r data) s ∧
  ∀ ps t, s.hart.holds = [] → accCheck s s.focus (feAcc k ea sc o r data) = .ok ps →
    s.blocked s.focus (feAcc k ea sc o r data) ps = false → Completes i s t →
      t.hart.feV = true ∧ t.hart.fePend = true ∧ t.hart.feKind = k ∧ t.hart.feScope = sc.code.toNat ∧ t.hart.feOrd = o.code.toNat ∧
      t.hart.feReg = r ∧ t.hart.feLinked = false ∧ t.hart.feWoken = false ∧ t.hart.rbufVa = ea ∧ t.hart.rbufVal = data

end Sys2Proof.Machine

/-- The scalar memory forms send their accesses (R239, R241, R243, R245, R246, R249, R253); SHIP of a routine
whose entry is empty raises ENGINE_ERROR with the routine's number, and nothing is sent (R119). -/
def Obligations.ScalarAccessesIssue : Prop :=
  ∀ (s : State) (d a b : Reg) (w : Bool) (z : Size) (sc : Scope) (o : Ord) (imm : BitVec 8) (n : BitVec 6),
    s.hart.ready [gRef d, gRef a, gRef b] = true →
    let ea := s.hart.gr a + imm.signExtend 64 * BitVec.ofNat 64 z.bytes
    let e8 := s.hart.gr a + imm.signExtend 64 * 8
    SendsAccess (.ld d a w z sc o imm) (loadAcc false d z ea sc o) s ∧
    SendsAccess (.lds d a w z sc o imm) (loadAcc true d z ea sc o) s ∧
    SendsAccess (.st d a w z sc o imm) (storeAcc (s.hart.gr d) z ea sc o) s ∧
    SendsAccess (.stEmpty d a w sc o imm) (stEmptyAcc e8 (s.hart.gr d) sc o) s ∧
    SendsAccess (.tagGet d a w imm) (tagAcc .tagGet e8 32 needR false (some (gRef d))) s ∧
    (bits (s.hart.gr d) 0 2 ≠ 2 → SendsAccess (.tagSet d a w imm)
      (tagAcc (.tagSet (Tag.ofCode (bits (s.hart.gr d) 0 2))) e8 (bits (s.hart.gr d) 4 6 + 1) needW true none) s) ∧
    (∀ f ∈ amoForms, ∀ dbl, SendsAccess (f.1 d a b w dbl sc o) (amoAcc f.2 s.hart d a b dbl sc o) s) ∧
    (s.routineValid n.toNat = true → ∀ ps, s.hart.holds = [] →
      accCheck s s.focus (shipAcc s.hart d a b n sc o) = .ok ps → s.blocked s.focus (shipAcc s.hart d a b n sc o) ps = false →
      ∃ t, Completes (.ship d a b w n sc o) s t ∧ t.mem = s.mem ∧ t.hart.g = s.hart.g ∧ (d ≠ 0 → t.hart.full .g d = false) ∧
        OnItsWay s.focus (shipAcc s.hart d a b n sc o) ps (s.release s.focus (shipAcc s.hart d a b n sc o).rel sc).nextId t) ∧
    (s.routineValid n.toNat = false → ∀ ps, s.hart.holds = [] →
      accCheck s s.focus (shipAcc s.hart d a b n sc o) = .ok ps → s.blocked s.focus (shipAcc s.hart d a b n sc o) ps = false →
      exec (.ship d a b w n sc o) s = .next ((s.touch s.focus (shipAcc s.hart d a b n sc o)).takeTrap s.focus
        { cause := 0x12, info := n.setWidth 64, addr := none } s.hart.pc))

/-- The full/empty forms are recorded and sent when no record stands; those of lines take a place in the vector queue at cost 1, and wait
while it has none (R64, R154, R155, R242, R256, R270). -/
def Obligations.FullEmptyAccessesIssue : Prop :=
  ∀ (s : State) (d a : Reg) (w : Bool) (sc : Scope) (o : Ord) (imm : BitVec 8) (im5 : BitVec 5),
    s.hart.feV = false →
    let e8 := s.hart.gr a + imm.signExtend 64 * 8
    let ev := s.hart.gr a + im5.signExtend 64 * 64
    (s.hart.ready [gRef d, gRef a] = true →
      SendsRecorded (.ldWait d a w sc o imm) 0 d e8 0 sc o s ∧ SendsRecorded (.ldTake d a w sc o imm) 1 d e8 0 sc o s ∧
      SendsRecorded (.stFill d a w sc o imm) 2 d e8 ((s.hart.gr d).setWidth 512) sc o s) ∧
    (s.hart.ready [vRef d, gRef a] = true →
      (s.hart.vq.length < 8 →
        SendsRecorded (.vldTake d a w sc o im5) 3 d ev 0 sc o s ∧ SendsRecorded (.vstFill d a w sc o im5) 4 d ev (s.hart.vr d) sc o s ∧
        ∀ p ∈ [(Instr.vldTake d a w sc o im5, 3), (.vstFill d a w sc o im5, 4)], ∀ ps t, s.hart.holds = [] →
          accCheck s s.focus (feAcc p.2 ev sc o d (if p.2 = 3 then 0 else s.hart.vr d)) = .ok ps →
          s.blocked s.focus (feAcc p.2 ev sc o d (if p.2 = 3 then 0 else s.hart.vr d)) ps = false → Completes p.1 s t →
            ∃ q, t.hart.vq = s.hart.vq ++ [q] ∧ q.cost = 1 ∧ q.dest = none ∧ (q.op.isSome ↔ p.2 = 3)) ∧
      (8 ≤ s.hart.vq.length → Waits (.vldTake d a w sc o im5) s ∧ Waits (.vstFill d a w sc o im5) s))

/-- A waiting, taking or filling form traps with ILLEGAL 0x20 while an exhausted record stands, and waits while one is outstanding; so
does PARK (R64). PARK without a record has no effect (R72, R247). -/
def Obligations.RecordGates : Prop :=
  ∀ (s : State) (d a : Reg) (w : Bool) (sc : Scope) (o : Ord) (imm : BitVec 8) (im5 : BitVec 5),
    (s.hart.feV = true → s.hart.fePend = false →
      let ill : Posted := { cause := 0x01, info := 0x20, addr := none }
      Traps (.ldWait d a w sc o imm) ill s ∧ Traps (.ldTake d a w sc o imm) ill s ∧ Traps (.stFill d a w sc o imm) ill s ∧
      Traps (.vldTake d a w sc o im5) ill s ∧ Traps (.vstFill d a w sc o im5) ill s) ∧
    (s.hart.feV = true → s.hart.fePend = true →
      Waits .park s ∧
      (s.hart.ready [gRef d, gRef a, vRef d] = true →
        Waits (.ldWait d a w sc o imm) s ∧ Waits (.ldTake d a w sc o imm) s ∧ Waits (.stFill d a w sc o imm) s ∧
        Waits (.vldTake d a w sc o im5) s ∧ Waits (.vstFill d a w sc o im5) s)) ∧
    (s.hart.feV = false → NoEffect .park s)

namespace Sys2Proof.Machine

/-- The hart in focus has an exhausted record, not linked, of bytes of its own slice, and nothing stands in the way of a PARK. -/
def Parks (s : State) (off n : Nat) : Prop :=
  s.mem.wf = true ∧ Unheld s ∧ NoParkRecord s ∧ s.hart.feV = true ∧ s.hart.fePend = false ∧ s.hart.feLinked = false ∧
    OwnBytes s.hart.rbufVa off n ∧ s.resident s.focus.tile = true

/-- The hart in focus is suspended with its record linked, and a request to link it goes to its bucket (R68, R72). -/
def Suspends (s t : State) : Prop :=
  Completes .park s t ∧ t.hart.feV = true ∧ t.hart.feLinked = true ∧ t.hart.feWoken = false ∧ t.hart.run = .parked ∧
    t.hart.pc = s.hart.pc ∧ SameG s.hart t.hart ∧ ∃ p ∈ t.parkReqs, ∃ q, p.2 = .link q ∧ q.hart = some s.focus ∧ q.kind = s.hart.feKind

/-- A PARK meets POISON (R60, R72): the record ends, memory stays, and POISON is posted with an address. -/
def ParkPoisoned (va : Word) (s t : State) : Prop :=
  Completes .park s t ∧ t.hart.feV = false ∧ SameMemory s t ∧
    ∃ p, t.hart.posted = s.hart.posted ++ [p] ∧ p.cause = 0x09 ∧ p.addr = some va

/-- A filling PARK that finds its word or its line full (R72, R75): with a place in the fill-wait table it is linked there and suspends;
without one it tries again after CAP cycles. -/
def FillerWaits (s : State) (off : Nat) : Prop :=
  let key := parkKey (s.ownHome off)
  let room := key ∈ (s.tile s.focus.tile).fillWait ∨ (s.tile s.focus.tile).fillWait.length < 16
  (room → ∃ t, Suspends s t ∧ SameMemory s t ∧ key ∈ (t.tile s.focus.tile).fillWait) ∧
  (¬room → ∃ t, Completes .park s t ∧ t.hart.feV = true ∧ t.hart.feLinked = false ∧ t.hart.run = .parked ∧ t.hart.pc = s.hart.pc ∧
    SameMemory s t ∧ SameG s.hart t.hart ∧ t.hart.parkDue = some (s.now + bits s.hart.sy.retry 28 12))

/-- The tag of word i of a line of the own slice. -/
def State.lineTag (s : State) (off i : Nat) : Tag := s.tagOf (s.ownHome (off + 8 * i))

end Sys2Proof.Machine

/-- A PARK on an exhausted record whose word, or line, lies in the own slice makes one attempt (R57, R60, R72, R75): where it can proceed the
record ends, a load's register receives the value and is FULL, a taken word is EMPTY, or PARKED when the wake carried MORE, a filled one
holds the data and is FULL, and the instruction completes; an access that meets POISON ends with a load's register zero and FULL, and
POISON posted; else a load leaves PARKED, links the record and suspends, and so does a fill with a place in the fill-wait table, which
without a place tries again after CAP cycles. The records of VLD.TAKE and VST.FILL act so on the eight words of their line (R270). -/
def Obligations.ParkForms : Prop :=
  (∀ (s : State) (off : Nat), Parks s off 8 →
    let tag := s.tagOf (s.ownHome off)
    (s.hart.feKind = 0 ∨ s.hart.feKind = 1 →
      (tag = .full →
        ∃ t, Completes .park s t ∧ t.hart.feV = false ∧ WritesG s.hart.feReg (s.readWord (s.ownHome off)) s.hart t.hart ∧
          t.hart.full .g s.hart.feReg = true ∧ NextWord s.hart t.hart ∧
          t.tagOf (s.ownHome off) = if s.hart.feKind = 1 then if s.hart.more then .parked else .empty else .full) ∧
      (tag = .poison → ∃ t, ParkPoisoned s.hart.rbufVa s t ∧ WritesG s.hart.feReg 0 s.hart t.hart ∧ t.hart.full .g s.hart.feReg = true) ∧
      (tag = .empty ∨ tag = .parked → s.hart.sy.preq.getLsbD 0 = false →
        ∃ t, Suspends s t ∧ t.tagOf (s.ownHome off) = .parked)) ∧
    (s.hart.feKind = 2 →
      (tag = .empty ∨ tag = .parked →
        ∃ t, Completes .park s t ∧ t.hart.feV = false ∧ SameG s.hart t.hart ∧ NextWord s.hart t.hart ∧
          t.tagOf (s.ownHome off) = .full ∧ t.readNat (s.ownHome off) 8 = s.hart.rbufVal.toNat % 2 ^ 64) ∧
      (tag = .poison → ∃ t, ParkPoisoned s.hart.rbufVa s t ∧ SameG s.hart t.hart) ∧
      (tag = .full → s.hart.sy.preq.getLsbD 0 = false → FillerWaits s off))) ∧
  (∀ (s : State) (off : Nat), Parks s off 64 →
    let tag := s.lineTag off
    let r := s.hart.feReg
    (∀ i < 8, tag i = .poison → (∀ j < i, tag j ≠ .poison) →
      (s.hart.feKind = 3 → ∃ t, ParkPoisoned (s.hart.rbufVa + BitVec.ofNat 64 (8 * i)) s t ∧ t.hart.vr r = 0 ∧ t.hart.full .v r = true) ∧
      (s.hart.feKind = 4 → ∃ t, ParkPoisoned (s.hart.rbufVa + BitVec.ofNat 64 (8 * i)) s t ∧ t.hart.v = s.hart.v)) ∧
    (s.hart.feKind = 3 →
      ((∀ i < 8, tag i = .full) →
        ∃ t, Completes .park s t ∧ t.hart.feV = false ∧ t.hart.full .v r = true ∧ SameG s.hart t.hart ∧ NextWord s.hart t.hart ∧
          ∀ i < 8, elem (t.hart.vr r) 8 i = s.readNat (s.ownHome (off + 8 * i)) 8 ∧
            t.lineTag off i = if s.hart.more then .parked else .empty) ∧
      ((∀ i < 8, tag i ≠ .poison) → (∃ i < 8, tag i ≠ .full) → s.hart.sy.preq.getLsbD 0 = false →
        ∃ t, Suspends s t ∧ ∀ i < 8, t.lineTag off i = if tag i = .full then .full else .parked)) ∧
    (s.hart.feKind = 4 →
      ((∀ i < 8, tag i = .empty ∨ tag i = .parked) →
        ∃ t, Completes .park s t ∧ t.hart.feV = false ∧ SameG s.hart t.hart ∧ t.hart.v = s.hart.v ∧ NextWord s.hart t.hart ∧
          ∀ i < 8, t.lineTag off i = .full ∧ t.readNat (s.ownHome (off + 8 * i)) 8 = elem s.hart.rbufVal 8 i) ∧
      ((∀ i < 8, tag i ≠ .poison) → (∃ i < 8, tag i = .full) → s.hart.sy.preq.getLsbD 0 = false → FillerWaits s off)))

/-- PREF never traps, never waits, and changes no register, no tag and no byte of memory (R51, R248). FENCE completes at once: at .h it
has no effect; at a wider scope .acq and .sc hold the hart's later accesses and .rel its later writes, until those issued before are
performed (R132, R134, R254). -/
def Obligations.PrefetchAndFenceForms : Prop :=
  ∀ (s : State) (a : Reg) (w : Bool) (imm : BitVec 8) (k : FenceKind) (sc : Scope),
    (∃ t, Passes (.pref a w imm) s t ∧ t.hart.gFull = s.hart.gFull ∧ t.hart.vFull = s.hart.vFull ∧ t.hart.posted = s.hart.posted) ∧
    NoEffect (.fence k .h) s ∧
    (sc ≠ .h → ∃ t, Passes (.fence k sc) s t ∧ (∀ x ∈ s.hart.holds, x ∈ t.hart.holds) ∧
      ∃ x ∈ t.hart.holds, x.upto = t.nextId ∧ s.nextId ≤ t.nextId ∧ x.single = false ∧ x.reads = true ∧
        (k = .acq ∨ k = .sc → x.stops = true) ∧ (k = .rel → x.stopsWr = true ∧ x.writes = true) ∧ (k = .sc → x.writes = true))

namespace Sys2Proof.Machine

/-- Of a hart, nothing has changed but its vector queue and what every completed instruction may change. -/
def SameButQueue (x y : Hart) : Prop :=
  y = { x with vq := y.vq, pc := y.pc, rpt := y.rpt, run := y.run, misses := y.misses, stepPend := y.stepPend,
               sy := { x.sy with rptstate := y.sy.rptstate } }

/-- The form i enters the vector queue (R154, R256): the queue gains one operation of a cost, which writes to a register a value
that satisfies p; nothing else of the hart or of the machine changes. -/
def Queues (i : Instr) (cost : Nat) (dest : RegRef) (p : VWord → Prop) (s : State) : Prop :=
  ∃ t v, Completes i s t ∧ p v ∧ t.hart.vq = s.hart.vq ++ [{ cost := cost, dest := some dest, val := v, op := none }] ∧
    NextWord s.hart t.hart ∧ SameButQueue s.hart t.hart ∧ OnlyHart s t ∧ SameMemory s t

/-- A vector register whose active elements are f of their number, and whose other elements are as in the old one (R259). -/
def Lanes (h : Hart) (t : EType) (k : KReg) (old : VWord) (f : Nat → Nat) (v : VWord) : Prop :=
  ∀ i, i < t.lanes → elem v t.bytes i = if h.active k t.bytes i then f i % 2 ^ t.bits else elem old t.bytes i

/-- The integer that an element denotes: two's complement for .SI types, unsigned for .UI8 (R260). -/
def laneInt (t : EType) (v : VWord) (i : Nat) : Int := intOf t.signed t.bits (elem v t.bytes i)

/-- The forms with two vector sources on numbers: what they compute on integers and on floating values (R261). -/
def laneForms : List ((Reg → Reg → Reg → Bool → KReg → EType → Instr) × (Int → Int → Int → Int) × (Val → Val → Val → Val)) :=
  [(.vadd, fun x y _ => x + y, fun x y _ => x.add y), (.vsub, fun x y _ => x - y, fun x y _ => x.add y.neg),
   (.vmul, fun x y _ => x * y, fun x y _ => x.mul y), (.vfma, fun x y z => x * y + z, fun x y z => (x.mul y).add z),
   (.vmin, fun x y _ => min x y, fun x y _ => x.min y), (.vmax, fun x y _ => max x y, fun x y _ => x.max y)]

/-- The forms with two vector sources on bits: what they compute on elements of n bits (R261). -/
def bitForms : List ((Reg → Reg → Reg → Bool → KReg → EType → Instr) × (Nat → Nat → Nat → Nat)) :=
  [(.vand, fun _ x y => x &&& y), (.vor, fun _ x y => x ||| y), (.vxor, fun _ x y => x ^^^ y),
   (.vshl, fun n x y => x * 2 ^ (y % n)), (.vshr, fun n x y => x / 2 ^ (y % n)),
   (.vsar, fun n x y => lowBits n (intOf true n x / 2 ^ (y % n)))]

/-- The transcendental forms and their functions (R199, R266). -/
def transForms : List ((Reg → Reg → Bool → KReg → EType → Instr) × (Val → Val)) :=
  [(.vexp2, exp2V), (.vrcp, rcpV), (.vrsq, rsqV), (.vsig, sigV)]

/-- The hart has room in its vector queue, and every register named can be used. -/
def Hart.vready (h : Hart) (rs : List RegRef) : Prop := h.ready rs = true ∧ h.vq.length < 8

end Sys2Proof.Machine

/-- The elementwise vector forms (R154, R155, R256, R259 to R261, R266): each enters the queue with cost 1 and the result that its row
gives for every active element; the others keep the old contents of the destination. -/
def Obligations.VectorLaneForms : Prop :=
  ∀ (s : State) (d a b : Reg) (w : Bool) (k : KReg) (t : EType),
    s.hart.vready ([vRef a, vRef b, vRef d] ++ maskRef k) →
    let h := s.hart
    (∀ f ∈ laneForms, Queues (f.1 d a b w k t) 1 (vRef d) (Lanes h t k (h.vr d) fun i =>
      match t.ffmt with
      | none => lowBits t.bits (f.2.1 (laneInt t (h.vr a) i) (laneInt t (h.vr b) i) (laneInt t (h.vr d) i))
      | some g => encodeF g false false (f.2.2 (decodeF g false (elem (h.vr a) t.bytes i)) (decodeF g false (elem (h.vr b) t.bytes i))
          (decodeF g false (elem (h.vr d) t.bytes i)))) s) ∧
    (∀ f ∈ bitForms, t.isInt = true → Queues (f.1 d a b w k t) 1 (vRef d) (Lanes h t k (h.vr d) fun i =>
      f.2 t.bits (elem (h.vr a) t.bytes i) (elem (h.vr b) t.bytes i)) s) ∧
    Queues (.vabs d a w k t) 1 (vRef d) (Lanes h t k (h.vr d) fun i =>
      match t.ffmt with
      | none => (laneInt t (h.vr a) i).natAbs
      | some g => if (decodeF g false (elem (h.vr a) t.bytes i)).isNan then g.nan false
          else elem (h.vr a) t.bytes i % 2 ^ (t.bits - 1)) s ∧
    Queues (.vneg d a w k t) 1 (vRef d) (Lanes h t k (h.vr d) fun i =>
      match t.ffmt with
      | none => lowBits t.bits (-laneInt t (h.vr a) i)
      | some g => if (decodeF g false (elem (h.vr a) t.bytes i)).isNan then g.nan false
          else elem (h.vr a) t.bytes i ^^^ 2 ^ (t.bits - 1)) s ∧
    (∀ f ∈ transForms, ∀ g, t.isTrans = true → t.ffmt = some g → Queues (f.1 d a w k t) 1 (vRef d) (Lanes h t k (h.vr d) fun i =>
      encodeF g false false (f.2 (decodeF g false (elem (h.vr a) t.bytes i)))) s)

/-- The vector forms that compare, select, broadcast, extract, permute, convert, reduce and draw random bits (R262 to R265, R267). -/
def Obligations.VectorMoveForms : Prop :=
  ∀ (s : State) (d a b : Reg) (w : Bool) (k m : KReg) (t : EType) (fmt : BitVec 5) (sat : Bool) (c : Cond),
    s.hart.vready ([vRef a, vRef b, vRef d, gRef a, gRef b, gRef d, kRef m] ++ maskRef k) →
    let h := s.hart
    Queues (.vcmp m a b w k t c) 1 (kRef m) (fun v => v.toNat < 2 ^ 64 ∧ ∀ i, i < t.lanes → ∀ j, j < t.bytes →
      v.getLsbD (t.bytes * i + j) = (h.active k t.bytes i && condE c t (elem (h.vr a) t.bytes i) (elem (h.vr b) t.bytes i))) s ∧
    (m ≠ 0 → Queues (.vsel d a b w m t) 1 (vRef d) (fun v => ∀ i, i < t.lanes →
      elem v t.bytes i = elem (if (h.kr m).getLsbD (t.bytes * i) then h.vr a else h.vr b) t.bytes i) s) ∧
    Queues (.vbcast d a w k t) 1 (vRef d) (Lanes h t k (h.vr d) fun _ => (h.gr a).toNat) s ∧
    Queues (.vmovg d a b w t) 1 (gRef d) (fun v =>
      let x := elem (h.vr a) t.bytes ((h.gr b).toNat % t.lanes)
      v = ((if t.ffmt = none ∧ t ≠ .ui8 then (BitVec.ofNat t.bits x).signExtend 64 else BitVec.ofNat 64 x)).setWidth 512) s ∧
    Queues (.vperm d a b w k t) 1 (vRef d)
      (Lanes h t k (h.vr d) fun i => elem (h.vr a) t.bytes (elem (h.vr b) t.bytes i % t.lanes)) s ∧
    (cvtOk fmt = true → Queues (.vcvt d a fmt w k t sat) 1 (vRef d) (fun v =>
      let wd := (fmtOf fmt.toNat).laneBits
      let n := Nat.min (512 / t.bits) (512 / wd)
      (∀ i, i < n → (v.toNat >>> (wd * i)) % 2 ^ wd =
        if h.active k t.bytes i then (fmtOf fmt.toNat).encode h.nm sat (t.fmt.decode h.nm (elem (h.vr a) t.bytes i)) % 2 ^ wd
        else ((h.vr d).toNat >>> (wd * i)) % 2 ^ wd) ∧ v.toNat < 2 ^ (n * wd)) s) ∧
    (∀ op, Queues (.vred d a w k t op) 1 (gRef d) (fun v =>
      let is := ((List.range t.lanes).filter (h.active k t.bytes)).map fun i => laneInt t (h.vr a) i
      v = (reduce op t (((List.range t.lanes).filter (h.active k t.bytes)).map fun i => elem (h.vr a) t.bytes i)).setWidth 512 ∧
      (t.ffmt = none → op = .add → v = (BitVec.ofInt 64 is.sum).setWidth 512) ∧
      (t.ffmt = none → op = .min → is ≠ [] → ∃ x ∈ is, v = (BitVec.ofInt 64 x).setWidth 512 ∧ ∀ y ∈ is, x ≤ y) ∧
      (t.ffmt = none → op = .max → is ≠ [] → ∃ x ∈ is, v = (BitVec.ofInt 64 x).setWidth 512 ∧ ∀ y ∈ is, y ≤ x)) s) ∧
    Queues (.vrand d a b w) 4 (vRef d) (fun v => ∀ i, i < 4 →
      natBytes 16 (v.toNat >>> (128 * i)) =
        aes128 (natBytes 16 (h.vr a).toNat) (natBytes 16 ((h.vr b).toNat + i))) s

/-- The mask operations complete at once and write one k register, or g[d] for TOG (R268); TOG raises OVERWRITE_PENDING where g[d] awaits an
asynchronous write (R78, R256; log entry 59), and FROMG waits for an empty g[a]. -/
def Obligations.MaskForms : Prop :=
  (∀ (s : State) (d a : KReg) (g : Reg), s.hart.full .g g = false → Traps (.kopTog g a) (overwrite g) s ∧ Waits (.kopFromg d g) s) ∧
  ∀ (s : State) (d a b : KReg) (g : Reg), s.hart.ready [kRef d, kRef a, kRef b, gRef g] = true →
    let writesK := fun (i : Instr) (v : Word) =>
      ∃ t, Completes i s t ∧ (∀ r, t.hart.kr r = if r = d then v else s.hart.kr r) ∧ NextWord s.hart t.hart ∧
        SameButG { s.hart with k := t.hart.k } t.hart ∧ SameG s.hart t.hart ∧ OnlyHart s t ∧ SameMemory s t
    let x := s.hart.kr a
    let y := s.hart.kr b
    writesK (.kopAnd d a b) (x &&& y) ∧ writesK (.kopOr d a b) (x ||| y) ∧ writesK (.kopXor d a b) (x ^^^ y) ∧
    writesK (.kopAndn d a b) (x &&& ~~~y) ∧ writesK (.kopNot d a) (~~~x) ∧ writesK (.kopFromg d g) (s.hart.gr g) ∧
    WritesOnlyG (.kopTog g a) g x s

namespace Sys2Proof.Machine

/-- The hart of a tile whose turn comes n turns after the one that now has it (R154). -/
def State.turnAt (s : State) (t : TileId) (n : Nat) : HartId := ⟨t, (s.tile t).turn + BitVec.ofNat 2 n⟩

/-- The deficit counter that a hart has for its turn (R154): the quantum of SY.VSHARE is added when the turn opens, to at most 63 more. -/
def State.turnCredit (s : State) (h : HartId) : Int :=
  let weight : Int := bits (s.hartOf h).sy.vshare 0 4
  let held := (s.tile h.tile).dc.getD h.num.toNat 0
  if (s.tile h.tile).opened.getD h.num.toNat false then held else min (held + weight) (weight + 63)

/-- The turn passes by a hart (R154): its queue is empty, or its deficit does not cover the cost at its head. -/
def State.turnPasses (s : State) (h : HartId) : Prop :=
  match (s.hartOf h).vq with
  | [] => True
  | o :: _ => s.turnCredit h < o.cost

/-- What a turn that passes by a hart leaves of its deficit counter (R154): 0 where its queue is empty, else what it had for the turn. -/
def State.passedCredit (s : State) (h : HartId) : Int := if (s.hartOf h).vq = [] then 0 else s.turnCredit h

/-- What an operation at the head of a hart's queue does when it issues (R154, R257): a queued result is written to its register; the entry
of a memory access, whose value comes as an asynchronous register write, only leaves the queue. -/
def issuedHead (o : VOp) (rest : List VOp) (h : Hart) : Hart :=
  match o.dest, o.op with
  | some r, none => { h with vq := rest }.writeReg r.1 r.2 o.val
  | _, _ => { h with vq := rest }

end Sys2Proof.Machine

/-- VECTOR_ISSUE (R154, R155): the turn passes by harts whose queue is empty, or whose deficit does not cover the cost at their head, and
comes to the first whose deficit covers it. That operation leaves the queue, at its cost, and its hart keeps the turn; no other hart and no
byte of memory changes. Where the turn passes by all four, nothing issues. -/
def Obligations.VectorUnitIssues : Prop :=
  ∀ (s : State) (t : TileId), (s.mapEntry t).st = .resident →
    (∀ (n : Nat) (o : VOp) (rest : List VOp), n < 4 → (∀ m < n, s.turnPasses (s.turnAt t m)) →
      let j := s.turnAt t n
      (s.hartOf j).vq = o :: rest → (o.cost : Int) ≤ s.turnCredit j →
        ∃ u, Completes (.vectorIssue t) s u ∧ u.hartOf j = issuedHead o rest (s.hartOf j) ∧
          (u.tile t).dc.getD j.num.toNat 0 = s.turnCredit j - o.cost ∧ (u.tile t).turn = j.num ∧ u.mem = s.mem ∧
          (∀ m < n, (u.tile t).dc.getD (s.turnAt t m).num.toNat 0 = s.passedCredit (s.turnAt t m)) ∧
          ∀ x, x ≠ j → u.hartOf x = s.hartOf x) ∧
    ((∀ m < 4, s.turnPasses (s.turnAt t m)) →
      ∃ u, Completes (.vectorIssue t) s u ∧ (u.tile t).turn = (s.tile t).turn ∧ u.mem = s.mem ∧
        (∀ m < 4, (u.tile t).dc.getD (s.turnAt t m).num.toNat 0 = s.passedCredit (s.turnAt t m)) ∧
        ∀ x, u.hartOf x = s.hartOf x)

namespace Sys2Proof.Machine

/-- The form i sends the vector access a (R256, R257): as every form sends its access, and an operation of its cost, with no result of
its own, enters the vector queue. -/
def SendsVector (i : Instr) (a : Acc) (cost : Nat) (s : State) : Prop :=
  SendsAccess i a s ∧
  ∀ ps t, s.hart.holds = [] → accCheck s s.focus a = .ok ps → s.blocked s.focus a ps = false → a.atOnce = false → Completes i s t →
    t.hart.vq = s.hart.vq ++ [{ cost := cost, dest := none, val := 0, op := if a.dest.isSome then some s.nextId else none }]

/-- The 64 bytes at an offset of the own slice hold no POISON. -/
def CleanLine (s : State) (off : Nat) : Prop := ∀ j, j < 64 → s.tagOf (s.ownHome (off + j)) ≠ .poison

end Sys2Proof.Machine

/-- The vector memory forms send the accesses of their active elements (R256, R257, R259, R269, R271), VGATH and VSCAT with one cycle of
cost for each 64-byte line they touch (R155). -/
def Obligations.VectorAccessesIssue : Prop :=
  ∀ (s : State) (d a b : Reg) (w : Bool) (k : KReg) (sc : Scope) (o : Ord) (z : Size) (t : EType) (imm : BitVec 5),
    s.hart.vready ([gRef a, gRef b, vRef b, vRef d] ++ maskRef k) →
    let h := s.hart
    let ea := h.gr a + imm.signExtend 64 * 64
    let els := vecExts h k z.bytes fun i => ea + BitVec.ofNat 64 (z.bytes * i)
    let strided := vecExts h k t.bytes fun i => h.gr a + BitVec.ofNat 64 i * h.gr b
    let indexed := vecExts h k t.bytes fun i => h.gr a + BitVec.ofNat 64 t.bytes * (BitVec.ofNat t.bits (elem (h.vr b) t.bytes i)).signExtend 64
    SendsVector (.vld d a w k sc o z imm) (vecAcc true els z.bytes sc o.isAcq false d (h.vr d)) 1 s ∧
    SendsVector (.vst d a w k sc o z imm) (vecAcc false els z.bytes sc false o.isRel d (h.vr d)) 1 s ∧
    SendsVector (.vlds d a b w k t) (vecAcc true strided t.bytes .w false false d (h.vr d)) 1 s ∧
    SendsVector (.vgath d a b w k t) (vecAcc true indexed t.bytes .w false false d (h.vr d)) (linesOf indexed) s ∧
    SendsVector (.vscat d a b w k t) (vecAcc false indexed t.bytes .w false false d (h.vr d)) (linesOf indexed) s

/-- VLD and VST of a line of the own slice through the alias: VLD queues a result whose active elements are the bytes in memory, VST
writes its active elements, makes their words FULL, and changes no other byte (R57, R257, R259, R269). -/
def Obligations.OwnSliceVectors : Prop :=
  ∀ (s : State) (d a : Reg) (w : Bool) (k : KReg) (sc : Scope) (o : Ord) (z : Size) (imm : BitVec 5) (off : Nat),
    let n := z.bytes
    let va := s.hart.gr a + imm.signExtend 64 * 64
    s.mem.wf = true → s.hart.vready ([gRef a, vRef d] ++ maskRef k) → Unheld s → CleanLine s off →
    va.toNat = 0x1F00000000000000 + off → off + 64 ≤ 2 ^ 22 → off % n = 0 →
      (∃ t v, Completes (.vld d a w k sc o z imm) s t ∧ SameMemory s t ∧ SameG s.hart t.hart ∧
        t.hart.vq = s.hart.vq ++ [{ cost := 1, dest := some (vRef d), val := v, op := none }] ∧
        ∀ i, i < 64 / n → elem v n i =
          if s.hart.active k n i then s.readNat (s.ownHome (off + n * i)) n else elem (s.hart.vr d) n i) ∧
      (∃ t, Completes (.vst d a w k sc o z imm) s t ∧ SameG s.hart t.hart ∧
        (∀ i, i < 64 / n → s.hart.active k n i = true →
          t.readNat (s.ownHome (off + n * i)) n = elem (s.hart.vr d) n i ∧ t.tagOf (s.ownHome (off + n * i)) = .full) ∧
        ∀ x, (∀ i, i < 64 / n → s.hart.active k n i = true →
            ¬((s.ownHome (off + n * i)).key ≤ x ∧ x < (s.ownHome (off + n * i)).key + n)) →
          t.mem.byte x = s.mem.byte x)

/-- Where an access traps before it starts (R12, R45, R47, R109): an unmapped address, the peer-wafer window, the device-register window
in U mode, or in S mode for a form that may not use it, and an address that is not aligned as its form needs. That U mode's PRIV comes before
DEV_MODE for a form that may not use the window is the model's choice, log entry 56; that ALIGN comes before both there is its reading, log
entry 24. -/
def Obligations.AccessTraps : Prop :=
  ∀ (s : State) (d a b : Reg) (w z : Bool) (sc : Scope) (o : Ord) (imm : BitVec 8) (n : BitVec 6),
    s.hart.ready [gRef d, gRef a, gRef b] = true → s.hart.holds = [] → s.hart.feV = false →
    let ea := s.hart.gr a + imm.signExtend 64 * 8
    let fault := fun (cause info : Nat) (va : Word) => ({ cause := cause, info := BitVec.ofNat 64 info, addr := some va } : Posted)
    let plain : List Instr := [.ld d a w .d sc o imm, .st d a w .d sc o imm]
    let whole : List Instr := [.stEmpty d a w sc o imm, .ldWait d a w sc o imm, .ldTake d a w sc o imm, .stFill d a w sc o imm]
    let all := plain ++ [.lds d a w .d sc o imm] ++ whole
    (ea.toNat % 8 = 0 → range ea = .none → ∀ i ∈ all, Traps i (fault 0x04 0x01 ea) s) ∧
    (ea.toNat % 8 = 0 → (∃ x y, range ea = .peer x y) → ∀ i ∈ all, Traps i (fault 0x05 0x09 ea) s) ∧
    (ea.toNat % 8 = 0 → (∃ x, range ea = .dev x) →
      (bits s.hart.sy.status 0 2 = 0 → ∀ i ∈ all, Traps i (fault 0x02 0x0C ea) s) ∧
      (bits s.hart.sy.status 0 2 ≠ 0 → ∀ i ∈ [.lds d a w .d sc o imm] ++ whole, Traps i (fault 0x05 0x0A ea) s)) ∧
    (ea.toNat % 8 ≠ 0 → (∀ i ∈ whole, Traps i (fault 0x03 0 ea) s) ∧
      ((∃ x, range ea = .dev x) → ∀ i ∈ plain, Traps i (fault 0x03 0 ea) s)) ∧
    ((s.hart.gr a).toNat % (if z then 8 else 4) ≠ 0 → ∀ f ∈ amoForms, Traps (f.1 d a b w z sc o) (fault 0x03 0 (s.hart.gr a)) s) ∧
    ((s.hart.gr a).toNat % 8 ≠ 0 → Traps (.ship d a b w n sc o) (fault 0x03 0 (s.hart.gr a)) s)

namespace Sys2Proof.Machine

/-- The route of a piece of an access in flight. -/
def State.routeAt (s : State) (id n : Nat) : Option Route := (s.op? id).bind fun q => (q.parts[n]?).map (·.route)

/-- The step i performs piece n of an access at its home as attempt k, on the state u: memory is as the action on the piece leaves it;
a finished piece's value goes with the access; a wait schedules the next attempt after min(BASE · 2^k, CAP) cycles, and with no budget
left ends the access, with PEND = 0 and EMPTY_WAIT to be taken; a taking access whose wake carried MORE leaves PARKED (R57, R62, R66,
R74). -/
def Attempts (i : Instr) (o : MemOp) (n k : Nat) (p : Part) (s u : State) : Prop :=
  ∀ s' r, u.perform o.kind p o.val o.x o.y (u.hartOf o.hart).more = (s', r) → ∃ t, Completes i s t ∧ t.mem = s'.mem ∧
    (∀ v, r = .done v → t.routeAt o.id n = some .done ∧ ∃ q, t.op? o.id = some q ∧ q.val = v) ∧
    (∀ va, r = .poison va → t.routeAt o.id n = some (.poison va)) ∧
    (r = .wait → k < o.sched.2.2 → t.routeAt o.id n = some (.retry (k + 1) (u.now + min (o.sched.1 * 2 ^ k) o.sched.2.1))) ∧
    (r = .wait → o.sched.2.2 ≤ k → t.op? o.id = none ∧ (t.hartOf o.hart).fePend = false ∧
      ∃ x ∈ (t.hartOf o.hart).posted, x.cause = 0x08 ∧ x.addr = some (p.va + BitVec.ofNat 64 p.at0))

/-- The step i completes and moves piece n of an access to a route. -/
def Reroutes (i : Instr) (id n : Nat) (r : Route) (s t : State) : Prop := Completes i s t ∧ t.mem = s.mem ∧ t.routeAt id n = some r

end Sys2Proof.Machine

/-- Steps at the homes (after parts of R24, R25, R36, R62, R84, R88, R104, R106, R114): a slice bank, a chandler's frame or loft slot, and
a host port perform the piece that has reached them; a bank that no longer serves the slice answers STALE, a stack that does not hold the
page REROUTE; a home re-attempts a waiting access when it is due, a slice that has frozen returns it to its NI, and a page that is no longer
VALID ends it with POISON and a record (R37). -/
def Obligations.HomesServe : Prop :=
  ∀ (s : State) (o : MemOp) (n : Nat) (p : Part), s.piece o.id n = some (o, p) →
    (∀ v off gen, p.home = .slice v off → p.route = .sent gen →
      (s.bankServes o v gen = true → Attempts (.sliceBankAccess o.id n) o n 0 p s s) ∧
      (s.bankServes o v gen = false → ∃ t, Reroutes (.sliceBankAccess o.id n) o.id n .stale s t)) ∧
    (∀ dpa stk frame, p.home = .hbm dpa → p.route = .stack stk frame →
      (s.frameOwned dpa stk frame = true → Attempts (.chandlerAccess o.id n) o n 0 p s (s.track (s.fromTile o.hart.tile) p.home)) ∧
      (s.frameOwned dpa stk frame = false → ∃ t, Reroutes (.chandlerAccess o.id n) o.id n .reroute s t)) ∧
    (∀ v off, p.home = .slice v off → p.route = .loft →
      ((s.mapEntry v).st = .absent → (s.mapEntry v).fresh = false → Attempts (.chandlerAccess o.id n) o n 0 p s s) ∧
      ((s.mapEntry v).st = .resident → ∃ t, Reroutes (.chandlerAccess o.id n) o.id n .stale s t)) ∧
    (∀ port hpa, p.home = .host port hpa → p.route = .port → Attempts (.hostPortAccess o.id n) o n 0 p s s) ∧
    (∀ k due rest, n = 0 → o.parts = p :: rest → p.route = .retry k due →
      (s.pageOk p.home = true → s.homeServes o.hart p.home = true → Attempts (.homeRetryAttempt o.id) o 0 k p s (s.reach due)) ∧
      (s.pageOk p.home = true → s.homeServes o.hart p.home = false → ∃ t, Reroutes (.homeRetryAttempt o.id) o.id 0 .held s t) ∧
      (s.pageOk p.home = false → ∃ t, Reroutes (.homeRetryAttempt o.id) o.id 0 (.poison (p.va + BitVec.ofNat 64 p.at0)) s t ∧ ∃ e ∈ t.errors, e.kind = 0x04))

/-- The steps that end an access (R60, R77, R242, R428): the value of a load-class access fills its register and wakes a sleeping hart;
POISON zeroes the register and waits for the boundary; a store's acknowledgement ends it; a recorded access ends its record, with PEND = 0 beside
V = 0 (log entry 31); a prefetch and a flushing read end with no effect on any hart (R106, R248). -/
def Obligations.ResultsArrive : Prop :=
  ∀ (s : State) (o : MemOp), s.op? o.id = some o → o.over = true →
    (o.isPref = true ∨ o.kind = .flush → Completes (.asyncRegisterWrite o.id) s (s.dropOp o.id)) ∧
    (o.kind.storeLike = false → o.isRefill = false → o.kind ≠ .load 0 false → o.kind ≠ .flush → (∀ q ∈ (s.hartOf o.hart).vq, q.op ≠ some o.id) →
      ∃ t, Completes (.asyncRegisterWrite o.id) s t ∧ t.op? o.id = none ∧
        (let x := s.hartOf o.hart
         let y := t.hartOf o.hart
         let v := match o.poisoned with | some _ => 0 | none => o.kind.result o.val
         (∀ r, o.dest = some (.g, r) → WritesG r (v.setWidth 64) x y ∧ y.full .g r = true) ∧
         (∀ r, o.dest = some (.v, r) → y.vr r = v ∧ y.full .v r = true ∧ SameG x y) ∧
         (∀ va, o.poisoned = some va → y.posted = x.posted ++ [{ cause := 0x09, info := 0, addr := some va }]) ∧
         (o.dest ≠ none → (x.run = .sleeping → y.run = .running) ∧ (x.run ≠ .sleeping → y.run = x.run ∧ y.latch = true)) ∧
         (o.dest = none → y.run = x.run ∧ y.latch = x.latch) ∧
         (∀ k, o.kind = .fe k → y.feV = false ∧ y.fePend = false)) ∧
        ((∀ k, o.kind ≠ .fe k) → t.mem = s.mem)) ∧
    (o.kind.storeLike = true → o.who = [] →
      ∃ t, Completes (.storeAck o.id) s t ∧ t.op? o.id = none ∧
        (∀ k, o.kind = .fe k → (t.hartOf o.hart).feV = false ∧ (t.hartOf o.hart).fePend = false) ∧
        ((∀ k, o.kind ≠ .fe k) → o.poisoned = none → t.mem = s.mem ∧ ∀ h, t.hartOf h = s.hartOf h))

/-- The steps that route a piece (R20, R21, R22, R24, R36, R37): the anchor forwards it to the stack of a VALID page and its tile keeps
the entry, or ends it with POISON and a record; REROUTE and STALE drop the cached entry and go by the anchor or the map again; a map entry
that arrives routes the tile's accesses that wait for it, and a re-read those that are held; one with an uncorrectable error is not cached,
goes to firmware as a record, and leaves those accesses held. -/
def Obligations.RoutingSteps : Prop :=
  ∀ s : State,
    (∀ (o : MemOp) (n : Nat) (p : Part) (dpa : Nat), s.piece o.id n = some (o, p) → p.home = .hbm dpa →
      (p.route = .anchor → (s.dpitOf dpa).valid = true →
        ∃ t, Reroutes (.dpitAnchorLookup o.id n) o.id n (.stack (s.dpitOf dpa).stk (s.dpitOf dpa).frame) s t ∧
          (dpa / 65536, (s.dpitOf dpa).stk, (s.dpitOf dpa).frame) ∈ (t.tile o.hart.tile).dpit) ∧
      (p.route = .anchor → (s.dpitOf dpa).valid = false →
        ∃ t, Reroutes (.dpitAnchorLookup o.id n) o.id n (.poison (p.va + BitVec.ofNat 64 p.at0)) s t ∧ ∃ e ∈ t.errors, e.kind = 0x04) ∧
      (p.route = .reroute →
        ∃ t, Reroutes (.reroute o.id n) o.id n .anchor s t ∧ ∀ e ∈ (t.tile o.hart.tile).dpit, e.1 ≠ dpa / 65536)) ∧
    (∀ (o : MemOp) (n : Nat) (p : Part) (v : TileId) (off : Nat), s.piece o.id n = some (o, p) → p.home = .slice v off → p.route = .stale →
      ∃ t, Reroutes (.staleReply o.id n) o.id n .mapRead s t ∧ find v.vt (t.tile o.hart.tile).mapCache = none ∧
        v.vt ∈ (t.tile o.hart.tile).mapWants) ∧
    (∀ (tl : TileId) (vt : BitVec 20),
      let e := s.mapEntry { tab := tl.tab, vt := vt }
      (vt ∈ (s.tile tl).mapWants → s.entryBad { tab := tl.tab, vt := vt } = false →
        ∃ t, Completes (.tileMapRead tl vt) s t ∧ t.mem = s.mem ∧ find vt (t.tile tl).mapCache = some e ∧ vt ∉ (t.tile tl).mapWants ∧
          ∀ o ∈ t.ops, o.hart.tile = tl → ∀ q ∈ o.parts, ∀ u off, q.home = .slice u off → u.vt = vt → q.route ≠ .mapRead) ∧
      (s.entryBad { tab := tl.tab, vt := vt } = false → routeOf e ≠ .held →
        ∃ t, Completes (.tileMapReread tl vt) s t ∧ t.mem = s.mem ∧ find vt (t.tile tl).mapCache = some e ∧
          ∀ o ∈ t.ops, o.hart.tile = tl → ∀ q ∈ o.parts, ∀ u off, q.home = .slice u off → u.vt = vt → q.route ≠ .held) ∧
      (vt ∈ (s.tile tl).mapWants → s.entryBad { tab := tl.tab, vt := vt } = true →
        ∃ t, Completes (.tileMapRead tl vt) s t ∧ (∃ x ∈ t.errors, x.kind = 0x05 ∧ x.vt = vt) ∧ (t.tile tl).mapCache = (s.tile tl).mapCache ∧
          ∀ o ∈ t.ops, o.hart.tile = tl → ∀ q ∈ o.parts, ∀ u off, q.home = .slice u off → u.vt = vt → q.route ≠ .mapRead))

/-- The steps of walks, of the write-through buffer, of the L1 and of prefetches: a walk that fails reports its fault to the misses that
wait for it and to no other, an entry that a walk ends at goes into its tile's TLBs, the buffer's oldest line leaves, and a missed line is
read (after parts of R28 to R33, R50, R52, R91, R92, R147; what a
line of the loft reads as is log entry 79). -/
def Obligations.WalkAndCacheSteps : Prop :=
  ∀ s : State, s.latentUE = [] →
    (∀ (tl : TileId) (w : Walk), (s.tile tl).active.find? (fun x => x.id == w.id) = some w →
      let a := pteAddr w.table w.va w.level
      let e := s.loadWord (.hbm a)
      (s.dpitOf a).valid = true → s.tagOf (.hbm a) ≠ .poison →
      let fails := fun (reason : Nat) => ∃ t, Completes (.pageWalkRead tl w.id) s t ∧ t.mem = s.mem ∧
        (∀ x ∈ (t.tile tl).walks, x.id ≠ w.id) ∧ (∀ h, h ∉ w.harts → (t.hartOf h).misses = (s.hartOf h).misses) ∧
        ∀ h ∈ w.harts, ∀ m, m ∈ (t.hartOf h).misses ↔
          ∃ k ∈ (s.hartOf h).misses, m = if k.walk = w.id then { k with fault := some (reason, w.level) } else k
      (e.getLsbD 0 = false → fails 0x03) ∧
      (e.getLsbD 0 = true → pteReserved e w.level = true → fails 0x04) ∧
      (e.getLsbD 0 = true → pteReserved e w.level = false → e.getLsbD 1 = true →
        ∃ t, Completes (.pageWalkRead tl w.id) s t ∧ t.mem = s.mem ∧ (∀ x ∈ (t.tile tl).walks, x.id ≠ w.id) ∧
          (let n := pageBits w.level
           let entry : TlbEntry := { root := w.root, base := w.va / 2 ^ n * 2 ^ n, bits := n, leaf := e }
           entry ∈ (t.tile tl).tlb2 ∧ ∀ h ∈ w.harts, entry ∈ (t.hartOf h).tlb)) ∧
      (e.getLsbD 0 = true → pteReserved e w.level = false → e.getLsbD 1 = false →
        ∃ t, Completes (.pageWalkRead tl w.id) s t ∧ t.mem = s.mem ∧
          ∃ x ∈ (t.tile tl).walks, x.id = w.id ∧ x.level = w.level + 1 ∧ x.table = bits e 8 34 * 256)) ∧
    (∀ (tl : TileId) (l : WbLine) (rest : List WbLine), (s.tile tl).wbuf = l :: rest → l.rel = false →
      ∃ t, Completes (.writeBufferDrain tl) s t ∧ t.mem = s.mem ∧ (t.tile tl).wbuf = rest ∧
        ∃ o, t.ops = s.ops ++ [o] ∧ o.id = s.nextId ∧ o.kind = .store ∧ o.who = l.writes.map fun w => (w.1, w.2.1)) ∧
    (∀ (o : MemOp) (n : Nat) (p : Part), s.piece o.id n = some (o, p) → p.route = .l1 →
      let line := p.home.align 64
      s.lineBuffered o.hart.tile none o.id line = false → s.writesTo o.hart.tile line = [] → s.pageOk line = true →
      s.l1Find o.hart.tile line = none →
        ∃ t l, Completes (.l1LineFill o.id n) s t ∧ t.mem = s.mem ∧ t.l1Find o.hart.tile line = some l ∧
          l.data = BitVec.ofNat 512 (s.loadNat line 64)) ∧
    (∀ (tl : TileId) (l : L1Line), (s.tile tl).l1.find? (fun x => x.line == l.line) = some l →
      ∃ t, Completes (.l1LineExpiry tl l.line) s t ∧ t.mem = s.mem ∧ l.filled + 65536 ≤ t.now ∧ ∀ x ∈ (t.tile tl).l1, x.line ≠ l.line) ∧
    (∀ (h : HartId) (e : TlbEntry),
      let x := s.hartOf h
      let va := (x.pc.toNat / 64 + 1) * 64
      va < 2 ^ 48 → va / 64 < bits x.sy.flimit 6 42 → s.tlbFind h va = some e → leafX e.leaf = true → leafMT e.leaf = 0 →
      s.pageOk (leafHome e.leaf e.bits va) = true →
      (∀ w ∈ blockWords (leafHome e.leaf e.bits va), s.tagOf w ≠ .poison) → x.opFind va = none →
        ∃ t, Completes (.sequentialPrefetch h) s t ∧ t.mem = s.mem ∧ ((t.hartOf h).opFind va).isSome = true) ∧
    (∀ (h : HartId) (va : Word) (e : TlbEntry),
      (s.hartOf h).tlb.find? (fun e => e.covers (s.hartOf h).root va.toNat) = some e → range va = .paged → leafNC e.leaf = false →
      leafMT e.leaf = 0 → leafR e.leaf = true →
      let line := (leafHome e.leaf e.bits va.toNat).align 64
      s.streamed h.tile line = true → s.pageOk line = true → s.lineBuffered h.tile none s.nextId line = false →
      s.writesTo h.tile line = [] → s.l1Find h.tile line = none →
        ∃ t l, Completes (.hardwarePrefetch h va) s t ∧ t.mem = s.mem ∧ t.l1Find h.tile line = some l ∧
          l.data = BitVec.ofNat 512 (s.loadNat line 64))

namespace Sys2Proof.Machine

/-- The record of the same waiter as r has been woken. -/
def Woken (r : ParkRec) (t : State) : Prop :=
  ∃ q ∈ t.parks, q.tab = r.tab ∧ q.hart = r.hart ∧ q.queue = r.queue ∧ q.woken = true

/-- The state that the one re-attempt of a hart's record leaves at its home (R57, R72): the word's line leaves the L1 (R93), and the home acts. -/
def State.retried (h : HartId) (home : Home) (s : State) : State :=
  let x := s.hartOf h
  ((if home.pagedHome then s.dropLine h.tile home else s).fePart x.feKind x.more home x.rbufVa x.rbufVal).1

/-- Of memory, only the tags of some words differ. -/
def OnlyTags (ws : List Home) (s u : State) : Prop :=
  ∀ a, u.mem.byte a = s.mem.byte a ∧ ((∀ w ∈ ws, a ≠ (w.align 8).key) → u.mem.tag a = s.mem.tag a)

/-- Of memory, only n bytes from a home and the tags of some words differ. -/
def OnlyWords (home : Home) (n : Nat) (ws : List Home) (s u : State) : Prop :=
  SameBytesBut home n s u ∧ ∀ a, (∀ w ∈ ws, a ≠ (w.align 8).key) → u.mem.tag a = s.mem.tag a

/-- The step ends the record of a hart: memory is as the re-attempt leaves it at the home, but for the words of the park table that
the end of the record writes: V is cleared, and State.unlink writes the record and its bucket where State.parkWord puts them, which the
tableaus, the buckets and the records fix, and the action at the home leaves those as they are in s (R70, R72). -/
def EndsRecord (i : Instr) (h : HartId) (home : Home) (s t : State) : Prop :=
  Completes i s t ∧ (t.hartOf h).feV = false ∧ NextWord (s.hartOf h) (t.hartOf h) ∧ t.mem = ((s.retried h home).feDone h).mem

/-- The step ends the record of a hart with POISON, which is posted with an address (R60, R72); the home changes nothing. -/
def EndsPoisoned (i : Instr) (h : HartId) (home : Home) (va : Word) (s t : State) : Prop :=
  EndsRecord i h home s t ∧ (s.retried h home).mem = s.mem ∧
    ∃ p, (t.hartOf h).posted = (s.hartOf h).posted ++ [p] ∧ p.cause = 0x09 ∧ p.addr = some va

/-- The step leaves a hart parked, with its record linked again and not woken (R72). -/
def Relinks (i : Instr) (h : HartId) (s t : State) : Prop :=
  let x := s.hartOf h
  let y := t.hartOf h
  Completes i s t ∧ y.run = .parked ∧ y.feV = true ∧ y.feLinked = true ∧ y.feWoken = false ∧ SameG x y ∧ y.v = x.v ∧ y.pc = x.pc ∧
    ∃ p ∈ t.parkReqs, ∃ q, p.2 = .link q ∧ q.hart = some h ∧ q.kind = x.feKind

/-- A woken filler that finds its word or its line full (R72, R75): it is linked again where the fill-wait table has a place, and else goes on
with its loop after CAP cycles. -/
def FillerRelinks (i : Instr) (h : HartId) (home : Home) (s : State) : Prop :=
  let room := parkKey home ∈ s.fillWait home ∨ (s.fillWait home).length < 16
  (room → ∃ t, Relinks i h s t ∧ t.mem = s.mem) ∧
  (¬room → ∃ t, Completes i s t ∧ t.mem = s.mem ∧ (t.hartOf h).run = .parked ∧ (t.hartOf h).feWoken = true ∧
    (t.hartOf h).parkDue = some (s.now + bits (s.hartOf h).sy.retry 28 12) ∧ SameG (s.hartOf h) (t.hartOf h))

/-- What the one re-attempt of a woken record does at its home, for each KIND (R57, R72, R74, R75, R270). -/
def Reattempts (i : Instr) (h : HartId) (home : Home) (s : State) : Prop :=
  let x := s.hartOf h
  let u := s.retried h home
  let tag := s.tagOf home
  let word := fun k => home.plus (8 * k)
  let words := (List.range 8).map word
  let taken := if x.more then Tag.parked else .empty
  let va := fun k => x.rbufVa + BitVec.ofNat 64 (8 * k)
  (x.feKind = 0 ∨ x.feKind = 1 →
    (tag = .full → u.tagOf home = (if x.feKind = 1 then taken else .full) ∧ OnlyTags [home] s u ∧
      ∃ t, EndsRecord i h home s t ∧ WritesG x.feReg (s.readWord home) x (t.hartOf h) ∧ (t.hartOf h).full .g x.feReg = true) ∧
    (tag = .poison → ∃ t, EndsPoisoned i h home x.rbufVa s t ∧ WritesG x.feReg 0 x (t.hartOf h) ∧ (t.hartOf h).full .g x.feReg = true) ∧
    (tag = .empty ∨ tag = .parked → ∃ t, Relinks i h s t ∧ t.tagOf home = .parked ∧ OnlyTags [home] s t)) ∧
  (x.feKind = 2 →
    (tag = .empty ∨ tag = .parked → u.tagOf home = .full ∧ u.readNat home 8 = x.rbufVal.toNat % 2 ^ 64 ∧ OnlyWords home 8 [home] s u ∧
      ∃ t, EndsRecord i h home s t ∧ SameG x (t.hartOf h)) ∧
    (tag = .poison → ∃ t, EndsPoisoned i h home x.rbufVa s t ∧ SameG x (t.hartOf h)) ∧
    (tag = .full → FillerRelinks i h home s)) ∧
  (x.feKind = 3 →
    ((∀ k < 8, s.tagOf (word k) = .full) → (∀ k < 8, u.tagOf (word k) = taken) ∧ OnlyTags words s u ∧
      ∃ t, EndsRecord i h home s t ∧ SameG x (t.hartOf h) ∧ (t.hartOf h).full .v x.feReg = true ∧
        ∀ k < 8, elem ((t.hartOf h).vr x.feReg) 8 k = s.readNat (word k) 8) ∧
    ((∀ k < 8, s.tagOf (word k) ≠ .poison) → (∃ k < 8, s.tagOf (word k) ≠ .full) →
      ∃ t, Relinks i h s t ∧ OnlyTags words s t ∧ ∀ k < 8, t.tagOf (word k) = if s.tagOf (word k) = .full then .full else .parked)) ∧
  (x.feKind = 4 →
    ((∀ k < 8, s.tagOf (word k) = .empty ∨ s.tagOf (word k) = .parked) →
      (∀ k < 8, u.tagOf (word k) = .full ∧ u.readNat (word k) 8 = elem x.rbufVal 8 k) ∧ OnlyWords home 64 words s u ∧
      ∃ t, EndsRecord i h home s t ∧ SameG x (t.hartOf h)) ∧
    ((∀ k < 8, s.tagOf (word k) ≠ .poison) → (∃ k < 8, s.tagOf (word k) = .full) → FillerRelinks i h home s)) ∧
  (x.feKind = 3 ∨ x.feKind = 4 → ∀ k < 8, s.tagOf (word k) = .poison → (∀ j < k, s.tagOf (word j) ≠ .poison) →
    ∃ t, EndsPoisoned i h home (va k) s t ∧
      if x.feKind = 3 then (t.hartOf h).vr x.feReg = 0 ∧ (t.hartOf h).full .v x.feReg = true else (t.hartOf h).v = x.v)

/-- The hart is parked on an exhausted record that is linked and woken. -/
def ReadyToRetry (x : Hart) : Prop :=
  x.run = .parked ∧ x.parkDue = none ∧ x.feV = true ∧ x.fePend = false ∧ x.feLinked = true ∧ x.feWoken = true

end Sys2Proof.Machine

/-- The steps of the park table and of parked harts (R70, R72 to R76): a link request makes a record, under the next SEQ of its bucket
where the waiter has none; a wake for the loads of a word wakes every waiting record and the taking one of lowest SEQ, a wake for a filler
the filling one of lowest SEQ; a wake that reaches its hart sets WOKEN; a woken record of each KIND is attempted once more at its home, where
it ends, with its value or POISON, or parks again; a taken word is EMPTY, or PARKED while takers remain; a hart that found the fill-wait table
full goes on. Of a word at the loft DPA of a saved context (log entry 79) nothing is said. -/
def Obligations.ParkSteps : Prop :=
  ∀ (s : State) (op : Nat),
    (∀ r, s.parkReq? op = some (.link r) →
      ∃ t, Completes (.parkLink op) s t ∧ (∀ p ∈ t.parkReqs, p.1 ≠ op) ∧
        ∃ q ∈ t.parks, q.tab = r.tab ∧ q.hart = r.hart ∧ q.key = r.key ∧ q.kind = r.kind ∧ q.woken = false ∧
          ((∀ x ∈ s.parks, x.isOf r.tab r.hart r.queue = false) →
            let n := findD (r.tab, bucketOf (s.nlogOf r.tab) r.key) s.buckets 0
            q.seq = n ∧ findD (r.tab, bucketOf (s.nlogOf r.tab) r.key) t.buckets 0 = n + 1)) ∧
    (∀ tab keys, s.parkReq? op = some (.loads tab keys) → ∀ key ∈ keys, (∀ k ∈ keys, lineKey k = lineKey key) → ∀ r ∈ s.parks, r.names tab key = true →
      ∃ t, Completes (.wake op) s t ∧ (r.kind = 0 → Woken r t) ∧
        (r.takes = true → (∀ q ∈ s.parks, q.names tab key = true → q.takes = true → q = r ∨ r.seq < q.seq) → Woken r t)) ∧
    (∀ tab keys, s.parkReq? op = some (.filler tab keys) → ∀ key ∈ keys, (∀ k ∈ keys, lineKey k = lineKey key) → ∀ r ∈ s.parks, r.names tab key = true → r.fills = true →
      (∀ q ∈ s.parks, q.names tab key = true → q.fills = true → q = r ∨ r.seq < q.seq) →
        ∃ t, Completes (.wake op) s t ∧ Woken r t) ∧
    (∀ m h, s.wakes.find? (fun m => m.id == op) = some m → m.hart = some h → s.resident h.tile = true →
      (s.hartOf h).feV = true → (s.hartOf h).feLinked = true →
        ∃ t, Completes (.wakeDelivery op) s t ∧ t.mem = s.mem ∧ (t.hartOf h).feWoken = true ∧ (t.hartOf h).more = m.more ∧
          ∀ x ∈ t.wakes, x.id ≠ op) ∧
    (∀ h r, ReadyToRetry (s.hartOf h) → s.parks.find? (fun r => r.isOf h.tile.tab (some h) 0) = some r → s.latentUE = [] →
      (s.hartOf h).sy.preq.getLsbD 0 = false → s.mem.wf = true →
      let x := s.hartOf h
      let home := homeOfKey h.tile.tab r.key
      s.parkReady h home = true → s.pageOk home = true → s.plain home = true →
        ((s.retried h home).tabs = s.tabs ∧ (s.retried h home).buckets = s.buckets ∧ (s.retried h home).parks = s.parks) ∧
        Reattempts (.wokenReattempt h) h home s ∧
        (x.feKind = 1 → s.tagOf home = .full → ∃ t, Completes (.wokenReattempt h) s t ∧ t.tagOf home = if x.more then .parked else .empty)) ∧
    (∀ h due, (s.hartOf h).parkDue = some due → (s.hartOf h).run = .parked →
      ∃ t, Completes (.fillWaitRetry h) s t ∧ t.mem = s.mem ∧ (t.hartOf h).run = .running ∧ (t.hartOf h).parkDue = none ∧ due ≤ t.now)

namespace Sys2Proof.Machine

/-- The g, v and k registers hold what they held. -/
def SameRegs (x y : Hart) : Prop := y.g = x.g ∧ y.v = x.v ∧ y.k = x.k

end Sys2Proof.Machine

/-- The message forms and steps. MSG.SEND puts the payload of v[b] on its way under a header with DST, TAG, NM and the sender, and stalls
where its tile's map cache holds no entry of the vtile, which is then read (R20); MSG.RECV
takes the first eligible message, whose payload and header are on their way to v[d] and g[b], waits for one, and traps on one with another
number mode; MSG.POLL and MSG.CNT read the inbox (R167, R170, R172, R273 to R275). The NI of a resident tile places a message in a free
inbox entry behind no backlog, or hands it to the carrier queue, which appends it to the backlog or, with no room, refuses it, and the
sending hart is to take MSG_LIMIT, unless the vtile is resident by then with no backlog and a free entry, which takes it; where the vtile is not as the message's route has it, the map entry is read again and cached, and one with
an uncorrectable error is a record, and holds the message, as it holds one whose sender could not read it at first; a message for the backlog of
a gang that is absent or leaving raises the MESSAGE tile fault, and a launch record makes an idle gang runnable with its queue's priority (R174,
R339); the acknowledgement ends a message; the oldest backlog message moves into a free
entry (R22, R24, R168 to R171). That NO_VTILE reports no address is the model's reading, log entry 22. -/
def Obligations.Messages : Prop :=
  (∀ (s : State) (d a b : Reg) (w : Bool) (o : Ord) (sc : Scope), s.hart.holds = [] →
     (s.hart.ready [gRef a, vRef b] = true →
       let x := s.hart.gr a
       let dst : TileId := { tab := s.focus.tile.tab, vt := x.setWidth 20 }
       (4 < bits x 40 3 → Traps (.msgSend a b w o sc) { cause := 0x01, info := 0x27, addr := none } s) ∧
       (bits x 40 3 ≤ 4 → s.validVt dst = false → Traps (.msgSend a b w o sc) { cause := 0x04, info := 0x02, addr := none } s) ∧
       (bits x 40 3 ≤ 4 → s.validVt dst = true → dst.vt ≠ s.focus.tile.vt → find dst.vt (s.tile s.focus.tile).mapCache = none →
         ∃ t, Completes (.msgSend a b w o sc) s t ∧ t.msgs = s.msgs ∧ t.mem = s.mem ∧ t.hart = s.hart.enter .blocked ∧
           dst.vt ∈ (t.tile s.focus.tile).mapWants) ∧
       (bits x 40 3 ≤ 4 → s.validVt dst = true →
         (dst.vt = s.focus.tile.vt ∨ ∃ e, find dst.vt (s.tile s.focus.tile).mapCache = some e ∧ e.st ≠ .invalid) →
         s.unplaced s.focus < 16 → s.pendingOp s.focus true true (fun _ => true) = false → s.hart.hostWrote = [] →
         ∃ t m, Completes (.msgSend a b w o sc) s t ∧ t.msgs = s.msgs ++ [m] ∧ t.mem = s.mem ∧ SameRegs s.hart t.hart ∧
           NextWord s.hart t.hart ∧ m.src = some s.focus ∧ m.dst = dst ∧ m.msg.payload = s.hart.vr b ∧
           bits m.msg.header 40 3 = bits x 40 3 ∧ bits m.msg.header 24 16 = bits x 24 16 ∧ m.msg.header.getLsbD 23 = false ∧
           (find dst.vt (s.tile s.focus.tile).mapCache = none → s.entryBad dst = true → m.route = .mapRead) ∧
           m.msg.header.getLsbD 22 = s.hart.sy.status.getLsbD 23 ∧ bits m.msg.header 20 2 = s.focus.num.toNat ∧
           bits m.msg.header 0 20 = s.focus.tile.vt.toNat)) ∧
     (s.hart.ready [gRef b, vRef d] = true →
       (s.eligibles = [] → Waits (.msgRecv d b o sc) s) ∧
       (∀ m rest, s.eligibles = m :: rest →
         (m.nm = s.hart.sy.status.getLsbD 23 ∨ s.hart.sy.status.getLsbD 9 = true →
           ∃ t, Completes (.msgRecv d b o sc) s t ∧ t.mem = s.mem ∧ SameRegs s.hart t.hart ∧ NextWord s.hart t.hart ∧
             (t.tile s.focus.tile).inbox = (s.tile s.focus.tile).inbox.erase m ∧ t.hart.full .v d = false ∧
             (b ≠ 0 → t.hart.full .g b = false) ∧ t.hart.sy.status.getLsbD 9 = false ∧
             ∃ p q, t.ops = s.ops ++ [p, q] ∧ p.hart = s.focus ∧ p.dest = some (vRef d) ∧ p.val = m.payload ∧
               q.hart = s.focus ∧ q.dest = some (gRef b) ∧ q.val = BitVec.ofNat 512 (bits m.header 0 43)) ∧
         (m.nm ≠ s.hart.sy.status.getLsbD 23 → s.hart.sy.status.getLsbD 9 = false →
           Completes (.msgRecv d b o sc) s ((s.mod fun h => h.setStatus fun y => setBits y 9 1 1).takeTrap s.focus
             { cause := 0x0B, info := BitVec.ofNat 64 m.src, addr := none } s.hart.pc)))) ∧
     (s.hart.ready [gRef d] = true →
       WritesOnlyG (.msgCnt d) d (BitVec.ofNat 64 s.msgCount) s ∧
       (s.eligibles = [] → WritesOnlyG (.msgPoll d) d (BitVec.ofNat 64 (min s.msgCount 32767 * 2 ^ 48)) s) ∧
       (∀ m rest, s.eligibles = m :: rest → WritesOnlyG (.msgPoll d) d
         (BitVec.ofNat 64 (2 ^ 63 + min s.msgCount 32767 * 2 ^ 48 + bits m.header 0 43)) s))) ∧
  (∀ (s : State) (op : Nat),
     (∀ m gen, s.msg? op = some m → m.route = .sent gen → s.first m = true → (s.mapEntry m.dst).st = .resident →
       (s.mapEntry m.dst).gen = gen →
       ((s.tile m.dst).backlog = [] → (s.tile m.dst).inbox.length < 64 →
         ∃ t, Completes (.messageArrival op) s t ∧ t.mem = s.mem ∧ (t.tile m.dst).inbox = (s.tile m.dst).inbox ++ [m.msg] ∧
           (t.msg? op).map (·.route) = some .placed) ∧
       ((s.tile m.dst).backlog ≠ [] ∨ 64 ≤ (s.tile m.dst).inbox.length →
         ∃ t, Completes (.messageArrival op) s t ∧ t.mem = s.mem ∧ (t.tile m.dst).inbox = (s.tile m.dst).inbox ∧
           (t.msg? op).map (·.route) = some .append)) ∧
     (∀ m, s.msg? op = some m →
       (m.route = .mapRead ∨ ∃ gen, m.route = .sent gen ∧ s.first m = true ∧
         ((s.mapEntry m.dst).st ≠ .resident ∨ (s.mapEntry m.dst).gen ≠ gen)) →
       let e := s.mapEntry m.dst
       (s.entryBad m.dst = false →
         ∃ t, Completes (.messageArrival op) s t ∧ t.mem = s.mem ∧
           (t.msg? op).map (·.route) = some (if e.st = .resident then .sent e.gen else .append) ∧
           ∀ h, m.src = some h → find m.dst.vt (t.tile h.tile).mapCache = some e) ∧
       (s.entryBad m.dst = true →
         ∃ t, Completes (.messageArrival op) s t ∧ t.msg? op = some m ∧ (e.bad = false → ∃ x ∈ t.errors, x.kind = 0x05 ∧ x.vt = m.dst.vt))) ∧
     (∀ m, s.msg? op = some m → m.route = .append → s.first m = true →
       let free := (s.mapEntry m.dst).st = .resident ∧ (s.tile m.dst).backlog = [] ∧ (s.tile m.dst).inbox.length < 64
       (free →
         ∃ t, Completes (.backlogAppend op) s t ∧ t.mem = s.mem ∧ (t.tile m.dst).inbox = (s.tile m.dst).inbox ++ [m.msg] ∧
           (t.tile m.dst).backlog = [] ∧ (t.msg? op).map (·.route) = some .placed) ∧
       (¬free → s.carrierRoom m.dst.tab = true →
         ∃ t, Completes (.backlogAppend op) s t ∧ t.mem = s.mem ∧ (t.tile m.dst).backlog = (s.tile m.dst).backlog ++ [m.msg] ∧
           (t.msg? op).map (·.route) = some .placed ∧
           let e := s.mapEntry m.dst
           (e.st = .absent ∨ (e.st = .settling ∧ e.dirIn = false) → (t.gang m.dst.gang).fault.isSome = true) ∧
           (m.msg.header.getLsbD 23 = true → e.st ≠ .resident → (s.gang m.dst.gang).sched = .idle →
             (t.gang m.dst.gang).sched = .runnable ∧ (t.gang m.dst.gang).prio = bits (m.msg.word 7) 16 3)) ∧
       (¬free → s.carrierRoom m.dst.tab = false →
         ∃ t, Completes (.backlogAppend op) s t ∧ t.mem = s.mem ∧ (t.tile m.dst).backlog = (s.tile m.dst).backlog ∧
           (t.msg? op).map (·.route) = some .refused ∧
           ∀ h, m.src = some h → (t.hartOf h).posted = (s.hartOf h).posted ++
             [{ cause := 0x0E, info := m.dst.vt.setWidth 64, addr := none }])) ∧
     (∀ m, s.msg? op = some m → m.route = .placed →
       ∃ t, Completes (.messageAck op) s t ∧ t.mem = s.mem ∧ t.msg? op = none) ∧
     (∀ tl m rest, s.resident tl = true → (s.tile tl).backlog = m :: rest → (s.tile tl).inbox.length < 64 →
       ∃ t, Completes (.backlogMove tl) s t ∧ t.mem = s.mem ∧ (t.tile tl).inbox = (s.tile tl).inbox ++ [m] ∧ (t.tile tl).backlog = rest))

namespace Sys2Proof.Machine

/-- The form i waits, with all members placed: the hart stands at it, has arrived for a phase of group g and not passed it, and no
register and no byte of memory changes (R277). -/
def KeepsWaiting (i : Instr) (g : BitVec 4) (phase : BitVec 32) (s : State) : Prop :=
  ∃ t, Completes i s t ∧ t.hart.pc = s.hart.pc ∧ (t.hart.bar g).phase = phase ∧ (t.hart.bar g).passed = false ∧ t.hart.g = s.hart.g ∧
    t.mem = s.mem

end Sys2Proof.Machine

/-- The barrier forms and steps: joining a group, arriving for the next phase, waiting while it is not over, and passing one that is; a form of a hart that is no
member, and BAR.CFG of a group the hart does not lie in, raise ILLEGAL with reason 0x28 (R179, R180, R276 to R278). A hart that waits has
reported the gangs of the members that it waits for and that are not resident (R174). A join that widens a wired group's tree keeps the plane
only where no node of it serves another group too: that the joining group gives way is the model's choice, log entry 73. A wired group's tree
passes a phase for which every member has arrived and tells them, and a hart that has left in the phase has its latch event (R329); an extended group's record counts an arrival for the phase that it was made
for, so that the current phase passes with the last arrival for it and with no other, and tells a resident member of the last phase passed
(R179 to R182). -/
def Obligations.Barriers : Prop :=
  (∀ (s : State) (d a : Reg) (w : Bool) (g : BitVec 4), s.hart.holds = [] →
     let b := s.hart.bar g
     let grp := s.group s.focus.tile.tab g
     let ill : Posted := { cause := 0x01, info := 0x28, addr := none }
     (b.member = false → Traps (.barArr g) ill s ∧ Traps (.barWait g) ill s ∧ Traps (.barTest d g) ill s ∧ Traps (.barSs g) ill s) ∧
     (s.inGroup s.focus g = false → Traps (.barCfg a w g) ill s) ∧
     (s.inGroup s.focus g = true → s.hart.ready [gRef a] = true →
       ((s.hart.gr a).getLsbD 0 = b.member → NoEffect (.barCfg a w g) s) ∧
       ((s.hart.gr a).getLsbD 0 = true → b.member = false →
         ∃ t, Passes (.barCfg a w g) s t ∧ (t.hart.bar g).member = true ∧ (t.hart.bar g).phase = grp.phase ∧
           (t.hart.bar g).passed = true ∧
           ∀ i, (t.group s.focus.tile.tab g).plane = some i → grp.plane = some i ∧ t.planeBusy s.focus.tile.tab g i = false) ∧
       ((s.hart.gr a).getLsbD 0 = false → b.member = true → b.phase ≠ grp.phase - 1 →
         ∃ t, Passes (.barCfg a w g) s t ∧ (t.hart.bar g).member = false) ∧
       ((s.hart.gr a).getLsbD 0 = false → b.member = true → b.phase = grp.phase - 1 →
         s.pendingOp s.focus true true (fun _ => true) = false →
         ∃ t, Passes (.barCfg a w g) s t ∧ (t.hart.bar g).member = false ∧ (t.hart.bar g).phase = grp.phase ∧
           (t.hart.bar g).sent = grp.plane.isSome)) ∧
     (b.member = true → s.pendingOp s.focus true true (fun _ => true) = false →
       (b.passed = true →
         (∃ t, Passes (.barArr g) s t ∧ (t.hart.bar g).phase = b.phase + 1 ∧ (t.hart.bar g).passed = false ∧
           (t.hart.bar g).sent = grp.plane.isSome) ∧
         NoEffect (.barWait g) s) ∧
       (b.passed = false → Waits (.barArr g) s ∧
         (b.over = false → s.absentees g b.phase = [] → KeepsWaiting (.barWait g) g b.phase s ∧
           (s.unplaced s.focus = 0 → KeepsWaiting (.barSs g) g b.phase s)) ∧
         (b.over = false → s.hart.sy.preq.getLsbD 0 = false →
           ∃ t, Completes (.barWait g) s t ∧ t.hart.pc = s.hart.pc ∧ (t.hart.bar g).phase = b.phase ∧ (t.hart.bar g).passed = false ∧
             ∀ x, x ∈ (t.hart.bar g).faulted ↔ ∃ j ∈ s.absentees g b.phase, j.tile.gang = x)) ∧
       (b.passed = true → s.unplaced s.focus = 0 → (s.arriving.arrive g).absentees g (b.phase + 1) = [] →
         KeepsWaiting (.barSs g) g (b.phase + 1) s) ∧
       (b.passed = false → b.over = true →
         (∃ t, Passes (.barWait g) s t ∧ (t.hart.bar g).passed = true ∧ (t.tile s.focus.tile).l1 = []) ∧
         (s.unplaced s.focus = 0 →
           ∃ t, Passes (.barSs g) s t ∧ (t.hart.bar g).passed = true ∧ (t.tile s.focus.tile).l1 = [])) ∧
       (s.hart.ready [gRef d] = true →
         ∃ t, Completes (.barTest d g) s t ∧ t.mem = s.mem ∧ NextWord s.hart t.hart ∧
           WritesG d (BitVec.ofNat 64 (b.phase.toNat * 65536 + (if b.over then 1 else 0))) s.hart t.hart ∧
           (b.over = true → (t.hart.bar g).passed = true ∧ (t.tile s.focus.tile).l1 = [])))) ∧
  (∀ (s : State) (tab : BitVec 16) (g : BitVec 4) (x : Tableau), s.tab? tab = some x →
     (let grp := s.group tab g
      (grp.plane.isSome = true → s.phaseDone tab g = true →
        ∃ t, Completes (.phasePass tab g) s t ∧ t.mem = s.mem ∧ (t.group tab g).phase = grp.phase + 1 ∧
          ∀ p ∈ s.harts, p.1.tile.tab = tab → (s.hartOf p.1) = p.2 →
            ((p.2.bar g).member = true → ((t.hartOf p.1).bar g).seen = grp.phase) ∧
            ((p.2.bar g).member = false → (p.2.bar g).passed = false →
              (p.2.run = .sleeping → (t.hartOf p.1).run = .running) ∧ (p.2.run ≠ .sleeping → (t.hartOf p.1).latch = true))) ∧
      (∀ h : HartId, h.tile.tab = tab → ((s.hartOf h).bar g).sent = false →
        let b := (s.hartOf h).bar g
        let arrived := fun (j : HartId) => ((s.hartOf j).bar g).sent = true ∧ ((s.hartOf j).bar g).phase ≠ grp.phase - 1
        ∃ t, Completes (.extendedArrival h g) s t ∧ t.mem = s.mem ∧ ((t.hartOf h).bar g).sent = true ∧ ((t.hartOf h).bar g).phase = b.phase ∧
          (grp.plane = none → h ∈ s.barHarts tab g → b.phase ≠ grp.phase - 1 → (∀ j ∈ s.barHarts tab g, j ≠ h → arrived j) →
            (t.group tab g).phase = grp.phase + 1) ∧
          (grp.plane ≠ none ∨ (h ∈ s.barHarts tab g ∧ b.phase = grp.phase - 1) ∨ (∃ j ∈ s.barHarts tab g, j ≠ h ∧ ¬arrived j) →
            (t.group tab g).phase = grp.phase)) ∧
      (∀ h : HartId, h.tile.tab = tab → s.resident h.tile = true → ((s.hartOf h).bar g).seen ≠ grp.phase - 1 →
        ∃ t, Completes (.extendedRelease h g) s t ∧ t.mem = s.mem ∧ ((t.hartOf h).bar g).seen = grp.phase - 1)))

namespace Sys2Proof.Machine

/-- Every operand passes the checks of R281 on its extent and its first address. -/
def OperandsPass (os : List Operand) (s : State) : Prop :=
  ∀ o ∈ os, extentFault o = none ∧ ∃ h c, operandTr s s.focus o o.va = .ok h c

/-- The form i enters a copy command that satisfies p into the engine's queue (R279, R280): no register and no byte of memory
changes. -/
def IssuesCopy (i : Instr) (p : CpCmd → Prop) (s : State) : Prop :=
  ∃ t c, Completes i s t ∧ t.hart.cps = s.hart.cps ++ [c] ∧ p c ∧ c.id = s.nextId ∧ c.hart = s.focus ∧ c.started = false ∧ c.next = 0 ∧
    t.mem = s.mem ∧ SameRegs s.hart t.hart ∧ NextWord s.hart t.hart

/-- A home in the slice of a tile through the alias (R11). -/
def AliasWord (va : Word) (off : Nat) : Prop := va.toNat = 0x1F00000000000000 + off ∧ off + 8 ≤ 2 ^ 22 ∧ off % 8 = 0

end Sys2Proof.Machine

/-- The copy forms (R280 to R284, R289, R290): with room in the queue, aligned operands, a byte count that is a multiple of 8 and at most
2^34, and operands that pass their checks, the command is issued; a misaligned count raises ALIGN and a larger one, as a larger limit of
CP.VERIFY or a larger total of a descriptor, ENGINE_ERROR with reason COUNT; a command of count 0 checks its completion word alone, which
then takes the value 0 at once, unless an earlier access of the hart is pending (log entry 25); CP.FILLV in modes 1 and 2 raises ILLEGAL; CP.WAIT waits for the hart's commands. That ALIGN of a
count reports no address, that CP.VERIFY's limit is checked as a count and that its extent is the limit up to the largest image are the
model's reading, log entry 25; the order of CP.COPY2's checks is its choice, log entry 75. -/
def Obligations.CopyForms : Prop :=
  ∀ (s : State) (d a b c : Reg) (w : Bool) (mode : BitVec 2) (sc : Scope),
    let h := s.hart
    let n := (h.gr b).toNat
    let aligned := fun (r : Reg) => (h.gr r).toNat % 8 = 0
    (h.ready [gRef a, gRef b, gRef c, gRef d, vRef a] = true → h.cps.length < 8 → h.holds = [] → aligned d → aligned c →
      (aligned a → n % 8 ≠ 0 → Traps (.cpCopy d a b w c mode sc) { cause := 0x03, info := 0, addr := none } s) ∧
      (aligned a → n % 8 = 0 → 2 ^ 34 < n → Traps (.cpCopy d a b w c mode sc) { cause := 0x12, info := 0x37, addr := none } s) ∧
      (aligned a → n % 8 = 0 → 0 < n → n ≤ 2 ^ 34 →
        OperandsPass [dstOperand (h.gr d) n (mode == 1 || mode == 3), srcOperand (h.gr a) n mode.toNat, cwOperand (h.gr c)] s →
        IssuesCopy (.cpCopy d a b w c mode sc) (fun x => x.kind = .copy ∧ x.mode = mode.toNat ∧ x.dst = h.gr d ∧ x.src = h.gr a ∧
          x.count = n ∧ x.rows = 1) s) ∧
      (mode = 0 ∨ mode = 3 → n % 8 = 0 → 0 < n → n ≤ 2 ^ 34 →
        OperandsPass [dstOperand (h.gr d) n (mode == 3), cwOperand (h.gr c)] s →
        IssuesCopy (.cpFillv d a b w c mode sc) (fun x => x.kind = .fill ∧ x.mode = mode.toNat ∧ x.dst = h.gr d ∧ x.count = n ∧
          x.pattern = h.vr a ∧ x.rows = 1) s) ∧
      (∀ i home k, (i = Instr.cpCopy d a b w c mode sc ∧ aligned a) ∨ (i = .cpFillv d a b w c mode sc ∧ (mode = 0 ∨ mode = 3)) → n = 0 →
        extentFault (cwOperand (h.gr c)) = none → operandTr s s.focus (cwOperand (h.gr c)) (h.gr c) = .ok home k →
        (s.pendingOp s.focus true true (fun m => decide (m < s.nextId)) = true → IssuesCopy i (fun x => x.count = 0 ∧ x.cwHome = home) s) ∧
        (s.pendingOp s.focus true true (fun m => decide (m < s.nextId)) = false → home.tagged = true → s.plain home = true →
          s.homeOpen s.focus home = true → s.pageOk home = true → s.mem.wf = true → s.latentUE = [] →
          sc ≠ .s ∨ (h.hostWrote = [] ∧ ∀ o ∈ s.ops, o.hart = s.focus → o.kind = .flush → o.over = true) →
          ∃ t, Completes i s t ∧ SameRegs h t.hart ∧ NextWord h t.hart ∧ (∀ x ∈ t.hart.cps, x ∈ h.cps) ∧
            (∀ x ∈ h.cps, x.id ≠ s.nextId → x ∈ t.hart.cps) ∧ t.tagOf home = .full ∧
            t.readNat home 8 = if s.tagOf home = .full ∨ s.tagOf home = .poison then 2 ^ 63 else 0)) ∧
      (2 ^ 34 < (h.gr a).toNat → Traps (.cpVerify d a b w c sc) { cause := 0x12, info := 0x37, addr := none } s) ∧
      ((h.gr a).toNat ≤ 2 ^ 34 →
        OperandsPass [{ va := h.gr d, len := max 1 (min (h.gr a).toNat imgMax), need := needR, peer := true, tags := false, priv := true, al := false },
          cwOperand (h.gr c)] s →
        IssuesCopy (.cpVerify d a b w c sc) (fun x => x.kind = .verify ∧ x.dst = h.gr d ∧ x.count = (h.gr a).toNat ∧
          x.key = (h.gr b).setWidth 4) s) ∧
      (∀ off, aligned a → Unheld s → OwnBytes (h.gr b) off 32 → (∀ j, j < 32 → s.tagOf (s.ownHome (off + j)) ≠ .poison) →
        let v := BitVec.ofNat 512 (s.readNat (s.ownHome off) 32)
        let x := descOf v
        let sl := if x.kind = 0 then x.rowBytes else if x.kind = 1 then 65536 else 66560
        let dl := if x.kind = 0 then x.rowBytes else if x.kind = 1 then 66560 else 65536
        let sb := bounds (h.gr a) x.sstride x.rows sl
        let db := bounds (h.gr d) x.dstride x.rows dl
        (descBad v (h.gr a) (h.gr d) mode.toNat = true → Traps (.cpCopy2 d a b w c mode sc) { cause := 0x12, info := 0x34, addr := none } s) ∧
        (descBad v (h.gr a) (h.gr d) mode.toNat = false → x.sstride.toNat % 8 = 0 → x.dstride.toNat % 8 = 0 → 2 ^ 34 < x.rows * max sl dl →
          Traps (.cpCopy2 d a b w c mode sc) { cause := 0x12, info := 0x37, addr := none } s) ∧
        (descBad v (h.gr a) (h.gr d) mode.toNat = false → x.sstride.toNat % 8 = 0 → x.dstride.toNat % 8 = 0 →
          x.rows * max sl dl ≤ 2 ^ 34 →
          OperandsPass [dstOperand db.1 db.2 (mode == 1 || mode == 3 || x.kind == 2),
            { srcOperand sb.1 sb.2 mode.toNat with tags := mode.toNat == 2 || x.kind == 1, peer := x.kind != 1 }, cwOperand (h.gr c)] s →
          IssuesCopy (.cpCopy2 d a b w c mode sc) (fun y => y.dst = h.gr d ∧ y.src = h.gr a ∧ y.rows = x.rows ∧ y.sstride = x.sstride ∧
            y.dstride = x.dstride ∧ y.mode = mode.toNat ∧ (x.kind = 0 → y.kind = .rows ∧ y.count = x.rowBytes) ∧
            (x.kind = 1 → y.kind = .imageOut) ∧ (x.kind = 2 → y.kind = .imageIn)) s))) ∧
    (mode = 1 ∨ mode = 2 → Traps (.cpFillv d a b w c mode sc) { cause := 0x01, info := 0x21, addr := none } s) ∧
    (h.cps = [] → ∃ t, Passes (.cpWait sc) s t ∧ (sc = .c ∨ sc = .w ∨ sc = .s → (t.tile s.focus.tile).l1 = [])) ∧
    (h.cps ≠ [] → Waits (.cpWait sc) s)

namespace Sys2Proof.Machine

/-- The step performs word c.next of a copy command, the last of its line or of the command, with a per-word error or without (R280, R285). -/
def PerformsWord (c : CpCmd) (err : Bool) (s t : State) (p : CpCmd → Prop) : Prop :=
  Completes (.copyLine c.id) s t ∧ ∃ x ∈ (t.hartOf c.hart).cps, x.id = c.id ∧ x.next = c.next + 1 ∧
    x.nerr = (if err then min (c.nerr + 1) 0xFFFFFF else c.nerr) ∧
    x.firstBad = (if err then some (min c.next (c.firstBad.getD c.next)) else c.firstBad) ∧ x.stopped = none ∧ p x

/-- A word of a copy arrives: its value with a tag, and no per-word error. -/
def Arrives (c : CpCmd) (dst : Home) (v : Nat) (tag : Tag) (s : State) : Prop :=
  ∃ t, PerformsWord c false s t (fun _ => True) ∧ t.readNat dst 8 = v ∧ t.tagOf dst = tag

/-- A word of a copy is a per-word error and changes nothing. -/
def Refused (c : CpCmd) (s : State) : Prop := ∃ t, PerformsWord c true s t (fun _ => True) ∧ SameMemory s t

/-- A word of a copy is a per-word error and leaves its destination POISON. -/
def Spoils (c : CpCmd) (dst : Home) (s : State) : Prop := ∃ t, PerformsWord c true s t (fun _ => True) ∧ t.tagOf dst = .poison

/-- The words of a copy, of rows and of a fill, for each tag mode (R80, R284): the source word and the destination word lie in the own
slice of the command's hart. -/
def CopiesWord (c : CpCmd) (od : Nat) (s : State) : Prop :=
  let dst := Home.slice c.hart.tile od
  let free := s.tagOf dst = .empty ∨ s.tagOf dst = .parked
  (c.kind = .fill →
    let v := elem c.pattern 8 (od / 8 % 8)
    (c.mode = 0 → Arrives c dst v .full s) ∧
    (c.mode = 3 → (free → Arrives c dst v .full s) ∧ (¬free → Refused c s))) ∧
  (c.kind = .copy ∨ c.kind = .rows → ∀ os, AliasWord (c.srcAt c.next) os → os ≠ od →
    let src := Home.slice c.hart.tile os
    let v := s.readNat src 8
    (c.mode = 0 → (s.tagOf src ≠ .poison → Arrives c dst v .full s) ∧ (s.tagOf src = .poison → Spoils c dst s)) ∧
    (c.mode = 1 →
      (s.tagOf src = .full → Arrives c dst v .full s) ∧
      (s.tagOf src = .empty ∨ s.tagOf src = .parked → Arrives c dst v (if s.tagOf dst = .parked then .parked else .empty) s) ∧
      (s.tagOf src = .poison → ∃ t, PerformsWord c false s t (fun _ => True) ∧ t.tagOf dst = .poison)) ∧
    (c.mode = 2 →
      (s.tagOf src = .full → ∃ t, PerformsWord c false s t (fun _ => True) ∧ t.readNat dst 8 = v ∧ t.tagOf dst = .full ∧ t.tagOf src = .empty) ∧
      (s.tagOf src ≠ .full → Refused c s)) ∧
    (c.mode = 3 →
      (s.tagOf src ≠ .poison → (free → Arrives c dst v .full s) ∧ (¬free → Refused c s)) ∧ (s.tagOf src = .poison → Refused c s)))

/-- The words of page images (R82, R83): out of slices, each data word with its tag bit gathered, then the tag words; a PARKED or POISON
word ends the command with a per-word error; into slices, each word FULL or EMPTY by its tag bit. -/
def CopiesImage (c : CpCmd) (od : Nat) (s : State) : Prop :=
  let dst := Home.slice c.hart.tile od
  (c.kind = .imageOut →
    let k := c.next % 8320
    (k < 8192 → ∀ os, AliasWord (c.src + BitVec.ofNat 64 (c.next / 8320) * c.sstride + BitVec.ofNat 64 (8 * k)) os → os ≠ od →
      let tag := s.tagOf (Home.slice c.hart.tile os)
      (tag = .full ∨ tag = .empty →
        ∃ t, PerformsWord c false s t (fun x => x.tags = (if k = 0 then 0 else c.tags) + if tag = .full then 2 ^ k else 0) ∧
          t.readNat dst 8 = s.readNat (Home.slice c.hart.tile os) 8 ∧ t.tagOf dst = .full) ∧
      (tag = .parked ∨ tag = .poison →
        ∃ t, Completes (.copyLine c.id) s t ∧ SameMemory s t ∧
          ∃ x ∈ (t.hartOf c.hart).cps, x.id = c.id ∧ x.stopped = some c.next ∧ x.reason = 0x31 ∧ x.nerr = min (c.nerr + 1) 0xFFFFFF)) ∧
    (8192 ≤ k → Arrives c dst (c.tags / 2 ^ (64 * (k - 8192)) % 2 ^ 64) .full s)) ∧
  (c.kind = .imageIn →
    let k := c.next % 8192
    let img := c.src + BitVec.ofNat 64 (c.next / 8192) * c.sstride
    ∀ ot os, AliasWord (img + BitVec.ofNat 64 (65536 + 8 * (k / 64))) ot → AliasWord (img + BitVec.ofNat 64 (8 * k)) os →
      let tags := Home.slice c.hart.tile ot
      let src := Home.slice c.hart.tile os
      let full := (s.readNat tags 8).testBit (k % 64)
      (s.tagOf tags ≠ .poison → s.tagOf src ≠ .poison → Arrives c dst (s.readNat src 8)
        (if full then .full else if s.tagOf dst = .parked then .parked else .empty) s) ∧
      (s.tagOf tags = .poison ∨ s.tagOf src = .poison → Spoils c dst s))

/-- A line of CP.VERIFY at an image at an offset of the own slice, in the order of R316: the key; the next words, at most eight, of the header
and then of as many words as its PLEN gives the image, within the limit, where the first POISON word ends the command with a per-word error (R57); then, with all of
them read, the size fields within the limit, the other fields, and the tag (R280, R289; how much is read is the model's reading, log entry 75). -/
def VerifiesImage (c : CpCmd) (off : Nat) (s : State) : Prop :=
  let word := fun (i : Nat) => Home.slice c.hart.tile (off + 8 * i)
  let poison := fun (i : Nat) => s.tagOf (word i) = .poison
  let goesOn := fun (p : CpCmd → Prop) => ∃ t, Completes (.copyLine c.id) s t ∧ t.mem = s.mem ∧ ∃ x ∈ (t.hartOf c.hart).cps, x.id = c.id ∧ p x
  let fails := fun (i reason : Nat) => goesOn fun x => x.stopped = some i ∧ x.reason = reason
  let done := c.read.length / 8
  let extent := if c.read.length < 64 then 64 else max 64 (min imgMax (80 + 8 * ((field c.read 0x18 4 + 7) / 8)))
  let n := (min c.count extent + 7) / 8
  let line := min 8 (n - done)
  (s.imageKey c.hart.tile.tab c.key = none → fails 0 0x36) ∧
  ∀ k, s.imageKey c.hart.tile.tab c.key = some k →
    (done < n → off + 8 * (done + line) ≤ 2 ^ 22 →
      (∀ i < line, poison (done + i) → (∀ j < i, ¬poison (done + j)) →
        goesOn fun x => x.stopped = some (done + i) ∧ x.reason = 0x30 ∧ x.nerr = min (c.nerr + 1) 0xFFFFFF) ∧
      ((∀ i < line, ¬poison (done + i)) →
        goesOn fun x => x.stopped = none ∧ x.next = c.next ∧ x.read = c.read ++ s.mem.read (word done).key (8 * line))) ∧
    (n ≤ done →
      (imgSize c.read = none → fails 0 0x33) ∧
      ∀ h, imgSize c.read = some h →
        let good := imageTag k (c.read.take (64 + h.plen8)) = (c.read.drop (64 + h.plen8)).take 16
        (c.count < h.length ∨ imgFields h c.read = false → fails 0 0x33) ∧
        (h.length ≤ c.count → imgFields h c.read = true → ¬good → fails 0 0x32) ∧
        (h.length ≤ c.count → imgFields h c.read = true → good →
          goesOn fun x => x.next = 1 ∧ x.stopped = none ∧ x.length = h.length))

/-- The completion value of a command (R285): its length, or the first reason with the count of per-word errors and an offset. -/
def completionOf (c : CpCmd) : Nat :=
  match c.stopped with
  | some i => 2 ^ 62 + c.reason % 64 * 2 ^ 56 + c.nerr % 2 ^ 24 * 2 ^ 32 + i % 2 ^ 32
  | none => if c.nerr = 0 then c.length % 2 ^ 32
    else 2 ^ 62 + 0x30 * 2 ^ 56 + c.nerr % 2 ^ 24 * 2 ^ 32 + c.firstBad.getD 0 % 2 ^ 32

/-- No plane reaches the peer any more: the command ends with reason PEER_WAFER at word n, and no piece goes on (R286, R403). -/
def EndsPieces (c : CpCmd) (n : Nat) (s : State) : Prop :=
  ∃ t, Completes (.peerPieceResend c.id none) s t ∧ t.mem = s.mem ∧
    { c with pieces := [], stopped := some n, reason := 0x0B } ∈ (t.hartOf c.hart).cps

/-- The command of a copy engine has ended: it is complete, and its granules are free (R139). -/
def EndsCopy (c : CpCmd) (s t : State) : Prop :=
  Completes (.copyLine c.id) s t ∧ (∀ x ∈ (t.hartOf c.hart).cps, x.id ≠ c.id) ∧ ∀ x ∈ (t.tile c.hart.tile).claims, x.1 ≠ c.id

end Sys2Proof.Machine

/-- Steps of the copy engine (after parts of R37, R80, R82, R83, R85, R106, R138 to R140, R280, R282, R284, R285, R289, R403; pieces as log
entry 68 reads them). The oldest command of a tile starts; a word within the hart's own slice does what the mode's row says to its
destination; CP.VERIFY checks its image; the completion word is filled, and the command ends, after the flushing reads that follow host
writes where the scope is .s, and with a record where its page is not VALID (where it is at a loft DPA of a saved context, log entry 79 applies, and nothing is said here). A
copy through the peer window first sends its pieces of 4 KiB, at most 72 at once, each on the plane of its turn, and performs no word while it
does; a piece that is lost is sent again on another plane, its words still to be performed; and where no plane reaches the peer the command
ends with reason PEER_WAFER at the first word that has not been performed. -/
def Obligations.CopySteps : Prop :=
  ∀ (s : State) (c : CpCmd), c ∈ (s.hartOf c.hart).cps → s.resident c.hart.tile = true →
    (let cps := c.hart.tile.harts.flatMap fun h => (s.hartOf h).cps
     c ∈ cps → c.started = false → (∀ x ∈ cps, x.started = false → x = c ∨ c.id < x.id) → (cps.filter (·.started)).length < 4 →
     s.pendingOp c.hart true true (fun n => decide (n < c.id)) = false →
       ∃ t, Completes (.copyCommandStart c.hart.tile) s t ∧ t.mem = s.mem ∧ { c with started := true } ∈ (t.hartOf c.hart).cps) ∧
    (s.cp? c.id = some c → c.started = true → s.mem.wf = true → s.latentUE = [] →
      (∀ od, c.stopped = none → c.peer = false → AliasWord (c.dstAt c.next) od →
        c.total = c.next + 1 ∨ (c.next + 1 < c.total ∧ (c.dstAt (c.next + 1)).toNat % 64 = 0) → CopiesWord c od s ∧ CopiesImage c od s) ∧
      (∀ off, c.stopped = none → c.kind = .verify → c.next < c.total → c.dst.toNat = 0x1F00000000000000 + off → off + 64 ≤ 2 ^ 22 →
        off % 8 = 0 → VerifiesImage c off s) ∧
      (c.pieces = [] → (c.stopped.isSome = true ∨ c.total ≤ c.next) →
        let flushed := c.scope ≠ .s ∨ ((s.hartOf c.hart).hostWrote = [] ∧ ∀ o ∈ s.ops, o.hart = c.hart → o.kind = .flush → o.over = true)
        (flushed → c.cwHome.tagged = true → s.plain c.cwHome = true → s.homeOpen c.hart c.cwHome = true →
          (s.pageOk c.cwHome = true →
            ∃ t, EndsCopy c s t ∧ t.tagOf c.cwHome = .full ∧
              t.readNat c.cwHome 8 = completionOf c + (if s.tagOf c.cwHome = .full ∨ s.tagOf c.cwHome = .poison then 2 ^ 63 else 0)) ∧
          (s.pageOk c.cwHome = false → ∃ t, EndsCopy c s t ∧ t.mem = s.mem ∧ ∃ e ∈ t.errors, e.kind = 0x04)) ∧
        (c.scope = .s → (s.hartOf c.hart).hostWrote ≠ [] →
          ∃ t, Completes (.copyLine c.id) s t ∧ t.mem = s.mem ∧ c ∈ (t.hartOf c.hart).cps ∧ (t.hartOf c.hart).hostWrote = [] ∧
            ∀ p ∈ (s.hartOf c.hart).hostWrote, ∃ o ∈ t.ops, o.hart = c.hart ∧ o.kind = .flush ∧ ∃ q ∈ o.parts, q.home = .host p 0) ∧
        (c.scope = .s → (s.hartOf c.hart).hostWrote = [] → (∃ o ∈ s.ops, o.hart = c.hart ∧ o.kind = .flush ∧ o.over = false) →
          Completes (.copyLine c.id) s s)) ∧
      (c.peer = true → c.kind = .copy → c.pieces = [] → c.next = 0 → c.stopped = none → 0 < c.total →
        ∃ t, Completes (.copyLine c.id) s t ∧ t.mem = s.mem ∧ ∃ x ∈ (t.hartOf c.hart).cps, x.id = c.id ∧ x.pieces.length ≤ 72 ∧
          (x.stopped = none → x.pieces ≠ []) ∧
          ∀ q ∈ x.pieces, q.next < q.last ∧ q.last ≤ q.next + 512 ∧ q.last ≤ c.total ∧ q.plane = q.next / 512 % 72 ∧
            ∀ i, x.stopped = some i → q.last ≤ i) ∧
      (c.peer = true →
        (∀ plane before p after, c.pick s.tick = some (before, p, after) → plane < 72 → plane ≠ p.plane →
          ∃ t, Completes (.peerPieceResend c.id (some plane)) s t ∧ t.mem = s.mem ∧
            { c with pieces := before ++ { p with plane := plane } :: after } ∈ (t.hartOf c.hart).cps ∧
            ∀ h, SameRegs (s.hartOf h) (t.hartOf h) ∧ (t.hartOf h).pc = (s.hartOf h).pc) ∧
        (∀ p rest, c.pieces = p :: rest → EndsPieces c p.next s) ∧
        (c.pieces = [] → (c.stopped = none → c.next < c.total → EndsPieces c c.next s) ∧
          (c.stopped.isSome = true ∨ c.total ≤ c.next → Completes (.peerPieceResend c.id none) s s))))

namespace Sys2Proof.Machine

/-- Every operand of a matrix command passes its checks, each at the addresses at which its pages begin (R421). -/
def PagesPass (os : List (Operand × List Word)) (s : State) : Prop :=
  ∀ o ∈ os, extentFault o.1 = none ∧ ∀ va ∈ o.2, ∃ h c, operandTr s s.focus o.1 va = .ok h c

/-- The form i enters a matrix command that satisfies p into the hart's request queue (R293): no register's value and no byte of memory
changes. -/
def IssuesMatrix (i : Instr) (p : MxCmd → Prop) (s : State) : Prop :=
  ∃ t c, Completes i s t ∧ t.hart.mxq = s.hart.mxq ++ [c] ∧ p c ∧ c.id = s.nextId ∧ c.hart = s.focus ∧ c.ctx = s.hart.ctx ∧
    c.started = false ∧ c.progress = 0 ∧ t.mem = s.mem ∧ SameRegs s.hart t.hart ∧ NextWord s.hart t.hart

/-- An address of a slice window or of the own-slice alias. -/
def InSlices (va : Word) : Prop := (∃ vt off, range va = .slice vt off) ∨ ∃ off, range va = .own off

/-- A command carries the words of three registers. -/
def Carries (c : MxCmd) (kind : MxKind) (n : KReg) (wd wa wb : Word) : Prop :=
  c.kind = kind ∧ c.n = n ∧ c.wd = wd ∧ c.wa = wa ∧ c.wb = wb

end Sys2Proof.Machine

/-- The matrix forms (after parts of R296, R298 to R300, R304 to R310, R312, R315 to R317). A form that names a slot its hart does not own
raises ACC_OWNER; with its checks passed it enters its command; MX.WR with a format that it does not take raises ENGINE_ERROR with reason
FORMAT; the slot forms act at issue; MX.BLD with K = 0 releases its name; MX.SYNC waits for the hart's commands, and its blocking form raises
ENGINE_ERROR with reason SYNCERR, the L1 dropped at a wide scope and the record left in place, where the error record is not clear. That
ACC_OWNER comes before ENGINE_ERROR when both checks fail is the model's choice, log entry 33; that names 48 to 63 are a SHAPE error of MX.BLD is the model's
reading, log entry 33, and that MX.BLD takes block lines at any address, log entry 62; that a TSTRIDE which is no multiple of 64 is a SHAPE error
is its choice, log entry 76. -/
def Obligations.MatrixForms : Prop :=
  ∀ (s : State) (d a b : Reg) (w z hi bf r add : Bool) (n : KReg) (sc : Scope),
    let h := s.hart
    let x := h.gr a
    let y := h.gr b
    let wd := h.gr d
    let tile := s.tile s.focus.tile
    let owner : Posted := { cause := 0x0D, info := n.setWidth 64, addr := none }
    let engine := fun (reason : Nat) => ({ cause := 0x12, info := BitVec.ofNat 64 reason, addr := none } : Posted)
    h.ready [gRef a, gRef b, gRef d, vRef a, vRef d] = true → h.mxq.length < 16 → h.holds = [] →
    (badCtx x = false → ∃ t, Passes (.mxCtx a w) s t ∧ t.hart.ctx = x) ∧
    (badCtx x = true → Traps (.mxCtx a w) { cause := 0x01, info := 0x29, addr := none } s) ∧
    (find n h.slots = none →
      Traps (.mxZero n) owner s ∧ Traps (.mxMac d a b w n z) owner s ∧ Traps (.mxMact d a b w n z) owner s ∧
      Traps (.mxWr a b w n add) owner s ∧ Traps (.mxDelta d a b w n bf r) owner s ∧ Traps (.mxQry d a b w n bf) owner s ∧
      Traps (.mxSpill d a b w n) owner s ∧ Traps (.mxLoad d a b w n) owner s ∧ Traps (.mxPin n) owner s ∧ Traps (.mxUnpin n) owner s ∧
      Traps (.mxRd d a w n false) owner s ∧ NoEffect (.mxFree n) s) ∧
    (∀ ref, find n h.slots = some ref →
      IssuesMatrix (.mxZero n) (fun c => c.kind = .zero ∧ c.n = n) s ∧ IssuesMatrix (.mxFree n) (fun c => c.kind = .free ∧ c.n = n) s ∧
      (h.mxq = [] → WritesOnlyG (.mxOwn d n) d (BitVec.ofNat 64 (ref.gen.toNat * 65536 + ref.slot % 8 * 256 + 1)) s) ∧
      (h.mxq = [] → ref.slot < 8 →
        (∃ t, Passes (.mxPin n) s t ∧ (t.slotAt ref).st = .pinned ∧ (t.slotAt ref).acc = (s.slotAt ref).acc) ∧
        (∃ t, Passes (.mxUnpin n) s t ∧ (t.slotAt ref).acc = (s.slotAt ref).acc ∧
          (t.slotAt ref).st = if (s.slotAt ref).st = .pinned then .owned else (s.slotAt ref).st)) ∧
      (bits x 16 48 = 0 → hi = false ∨ isBlock (ctxO h.ctx) = true →
        IssuesMatrix (.mxRd d a w n hi) (fun c => c.kind = .rd hi d ∧ c.n = n ∧ c.wa = x) s) ∧
      (bits y 16 48 = 0 → ctxO h.ctx ∈ [0x0E, 0x0F, 0x10, 0x11, 0x14] →
        IssuesMatrix (.mxWr a b w n add) (fun c => c.kind = .wr add ∧ c.n = n ∧ c.wb = y ∧ c.vv = h.vr a) s) ∧
      (bits y 16 48 = 0 → ctxO h.ctx ∉ [0x0E, 0x0F, 0x10, 0x11, 0x14] → Traps (.mxWr a b w n add) (engine 0x41) s) ∧
      (∀ tr e, let K := bits x 16 16
        let M := bits x 0 8 + 1
        let stride := bits y 32 32
        let row := fun (i : Nat) => wd + BitVec.ofNat 64 i * BitVec.ofNat 64 stride
        let rows := (List.range (if tr then K else M)).map row
        let al := if isBlock (ctxA h.ctx) then 128 else 64
        let len := runBytes (ctxA h.ctx) (if tr then M else K)
        find (y.setWidth 6) tile.bmap = some e → e.k ≠ 0 → e.fmt.toNat = ctxB h.ctx → bits x 32 32 = 0 → bits y 6 10 = 0 → 0 < K →
        bits y 16 16 + K ≤ kMax (ctxB h.ctx) → bits y 16 16 % fmtLine (ctxB h.ctx) = 0 → wd.toNat % al = 0 → stride % al = 0 →
        (tr = true → isBlock (ctxA h.ctx) = false) → (∀ q ∈ rows, InSlices q) →
        PagesPass (rows.map fun q => ((mxOperand q len needR).1, [q])) s →
          IssuesMatrix (if tr then .mxMact d a b w n z else .mxMac d a b w n z)
            (fun c => Carries c (.mac tr z) n wd x y ∧ c.name = some (y.setWidth 6) ∧ c.entry = some e) s) ∧
      (let T := bits x 16 4 + 1
       let dk := bits x 8 8 + 1
       let dv := bits x 0 8 + 1
       let ts := bits x 32 32
       let out := (List.range T).map fun t => aligned8 (mxOperand (y + BitVec.ofNat 64 (t * padded dv false)) (8 * ((dv + 1) / 2)) needW)
       let src := fun (len : Nat) => (List.range T).map fun t => mxOperand (wd + BitVec.ofNat 64 (t * ts)) len needR
       (bits x 20 12 ≠ 0 ∨ ts % 64 ≠ 0 → Traps (.mxDelta d a b w n bf r) (engine 0x40) s ∧ Traps (.mxQry d a b w n bf) (engine 0x40) s) ∧
       (bits x 20 12 = 0 → ts % 64 = 0 →
         (deltaBytes dk dv bf r ≤ ts → r = true ∨ y = 0 → PagesPass (src (deltaBytes dk dv bf r) ++ if r then out else []) s →
           IssuesMatrix (.mxDelta d a b w n bf r) (fun c => Carries c (.delta bf r) n wd x y) s) ∧
         (padded dk bf ≤ ts → PagesPass (src (padded dk bf) ++ out) s →
           IssuesMatrix (.mxQry d a b w n bf) (fun c => Carries c (.qry bf) n wd x y) s))) ∧
      (wd.toNat % 8 = 0 →
        (let img : ImgHdr := { fmt := bits x 16 5, rows := bits x 0 8 + 1, cols := bits x 8 8 + 1 }
         bits x 21 43 = 0 → bits y 4 60 = 0 → imgElem img.fmt ≠ 0 → (s.imageKey s.focus.tile.tab (y.setWidth 4)).isSome = true →
           PagesPass [mxOperand wd img.length needW] s → IssuesMatrix (.mxSpill d a b w n) (fun c => Carries c .spill n wd x y) s) ∧
        (bits y 4 60 = 0 → x ≠ 0 → PagesPass [mxOperand wd (min x.toNat imgMax) needR] s →
          IssuesMatrix (.mxLoad d a b w n) (fun c => Carries c .load n wd x y) s) ∧
        (bits y 4 60 ≠ 0 → Traps (.mxLoad d a b w n) (engine 0x40) s))) ∧
    (find n h.slots = none → h.mxq = [] →
      let cl := s.clusterAt s.focus.tile
      let free := fun (p : Nat) => (s.slotAt { cluster := cl, slot := p, gen := 0 }).st = .free ∧
        (s.slotAt { cluster := cl, slot := p, gen := 0 }).zeroing = false
      ((∀ p, p < 8 → ¬free p) → WritesOnlyG (.mxOwn d n) d 2 s) ∧
      (∀ p, p < 8 → free p → (∀ q, q < p → ¬free q) →
        let gen := (s.slotAt { cluster := cl, slot := p, gen := 0 }).gen + 1
        ∃ t, Completes (.mxOwn d n) s t ∧ t.mem = s.mem ∧ NextWord s.hart t.hart ∧
          WritesG d (BitVec.ofNat 64 (gen.toNat * 65536 + p * 256)) s.hart t.hart ∧
          find n t.hart.slots = some { cluster := cl, slot := p, gen := gen } ∧
          (t.slotAt { cluster := cl, slot := p, gen := gen }).st = .owned ∧
          (t.slotAt { cluster := cl, slot := p, gen := gen }).owner = s.focus ∧
          (t.slotAt { cluster := cl, slot := p, gen := gen }).acc = [])) ∧
    (let K := bits x 0 16
     let N := bits x 16 8 + 1
     let stride := bits x 32 32
     let al := if isBlock (ctxB h.ctx) then 128 else 64
     let len := runBytes (ctxB h.ctx) K
     let cols := (List.range N).map fun j => wd + BitVec.ofNat 64 j * BitVec.ofNat 64 stride
     (48 ≤ y.toNat → Traps (.mxBld d a b w) (engine 0x40) s) ∧
     (y.toNat < 48 → bits x 24 8 = 0 → stride % al = 0 → 0 < K → K ≤ kMax (ctxB h.ctx) → bldRegion cols len = false →
       PagesPass (cols.map fun q => mxOperand q len needR) s →
         ∃ t c e, Completes (.mxBld d a b w) s t ∧ t.hart.mxq = s.hart.mxq ++ [c] ∧ t.mem = s.mem ∧ SameRegs s.hart t.hart ∧
           Carries c .bld 0 wd x y ∧ c.name = some (y.setWidth 6) ∧
           find (y.setWidth 6) (t.tile s.focus.tile).bmap = some e ∧ e.k = K ∧ e.n = N ∧ e.fmt.toNat = ctxB h.ctx ∧ e.gid = c.gid) ∧
     (y.toNat < 48 → bits x 24 8 = 0 → stride % al = 0 → K = 0 →
       ∃ t c, Completes (.mxBld d a b w) s t ∧ t.hart.mxq = s.hart.mxq ++ [c] ∧ t.mem = s.mem ∧ SameRegs s.hart t.hart ∧
         Carries c .bld 0 wd x y ∧ find (y.setWidth 6) (t.tile s.focus.tile).bmap = none ∧
         (∀ n, n ≠ y.setWidth 6 → find n (t.tile s.focus.tile).bmap = find n tile.bmap) ∧
         ∀ e, find (y.setWidth 6) tile.bmap = some e → c.gid = e.gid)) ∧
    (h.mxq = [] → let fresh := if sc = .c ∨ sc = .w ∨ sc = .s then s.dropL1 s.focus.tile else s
      (h.mxErr.nerr = 0 → ∃ t, Passes (.mxSyncBlocking sc) s t ∧ (t.tile s.focus.tile).l1 = (fresh.tile s.focus.tile).l1) ∧
      (h.mxErr.nerr ≠ 0 → Completes (.mxSyncBlocking sc) s (fresh.takeTrap s.focus (engine 0x46) h.pc) ∧
        (fresh.takeTrap s.focus (engine 0x46) h.pc).hart.mxErr = h.mxErr)) ∧
    (h.mxq ≠ [] → Waits (.mxSyncBlocking sc) s) ∧
    (x.toNat % 8 = 0 → OperandsPass [cwOperand x] s → IssuesMatrix (.mxSyncWord sc w a) (fun c => c.kind = .sync sc) s)

namespace Sys2Proof.Machine

/-- The command c of a resident tile runs, is the one that its number names, and reaches a slot whose elements are in canonical form. -/
def Runs (c : MxCmd) (s : State) : Prop :=
  s.mx? c.id = some c ∧ c ∈ (s.hartOf c.hart).mxq ∧ c.started = true ∧ s.resident c.hart.tile = true

/-- The slot of a command, with its elements in canonical form. -/
def HasSlot (c : MxCmd) (ref : SlotRef) (s : State) : Prop :=
  s.slotRef c = some ref ∧ ref.slot < 8 ∧ canon (0 : BitVec 40) (s.slotAt ref).acc = true

/-- The step i ends one unit of a command: it goes on with its next unit, or with none left completes. -/
def EndsUnit (i : Instr) (c : MxCmd) (units : Nat) (s t : State) : Prop :=
  Completes i s t ∧
  (c.progress + 1 < units → ∃ x ∈ (t.hartOf c.hart).mxq, x.id = c.id ∧ x.progress = c.progress + 1) ∧
  (units ≤ c.progress + 1 → ∀ x ∈ (t.hartOf c.hart).mxq, x.id ≠ c.id)

/-- The step i ends a command with a failure, which its hart's error record counts. -/
def EndsFailed (i : Instr) (c : MxCmd) (reason : Nat) (s t : State) : Prop :=
  Completes i s t ∧ (∀ x ∈ (t.hartOf c.hart).mxq, x.id ≠ c.id) ∧
    (t.hartOf c.hart).mxErr.nerr = min ((s.hartOf c.hart).mxErr.nerr + 1) 255 ∧
    ((s.hartOf c.hart).mxErr.nerr = 0 → (t.hartOf c.hart).mxErr.reason = reason ∧ (t.hartOf c.hart).mxErr.first = c.index)

/-- The update of one token of MX.DELTA (R311): the elements of t from those of s and the token's record x. -/
def TokenUpdate (c : MxCmd) (bf : Bool) (x : Nat) (s t : State) : Prop :=
  let alpha := decodeF .f32 false (x % 2 ^ 32)
  let beta := decodeF .f32 false (x / 2 ^ 32 % 2 ^ 32)
  let k := vecAt x bf 64 c.dk
  let v := vecAt x bf (64 + padded c.dk bf) c.dv
  ∀ i j, i < c.dv → j < c.dk →
    let row := s.stateRow c i
    let u := r40 (dotVals row k)
    let e := r40 (sumVals [v.getD i .nan, (alpha.mul u).neg])
    t.elemAt c i j = encodeF .a40 false false (sumVals [alpha.mul (row.getD j .nan), (beta.mul e).mul (k.getD j .nan)])

/-- The step i writes bytes for a unit of a command, from the state s': memory is then as those writes leave it, and the unit ends; where one
of them met a page that is not VALID, the command ends with reason WORD (R37, R332; log entry 72). -/
def WritesUnit (i : Instr) (c : MxCmd) (units : Nat) (places : List Place) (bs : List Byte) (s s' : State) (also : State → Prop) : Prop :=
  let r := s'.putBytesAt c.hart places bs
  (r.2 = true → ∃ t, EndsUnit i c units s t ∧ t.mem = r.1.mem ∧ also t) ∧
  (r.2 = false → ∃ t, EndsFailed i c 0x30 s t ∧ t.mem = r.1.mem)

/-- The completion value of a word-form MX.SYNC (R318). -/
def syncValue (e : MxErr) : Nat := if e.nerr = 0 then 0 else 2 ^ 62 + e.reason % 64 * 2 ^ 56 + e.nerr % 256 * 2 ^ 48 + e.first % 2 ^ 32

end Sys2Proof.Machine

/-- Steps of matrix commands (after parts of R98, R197, R201, R294, R300, R303 to R305, R307 to R309, R311, R312, R315 to R318). A lane starts
the command that its turn comes to, and those that act at once complete; MX.MAC and MX.MACT add one group of 32 products into each element
that they name; MX.DELTA updates the state by one token, with .r its readout after it, and MX.QRY writes one readout; MX.BLD loads one
column, releases its granule for K = 0, and leaves it zeroed where it fails; MX.SPILL writes one unit of the payload, and at the end the
header and the tag; MX.LOAD takes a checked image or fails; the word form of MX.SYNC fills its completion word with the error record, and
clears it, after the flushing reads where its scope is .s; the zeroing of a slot ends. A write to a page that is not VALID ends its command
with reason WORD: the model's reading, log entry 72; of a completion word at a loft DPA of a saved context, log entry 79, nothing is said. -/
def Obligations.MatrixSteps : Prop :=
  ∀ (s : State) (c : MxCmd),
    (∀ (cl : Nat) (lane : BitVec 2) (h : HartId),
      let l := (s.cluster cl).laneOf lane.toNat
      lane ≠ 3 → l.run = none → l.ptr < 16 → s.clusterHart cl l.ptr = some h → s.headFor lane.toNat h = some c → c.hart = h →
      0 ≤ findD h l.dc 0 →
        (c.kind ∈ [.bld, .spill, .load] ∨ (∃ tr z, c.kind = .mac tr z) ∨ (∃ bf r, c.kind = .delta bf r) ∨ (∃ bf, c.kind = .qry bf) →
          ∃ t, Completes (.mxCommandStart cl lane) s t ∧ t.mem = s.mem ∧ ((t.cluster cl).laneOf lane.toNat).run = some (h, c.id) ∧
            { c with started := true } ∈ (t.hartOf h).mxq) ∧
        (∀ ref, HasSlot c ref s →
          (c.kind = .zero → ∃ t, Completes (.mxCommandStart cl lane) s t ∧ t.mem = s.mem ∧ (t.slotAt ref).acc = [] ∧
            ∀ x ∈ (t.hartOf h).mxq, x.id ≠ c.id) ∧
          (c.kind = .free → ∃ t, Completes (.mxCommandStart cl lane) s t ∧ t.mem = s.mem ∧ (t.slotAt ref).acc = [] ∧
            (t.slotAt ref).zeroing = true ∧ find c.n (t.hartOf h).slots = none) ∧
          (∀ add f, c.kind = .wr add → fmtOf (ctxO c.ctx) = .flt f →
            ∃ t, Completes (.mxCommandStart cl lane) s t ∧ t.mem = s.mem ∧ (∀ x ∈ (t.hartOf h).mxq, x.id ≠ c.id) ∧
              ∀ e, e < 512 / Fmt.laneBits (.flt f) → bits c.wb 8 8 + e ≤ 255 →
                let old := s.elemAt c (bits c.wb 0 8) (bits c.wb 8 8 + e)
                let x := encodeF .a40 false false (decodeF f false (c.vv.toNat / 2 ^ (Fmt.laneBits (.flt f) * e) % 2 ^ f.width))
                t.elemAt c (bits c.wb 0 8) (bits c.wb 8 8 + e) =
                  (if add then encodeF .a40 false false ((decodeF .a40 false old).add (decodeF .a40 false x)) else x) ∧
                ∀ i j, i < 256 → j < 256 → ¬(i = bits c.wb 0 8 ∧ bits c.wb 8 8 ≤ j ∧ j < bits c.wb 8 8 + 512 / Fmt.laneBits (.flt f)) →
                  t.elemAt c i j = s.elemAt c i j) ∧
          (∀ hi d, c.kind = .rd hi d → ∃ t, Completes (.mxCommandStart cl lane) s t ∧ t.mem = s.mem ∧ (t.hartOf h).vr d = s.rowValue c hi ∧
            (t.hartOf h).full .v d = true ∧ ∀ x ∈ (t.hartOf h).mxq, x.id ≠ c.id))) ∧
    (Runs c s → s.latentUE = [] →
      (∀ tr z ref s' ps rows, c.kind = .mac tr z → HasSlot c ref s → HasSlot c ref s' →
        let K := bits c.wa 16 16
        let M := bits c.wa 0 8 + 1
        let N := bits c.wa 8 8 + 1
        let lo := 32 * c.progress
        let hi := min (lo + 32) K
        (if tr then s.readRuns c.engCtx (ctxA c.ctx) (ctxNm c.ctx) 0 M ((List.range (hi - lo)).map fun i => c.rowAt (lo + i)) c.pages
          else s.readRuns c.engCtx (ctxA c.ctx) (ctxNm c.ctx) lo hi ((List.range M).map c.rowAt) c.pages) = (s', ps, .ok rows) →
        s'.harts = s.harts →
        ∃ t, EndsUnit (.mxMacGroup c.id) c ((K + 31) / 32) s t ∧ t.mem = s'.mem ∧
          ∀ i j, i < M → j < N →
            let A := if tr then rows.map fun q => q.getD i (.fin false 0 0) else rows.getD i []
            t.elemAt c i j = accAdd (if z = true ∧ lo = 0 then 0 else s'.elemAt c i j)
              (groupSum (isFloat (ctxA c.ctx) || isFloat (ctxB c.ctx)) (List.zipWith Val.mul A ((s'.operandB c lo hi).getD j [])))) ∧
      (∀ bf ref s' ps x, c.kind = .delta bf false → HasSlot c ref s → HasSlot c ref s' → s'.harts = s.harts →
        s.readRun c.engCtx (c.wd + BitVec.ofNat 64 (c.progress * c.tstride)) 0 (deltaBytes c.dk c.dv bf false) c.pages = (s', ps, .ok x) →
        ∃ t, EndsUnit (.mxDeltaToken c.id) c c.tokens s t ∧ t.mem = s'.mem ∧ TokenUpdate c bf x s' t) ∧
      (∀ bf ref s' s'' ps ps' x places, c.kind = .delta bf true → HasSlot c ref s → HasSlot c ref s'' → s'.harts = s.harts → s''.harts = s.harts →
        s.readRun c.engCtx (c.wd + BitVec.ofNat 64 (c.progress * c.tstride)) 0 (deltaBytes c.dk c.dv bf true) c.pages = (s', ps, .ok x) →
        s'.placesOf c.engCtx c.outWords (c.readout c.progress) ps = (s'', ps', .ok places) →
        let u := s''.setElems c (s''.deltaElems c bf x)
        TokenUpdate c bf x s'' u ∧
          WritesUnit (.mxDeltaToken c.id) c c.tokens places (u.readoutBytes c (vecAt x bf (64 + padded c.dk bf + padded c.dv bf) c.dk)) s u
            (TokenUpdate c bf x s'')) ∧
      (∀ bf s' s'' ps ps' x places, c.kind = .qry bf → s'.harts = s.harts → s''.harts = s.harts →
        s.readRun c.engCtx (c.wd + BitVec.ofNat 64 (c.progress * c.tstride)) 0 (padded c.dk bf) c.pages = (s', ps, .ok x) →
        s'.placesOf c.engCtx c.outWords (c.readout c.progress) ps = (s'', ps', .ok places) →
        WritesUnit (.mxQryQuery c.id) c c.tokens places (s''.readoutBytes c (vecAt x bf 0 c.dk)) s s'' fun _ => True) ∧
      (∀ s' ps x g, c.kind = .bld → 0 < c.bldK → find c.gid s'.granules = some g → s'.harts = s.harts →
        let j := c.progress
        let len := runBytes (ctxB c.ctx) c.bldK
        s.readRun c.engCtx (c.wd + BitVec.ofNat 64 j * c.bldStride) 0 len c.pages = (s', ps, .ok x) →
        ∃ t, EndsUnit (.mxBldColumn c.id) c c.bldN s t ∧ t.mem = s'.mem ∧
          find c.gid t.granules =
            some (({ (if j = 0 then g.zeroed else g) with k := c.bldK, n := j + 1 } : Granule).setCol (s'.granuleKey g) c.gid j len
              (colNat (ctxB c.ctx) c.bldK x))) ∧
      (∀ s' ps r g, c.kind = .bld → 0 < c.bldK → c.name.isSome = true → find c.gid s'.granules = some g → s'.harts = s.harts →
        s.readRun c.engCtx (c.wd + BitVec.ofNat 64 c.progress * c.bldStride) 0 (runBytes (ctxB c.ctx) c.bldK) c.pages = (s', ps, .fail r) →
        ∃ t, EndsFailed (.mxBldColumn c.id) c r s t ∧ t.mem = s'.mem ∧ find c.gid t.granules = some { g with k := 0, n := 0, units := [] }) ∧
      (c.kind = .bld → c.bldK = 0 →
        ∃ t, Completes (.mxBldColumn c.id) s t ∧ t.mem = s.mem ∧ (∀ x ∈ (t.hartOf c.hart).mxq, x.id ≠ c.id) ∧ find c.gid t.granules = none) ∧
      (∀ s' ps places, c.kind = .spill → c.progress < c.spillUnits → s'.harts = s.harts →
        let n := min 64 (c.imgHdr.plen8 - 64 * c.progress)
        s.placesOf c.engCtx (n / 8) (c.wd + BitVec.ofNat 64 (64 + 64 * c.progress)) c.pages = (s', ps, .ok places) →
        WritesUnit (.mxSpillUnit c.id) c (c.spillUnits + 1) places (s'.payload c (64 * c.progress) n) s s' fun _ => True) ∧
      (∀ s' s'' ps ps' hp tp key, c.kind = .spill → c.spillUnits ≤ c.progress → s'.harts = s.harts → s''.harts = s.harts →
        s.imageKey c.hart.tile.tab (BitVec.ofNat 4 (bits c.wb 0 4)) = some key →
        s.placesOf c.engCtx 8 c.wd c.pages = (s', ps, .ok hp) →
        s'.placesOf c.engCtx 2 (c.wd + BitVec.ofNat 64 (64 + c.imgHdr.plen8)) ps = (s'', ps', .ok tp) →
        let hd := s''.imgHeader c
        WritesUnit (.mxSpillUnit c.id) c (c.spillUnits + 1) (hp ++ tp) (hd ++ imageTag key (hd ++ s''.payload c 0 c.imgHdr.plen8)) s s''
          fun _ => True) ∧
      (c.kind = .spill → c.spillUnits ≤ c.progress → s.imageKey c.hart.tile.tab (BitVec.ofNat 4 (bits c.wb 0 4)) = none →
        ∃ t, EndsFailed (.mxSpillUnit c.id) c 0x36 s t ∧ t.mem = s.mem) ∧
      (∀ ref s' ps h bs, c.kind = .load → HasSlot c ref s → s'.harts = s.harts →
        s.readImage c.engCtx (BitVec.ofNat 4 (bits c.wb 0 4)) c.wd c.wa.toNat c.pages = (s', ps, .ok h bs) →
        ∃ t, Completes (.mxLoadCommit c.id) s t ∧ t.mem = s'.mem ∧ (∀ x ∈ (t.hartOf c.hart).mxq, x.id ≠ c.id) ∧
          (t.slotAt ref).acc = imgElems h bs) ∧
      (∀ s' ps i r, c.kind = .load → s'.harts = s.harts →
        s.readImage c.engCtx (BitVec.ofNat 4 (bits c.wb 0 4)) c.wd c.wa.toNat c.pages = (s', ps, .bad i r) →
        ∃ t, EndsFailed (.mxLoadCommit c.id) c r s t)) ∧
    (∀ sc va home rest, s.mx? c.id = some c → s.resident c.hart.tile = true → c.kind = .sync sc → c.pages = (va, home) :: rest →
      (s.hartOf c.hart).mxq.head? = some c → s.pendingOp c.hart true true (fun n => decide (n < c.id)) = false → s.mem.wf = true →
      s.latentUE = [] →
      let x := s.hartOf c.hart
      let ends := fun (t : State) => Completes (.mxSyncFill c.id) s t ∧ (∀ y ∈ (t.hartOf c.hart).mxq, y.id ≠ c.id) ∧
        (t.hartOf c.hart).mxErr.nerr = 0 ∧ (t.hartOf c.hart).mxErr.reason = 0 ∧ (t.hartOf c.hart).mxErr.first = 0
      let flushed := sc ≠ .s ∨ (x.hostWrote = [] ∧ ∀ o ∈ s.ops, o.hart = c.hart → o.kind = .flush → o.over = true)
      (flushed → s.homeOpen c.hart home = true → home.tagged = true → s.plain home = true →
        (s.pageOk home = true → ∃ t, ends t ∧ t.tagOf home = .full ∧
          t.readNat home 8 = syncValue x.mxErr + (if s.tagOf home = .full ∨ s.tagOf home = .poison then 2 ^ 63 else 0)) ∧
        (s.pageOk home = false → ∃ t, ends t ∧ t.mem = s.mem ∧ ∃ e ∈ t.errors, e.kind = 0x04)) ∧
      (sc = .s → x.hostWrote ≠ [] →
        ∃ t, Completes (.mxSyncFill c.id) s t ∧ t.mem = s.mem ∧ c ∈ (t.hartOf c.hart).mxq ∧ (t.hartOf c.hart).hostWrote = [] ∧
          ∀ p ∈ x.hostWrote, ∃ o ∈ t.ops, o.hart = c.hart ∧ o.kind = .flush ∧ ∃ q ∈ o.parts, q.home = .host p 0)) ∧
    (∀ ref : SlotRef, ref.slot < 8 → (s.slotAt ref).zeroing = true →
      ∃ t, Completes (.slotZeroDone ref.cluster ref.slot) s t ∧ t.mem = s.mem ∧ (t.slotAt ref).st = .free ∧ (t.slotAt ref).acc = [] ∧
        (t.slotAt ref).zeroing = false)

namespace Sys2Proof.Machine

/-- The hart in focus can fetch the word w of an address at once: its L1 TLB holds a translation that lets it execute, and its
decoded-op cache the word (R31, R394, R424). -/
def HoldsWord (s : State) (va : Word) (w : IWord) : Prop :=
  va.toNat % 4 = 0 ∧ range va = .paged ∧ (s.hart.tlb.find? (·.covers s.hart.root va.toNat)).isSome = true ∧
    (∃ home k, trPaged s s.focus needX va = .ok home k) ∧ s.hart.opFind va.toNat = some w

/-- No set of the hart's decoded-op cache holds more than its four ways (R424). -/
def FourWays (h : Hart) : Prop := ∀ n, (h.ops.filter fun l => l.block % 64 == n).length ≤ 4

/-- The word is one that a repeat can capture, with every strided field in its file to the last pass (R217, R218). -/
def Captures (count sd sa sb : Nat) (w : IWord) : Prop :=
  ∃ x fs, decode w = .ok x ∧ strided x = some fs ∧ ∀ f ∈ fs, f.2.2 + (count - 1) * strideOf sd sa sb f.1 ≤ f.2.1

end Sys2Proof.Machine

/-- RPT (R216 to R219). With a COUNT of 0 it jumps over its body; else, when every body word can be fetched and passes its check, the
sequencer holds the words and runs them from the first, and the first word that fails its check raises its trap with nothing executed:
ILLEGAL with its place, or RPT_RANGE with its place and the position of its field (the first of d, a and b that leaves its file, log entry
65). The word executed next is the one at the position with each strided field f replaced by f + PASS · stride, and no other bit changed
(R217). Whatever captured form completes goes on to the next body word, from the last to the first of the next pass, and after the last pass
to the word behind the body, with V of SY.RPTSTATE clear: that is what NextWord says in the statement of each form, and here of ORI. A hart
that TRET, or the end of a stop, leaves with a repeat to resume fetches the body from its place before the program counter, checks it, and
stands at the PASS and POS of the state word, or takes the trap of the check with that word as SY.RPTSTATE (R221). -/
def Obligations.Repeats : Prop :=
  (∀ (s : State) (n1 : BitVec 4) (count : BitVec 8) (sd sa sb : BitVec 2),
    let body := s.fetchBody s.focus (s.hart.pc + 4) count.toNat sd.toNat sa.toNat sb.toNat (n1.toNat + 1)
    (count = 0 → JumpsTo (.rpt n1 count sd sa sb) (s.hart.pc + BitVec.ofNat 64 (4 * (n1.toNat + 2))) s.hart.rstack s) ∧
    (count ≠ 0 →
      (∀ ws : List IWord, FourWays s.hart → ws.length = n1.toNat + 1 →
        (∀ k, k < ws.length → HoldsWord s (s.hart.pc + 4 + BitVec.ofNat 64 (4 * k)) (ws.getD k 0) ∧
          Captures count.toNat sd.toNat sa.toNat sb.toNat (ws.getD k 0)) →
        ∃ t, Completes (.rpt n1 count sd sa sb) s t ∧ t.mem = s.mem ∧ t.hart.pc = s.hart.pc + 4 ∧ SameG s.hart t.hart ∧
          t.hart.rpt = some { body := s.hart.pc + 4, words := ws, n1 := n1.toNat, count := count.toNat, pass := 0, pos := 0,
                              sd := sd.toNat, sa := sa.toNat, sb := sb.toNat }) ∧
      (∀ s' ws, body = (s', .ok ws) → s'.focus = s.focus →
        ∃ t, Completes (.rpt n1 count sd sa sb) s t ∧ t.mem = s'.mem ∧ t.hart.pc = s.hart.pc + 4 ∧ t.hart.g = s'.hart.g ∧
          ∃ r, t.hart.rpt = some r ∧ r.body = s.hart.pc + 4 ∧ r.words = ws ∧ r.n1 = n1.toNat ∧ r.count = count.toNat ∧ r.pass = 0 ∧
            r.pos = 0 ∧ r.sd = sd.toNat ∧ r.sa = sa.toNat ∧ r.sb = sb.toNat) ∧
      (∀ s' f, body = (s', .error (.fault f)) →
        Completes (.rpt n1 count sd sa sb) s (s'.takeTrap s'.focus f s'.hart.pc)) ∧
      (∀ (ws : List IWord) (j : Nat) (f : Posted), FourWays s.hart → ws.length = n1.toNat + 1 →
        (∀ k, k < ws.length → HoldsWord s (s.hart.pc + 4 + BitVec.ofNat 64 (4 * k)) (ws.getD k 0)) → j < ws.length →
        (∀ k, k < j → bodyFault k (ws.getD k 0) count.toNat sd.toNat sa.toNat sb.toNat = none) →
        bodyFault j (ws.getD j 0) count.toNat sd.toNat sa.toNat sb.toNat = some f →
        ∃ s' : State, Completes (.rpt n1 count sd sa sb) s (s'.takeTrap s'.focus f s.hart.pc) ∧ s'.mem = s.mem ∧ s'.focus = s.focus ∧
          s'.hart.rpt = s.hart.rpt ∧ s'.hart.sy = s.hart.sy ∧ SameG s.hart s'.hart))) ∧
  (∀ (s : State) (r : RptSeq) (v : BitVec 15), s.hart.rpt = some r →
    ∃ t, Completes (.ori 0 0 false v) s t ∧ SameG s.hart t.hart ∧ NextExecution r s.hart t.hart) ∧
  (∀ (s : State) (h : HartId) (r : RptSeq) (x : Instr) (fs : List Strided), (s.hartOf h).rpt = some r →
    let body := r.words.getD r.pos 0
    let moved := fun (f : Strided) => f.2.2 + r.pass * strideOf r.sd r.sa r.sb f.1
    decode body = .ok x → strided x = some fs → (∀ f ∈ fs, moved f ≤ f.2.1) →
      ∃ w y, s.nextWord h = (s, .word w) ∧ decode w = .ok y ∧ strided y = some (fs.map fun f => (f.1, f.2.1, moved f)) ∧
        ∀ j, j < 32 → (∀ f ∈ fs, j < fieldLow f.1 ∨ fieldLow f.1 + 5 ≤ j) → w.getLsbD j = body.getLsbD j) ∧
  (∀ (i : Nat) (w : IWord) (x : Instr) (count sd sa sb : Nat), decode w = .ok x →
    let fits := fun (f : Strided) => f.2.2 + (count - 1) * strideOf sd sa sb f.1 ≤ f.2.1
    (strided x = none → bodyFault i w count sd sa sb = some { cause := 0x01, info := BitVec.ofNat 64 (0x22 + 2 ^ 8 * i), addr := none }) ∧
    (∀ fs, strided x = some fs → (∀ f ∈ fs, fits f) → bodyFault i w count sd sa sb = none) ∧
    (∀ before f after, strided x = some (before ++ f :: after) → (∀ g ∈ before, fits g) → ¬fits f →
      bodyFault i w count sd sa sb = some { cause := 0x0C, info := BitVec.ofNat 64 (i + 16 * f.1), addr := none })) ∧
  (∀ (s : State) (w : Word), s.agenda = [] → s.factors.started = true → s.boundary s.focus = none → s.hart.run = .running →
    s.reissueDue s.focus = false → s.hart.resume = some w →
    let base := s.hart.pc - BitVec.ofNat 64 (4 * bits w 28 4)
    let body := s.fetchBody s.focus base (bits w 14 8) (bits w 12 2) (bits w 10 2) (bits w 8 2) (bits w 22 4 + 1)
    let steps := fun (t : State) => step s = .next (t.rotate.freezes.ring s.errors).pass
    (∀ s' ws, body = (s', .ok ws) → ∃ t, steps t ∧ t.mem = s'.mem ∧ t.hart.pc = s'.hart.pc ∧ t.hart.g = s'.hart.g ∧ t.hart.resume = none ∧
      t.hart.rpt = some { body := base, words := ws, n1 := bits w 22 4, count := bits w 14 8, pass := bits w 32 8, pos := bits w 28 4,
                          sd := bits w 12 2, sa := bits w 10 2, sb := bits w 8 2 }) ∧
    (∀ s' f, body = (s', .error (.fault f)) → steps (s'.takeTrap s'.focus f s'.hart.pc)))

/-- What a hart takes at a boundary, and the traps that stand for no form (R60, R66, R171, R208, R237, R329, R362, R364, R384): each takes
its trap with the program counter as the address; a limit of WFE resumes its hart; a machine check halts the tile and asks for the kill of
its tableau. -/
def Obligations.BoundaryEvents : Prop :=
  ∀ (s : State) (h : HartId),
    let x := s.hartOf h
    (∀ pa, x.stepPend = some pa → x.run = .running →
      Completes (.step h) s ((s.setHart h { x with stepPend := none }).takeTrap h
        { cause := 0x0F, info := if pa then 0x8000000000000000 else 0, addr := none } x.pc)) ∧
    (∀ p rest, x.posted = p :: rest → x.run ≠ .halted →
      (p.cause = 0x08 → Completes (.emptyWait h) s ((s.setHart h { x with posted := rest }).takeTrap h p x.pc)) ∧
      (p.cause = 0x0E → Completes (.msgLimit h) s ((s.setHart h { x with posted := rest }).takeTrap h p x.pc))) ∧
    (∀ src rest, x.irqs = src :: rest → x.run ≠ .halted →
      bits x.sy.status 0 2 = 0 ∨ (bits x.sy.status 0 2 = 1 ∧ x.sy.status.getLsbD 4 = true) →
        Completes (.interrupt h) s ((s.setHart h { x with irqs := rest }).takeTrap h
          { cause := 0x13, info := src.setWidth 64, addr := none } x.pc)) ∧
    (∀ due, x.wfeDue = some due → x.run = .sleeping →
      ∃ t, Completes (.wfeTimeout h) s t ∧ t.mem = s.mem ∧ due ≤ t.now ∧
        t.hartOf h = { x with run := .running, wfeDue := none }) ∧
    (∃ t, Completes (.machineCheck h) s t ∧ t.mem = s.mem ∧ (∀ j ∈ h.tile.harts, (t.hartOf j).run = .halted) ∧
      Instr.tblKill h.tile.tab ∈ t.agenda ∧ ∃ e ∈ t.errors, e.kind = 0x0B ∧ e.fatal = true) ∧
    (∀ r : BitVec 8, Traps (.unallocatedEncoding r) { cause := 0x01, info := r.setWidth 64, addr := none } s) ∧
    (∀ (c r : BitVec 8) (va : Word), Traps (.instructionFetchFault c r va)
      { cause := c.toNat, info := r.setWidth 64, addr := some va } s)

namespace Sys2Proof.Machine

/-- The queue has this launch among its launches, with what p says. -/
def HasLaunch (q : Queue) (id : Nat) (p : Launch → Prop) : Prop := ∃ l ∈ q.launches, l.id = id ∧ p l

/-- A slice word of a gang that is resident, as the front end reaches it. -/
def ReachedSlice (s : State) (t : TileId) (va : Word) (off : Nat) : Prop :=
  range va = .slice t.vt off ∧ (s.tab? t.tab).isSome = true ∧ s.validVt t = true ∧ s.resident t = true

end Sys2Proof.Machine

/-- The steps of the front end on queue registers, ring entries, headers and launches (after parts of R333, R334, R336, R338, R339, R342,
R343, R345, R388, R390, R392). QTAIL takes a tail at most 2^LSIZE past HEAD, and a greater one sets OVF and nothing else; QSTAT clears the
bits written as 1. QCANCEL on a ring without unread entries answers 4 when no launch has the SEQ, and for the one that has it 1 and makes it
CANCELLED with status 1 where it was PENDING, else 2 where it was DISPATCHED or 3 where it was DONE. QCFG0 takes its fields while EN = 0 and
keeps them while EN = 1. An entry that is read while no earlier one is still being checked passes HEAD and is PENDING when its reserved bits
are zero and it starts some hart, else it is DONE with status 3 and its fill due; that entries are read one at a time is log entry 36. A header
that cannot be selected ends its launch with status 4; an EVI image with no translation waits for one; one that fits the tableau is kept with
the launch. A dispatch sends one record to every hart that the launch starts in its target gangs, in order, and the launch is DISPATCHED with
those harts left to end. A launch with no hart left and no event of theirs outstanding is DONE with status 0: its completion word is FULL
and holds SEQ with STATUS and ERR zero, and bit 63 where it was FULL or POISON (R85), DONE is counted, and of memory only that word and DONE
in the control block change (R335), where that is another word. -/
def Obligations.QueueSteps : Prop :=
  ∀ (s : State) (q : BitVec 12),
    let x := s.queue q
    (∀ v : Word, let tail : BitVec 32 := v.setWidth 32
      ∃ t, Completes (.qtailWrite q .low v) s t ∧ t.mem = s.mem ∧
        ((tail - x.head).toNat ≤ 2 ^ x.lsize → t.queue q = { x with tail := tail }) ∧
        (2 ^ x.lsize < (tail - x.head).toNat → t.queue q = { x with ovf := true })) ∧
    (∀ v : Word, ∃ t, Completes (.qstatWrite q .low v) s t ∧ t.mem = s.mem ∧
      t.queue q = { x with cwerr := x.cwerr && !v.getLsbD 3, ovf := x.ovf && !v.getLsbD 2 }) ∧
    (∀ v : Word, x.head = x.tail →
      (x.launches = [] → ∃ t, Completes (.qcancelWrite q .low v) s t ∧ t.mem = s.mem ∧ (t.queue q).result = 4 ∧
        (t.queue q).cancelSeq = v.setWidth 32) ∧
      (∀ l, x.launches = [l] → l.readable = true → l.seq = v.toNat % 2 ^ 32 → (x.head - BitVec.ofNat 32 l.index).toNat ≤ 2 ^ x.lsize →
        ∃ t, Completes (.qcancelWrite q .low v) s t ∧ t.mem = s.mem ∧
          (l.state = .pending → (t.queue q).result = 1 ∧ HasLaunch (t.queue q) l.id fun k => k.state = .cancelled ∧ k.status = 1 ∧ k.fill = true) ∧
          (l.state = .dispatched → (t.queue q).result = 2 ∧ (t.queue q).launches = [l]) ∧
          (l.state = .done → (t.queue q).result = 3 ∧ (t.queue q).launches = [l]))) ∧
    (∀ v : Word, s.queueLocked q = false →
      (x.en = false → ∃ t, Completes (.qcfgWrite q 0 .both v) s t ∧
        bits (t.queue q).cfg0 6 42 = bits v 6 42 ∧ bits (t.queue q).cfg0 0 5 = min 16 (bits v 0 5)) ∧
      (x.en = true → ∃ t, Completes (.qcfgWrite q 0 .both v) s t ∧ (t.queue q).cfg0 = x.cfg0)) ∧
    (x.en = true → x.killed = false →
      (∀ s' ws, x.head ≠ x.tail → x.current = none → (∀ l ∈ x.launches, l.index ≠ x.head.toNat) →
        s.feRead x.tabId false 8 (x.entryVa x.head.toNat) = (s', some ws) → s'.queues = s.queues → s'.nextId = s.nextId →
        (∀ h, (s'.feHome x.tabId { needR with r := false } (ws.getD 3 0)).2 = some h → h.isHost = false) → s'.cachedHeader x.tabId (ws.getD 0 0) = none →
          ∃ t, Completes (.launchEntryRead q) s t ∧ (t.queue q).head = x.head + 1 ∧
            (entryOk ws = true → HasLaunch (t.queue q) s.nextId fun k => k.words = ws ∧ k.state = .pending) ∧
            (entryOk ws = false → HasLaunch (t.queue q) s.nextId fun k => k.words = ws ∧ k.state = .done ∧ k.status = 3 ∧ k.fill = true)) ∧
      (∀ l, x.current = some l → l.header = none → l.waits = none →
        (∀ s', s.selectImage x.tabId l.khdr = (s', .bad) → s'.queues = s.queues →
          ∃ t, Completes (.headerFetch q) s t ∧ HasLaunch (t.queue q) l.id fun k => k.state = .done ∧ k.status = 4 ∧ k.fill = true) ∧
        (∀ s' d, s.selectImage x.tabId l.khdr = (s', .evi d) → s'.queues = s.queues →
          ∃ t, Completes (.headerFetch q) s t ∧ HasLaunch (t.queue q) l.id fun k => k.waits = some d) ∧
        (∀ s' h y, s.selectImage x.tabId l.khdr = (s', .native h) → s'.queues = s.queues → s'.tab? x.tabId = some y →
          h.slice ≤ y.args.sliceMax → y.shape = some (h.gw, h.gh) → l.s0 + l.stages ≤ y.args.stages → l.g0 + l.gangs ≤ y.args.gangs →
            ∃ t, Completes (.headerFetch q) s t ∧ HasLaunch (t.queue q) l.id fun k => k.header = some h)) ∧
      (∀ l h, x.current = some l → l.header = some h → x.gate = none → l.serial = false →
        let harts := (s.targets x.tabId l).flatMap fun u => u.harts.filter fun h => l.hmask.testBit h.num.toNat
        ∃ t new, Completes (.launchDispatch q) s t ∧ t.mem = s.mem ∧ t.msgs = s.msgs ++ new ∧
          (new.map fun m => (m.dst, m.msg.dst, m.msg.header.getLsbD 23)) = harts.map (fun h => (h.tile, h.num.toNat, true)) ∧
          HasLaunch (t.queue q) l.id fun k => k.state = .dispatched ∧ k.left = harts)) ∧
    (∀ l tl off, x.launches.find? (fun k => k.id == l.id) = some l → l.state = .dispatched → l.left = [] → s.launchQuiet l = true →
      l.readable = true →
      l.cword.toNat % 8 = 0 → tl.tab = x.tabId → ReachedSlice s tl l.cword off → s.entryBad tl = false → s.mem.wf = true → s.latentUE = [] →
        let home : Home := .slice tl off
        let u := s.completionFill home (BitVec.ofNat 64 l.seq)
        let value := l.seq + if s.tagOf home = .full ∨ s.tagOf home = .poison then 2 ^ 63 else 0
        (∀ s' h, u.qcbHome q = (s', some h) → h.plus 8 ≠ home) →
        u.tagOf home = .full ∧ u.readNat home 8 = value ∧ OnlyWords home 8 [home] s u ∧
        ∃ t, Completes (.launchDone q l.id) s t ∧ t.mem = (u.qcbWrite q 8 (x.done + 1)).mem ∧ t.tagOf home = .full ∧ t.readNat home 8 = value ∧
          (t.queue q).done = x.done + 1 ∧ HasLaunch (t.queue q) l.id fun k => k.state = .done ∧ k.status = 0 ∧ k.fill = false)

/-- The steps of gates and of killing a tableau (R100, R346, R400): for a launch that is ready, an attempt on a FULL gate word opens the
gate for it, for that one launch (log entry 36), and one on an EMPTY word leaves the next attempt due, or, at the end of the attempts or where
its record was linked before, parks the word and links the record; a wake makes the front end try again; TBL_KILL stops the tableau's harts,
performs the stores that they have executed, and none of their accesses after, and once no matrix engine works for it removes it with its
harts, and its slices read as never written (log entry 17). -/
def Obligations.GateAndKillSteps : Prop :=
  ∀ s : State, s.latentUE = [] →
    (∀ (q : BitVec 12) (g : Gate) (l : Launch) (hd : Header) (tl : TileId) (off : Nat),
      let x := s.queue q
      let opened := some { g with full := some l.id, linked := none, woken := false }
      x.gate = some g → x.ready = some (l, hd) → g.full ≠ some l.id → tl.tab = x.tabId → ReachedSlice s tl g.va off → s.entryBad tl = false →
        (g.linked = none ∨ g.woken = true →
          (s.tagOf (.slice tl off) = .full → ∃ t, Completes (.gateRead q) s t ∧ (t.queue q).gate = opened) ∧
          (s.tagOf (.slice tl off) = .empty → g.linked = none → g.tries < Hart.reset.schedule.2.2 →
            let due := max s.now g.due + interval Hart.reset.schedule (g.tries + 1)
            ∃ t, Completes (.gateRead q) s t ∧ t.mem = s.mem ∧
              (t.queue q).gate = some { g with tries := g.tries + 1, due := due }) ∧
          (s.tagOf (.slice tl off) = .empty ∨ s.tagOf (.slice tl off) = .parked → g.linked ≠ none ∨ Hart.reset.schedule.2.2 ≤ g.tries →
            s.mem.wf = true →
            ∃ t, Completes (.gateRead q) s t ∧ t.tagOf (.slice tl off) = .parked ∧ (∀ a, t.mem.byte a = s.mem.byte a) ∧
              (t.queue q).gate = some { g with linked := some (.slice tl off), woken := false } ∧
              ∃ k, (k, ParkReq.link { tab := tl.tab, key := parkKey (.slice tl off), seq := 0, kind := 0, hart := none, queue := q, woken := false,
                                      more := false }) ∈ t.parkReqs)) ∧
        (s.wakes.any (fun m => m.hart.isNone && m.queue == q) = true → s.tagOf (.slice tl off) = .full →
          ∃ t, Completes (.frontEndWake q) s t ∧ (t.queue q).gate = opened ∧ ∀ m ∈ t.wakes, ¬(m.hart = none ∧ m.queue = q))) ∧
    (∀ (tab : BitVec 16) (x : Tableau), s.tab? tab = some x →
      (s.enginesQuiet tab = true →
        ∃ t, Completes (.tblKill tab) s t ∧ t.tab? tab = none ∧ (∀ p ∈ t.harts, p.1.tile.tab ≠ tab) ∧ (∀ p ∈ t.tiles, p.1.tab ≠ tab) ∧
          (∀ p ∈ t.granules, p.2.tab ≠ tab) ∧ (∀ vt off, off < 2 ^ 22 → t.mem.byte (Home.slice ⟨tab, vt⟩ off).key = 0) ∧
          (x.alive = true → ∀ p ∈ s.queues, p.2.tabId = tab → (t.queue p.1).killed = true)) ∧
      (s.enginesQuiet tab = false → x.alive = false → Completes (.tblKill tab) s s) ∧
      ∃ t, Completes (.tblKill tab) s t ∧ (∀ z, t.tab? tab = some z → z.alive = false) ∧
        (x.alive = true → (∀ g ∈ s.gangsOf tab, ∀ h ∈ s.gangHarts g, (t.hartOf h).run = .halted) ∧ (∀ o ∈ t.ops, o.hart.tile.tab ≠ tab) ∧
          ∀ (o : MemOp) (p : Part) (d : Nat), s.enginesQuiet tab = false → (∀ q ∈ s.queues, q.2.tabId ≠ tab) →
            (∀ h : HartId, h.tile.tab = tab → (s.hartOf h).mxq = []) → (∀ y ∈ s.tiles, y.1.tab = tab → y.2.wbuf = []) → s.ops = [o] → o.hart.tile.tab = tab → o.kind = .store → o.parts = [p] →
            p.over = false → p.home = .hbm d → s.pageOk (.hbm d) = true → (∀ j < 128, s.plain (.hbm (d + j)) = true) →
            t.mem = (s.writePart p).mem))

namespace Sys2Proof.Machine

/-- Memory is as before but for the words of the tile-map entries of some tiles (R19). -/
def SameButEntries (ts : List TileId) (s t : State) : Prop :=
  ∀ a, t.mem.tag a = s.mem.tag a ∧
    ((∀ u ∈ ts, ¬((s.mapHome u).key ≤ a ∧ a < (s.mapHome u).key + 8)) → t.mem.byte a = s.mem.byte a)

end Sys2Proof.Machine

/-- Steps of the ostler and of the swap engines (after parts of R23, R160, R162, R321, R347 to R353, R366 to R368, R373 to R376, R423): a
pass places a gang that fits, whose entries turn SETTLING inward at once, or where its context is in shadow elsewhere, once they are ABSENT;
the slice of a co-residency set, of its highest PRIO from its last placement, and the timer make a pass due; a stop request reaches every hart
and at the deadline stops it; swap-out saves the accumulator slots and leaves the entries SETTLING outward; write-back leaves them ABSENT; swap-in leaves them RESIDENT,
loads SY.PTILE, at the first placement alone SY.PARKBASE and for each group the phase last passed (R276), keeps decoded ops (R394), lets stopped harts go on and tells every hart of the barrier phases that passed, once
every saved slot finds one of its new engine (log entry 89). How
a pass chooses is log entry 37; the order of the steps of a swap and where a stopped hart goes on is log entry 38; the pass needs a head factor that
has renewed its lease within 9 ms (log entry 45). -/
def Obligations.OstlerSteps : Prop :=
  ∀ (s : State) (gg : GangId),
    let x := s.gang gg
    (s.ostler.due = false ∨ s.factors.decides s.now = false → Completes .ostlerPass s s) ∧
    (s.ostler.due = true → s.factors.deciding = true → s.now < s.factors.renewed + 36000000 →
      let s' := ({ s with ostler := { s.ostler with due := false, lastPass := s.now } } : State).answers'
      ∀ f, s'.runnable = [[gg]] → s'.starving [gg] = false → s'.leavers [] [[gg]] = [] →
        s'.choose gg (fun q => freeFor [] [gg] q && !(s'.occupancy.any fun o => o.1 == q)) = some f →
        ∃ t, Completes .ostlerPass s t ∧ t.ostler.lastPass = s.now ∧ (t.gang gg).sched = .placing ∧
          (t.gang gg).st = (if s'.inPlace gg f then .settlingIn else (s'.gang gg).st) ∧
          (t.gang gg).x0 = f.x0 ∧ (t.gang gg).y0 = f.y0 ∧ (t.gang gg).orient = f.orient) ∧
    (∃ t, Completes .passTimer s t ∧ t.mem = s.mem ∧ t.ostler.due = true ∧ s.ostler.lastPass + 4000 ≤ t.now ∧ s.now ≤ t.now) ∧
    (x.sched = .running → x.expired = false → gg ∈ s.unitOf gg → (∀ m ∈ s.unitOf gg, (s.gang m).sched ≠ .placing) →
      ∃ t, Completes (.sliceExpiry gg) s t ∧ t.mem = s.mem ∧ t.ostler.due = true ∧ t.gang gg = { x with expired := true } ∧
        ∃ prio at', (∃ m ∈ s.unitOf gg, prio = (s.gang m).prio) ∧ (∃ m ∈ s.unitOf gg, at' = (s.gang m).placedAt) ∧
          (∀ m ∈ s.unitOf gg, (s.gang m).prio ≤ prio ∧ (s.gang m).placedAt ≤ at') ∧ at' + s.sliceOf prio ≤ t.now) ∧
    (∀ tl : TileId, (s.tile tl).slotClearing = true → (s.mapEntry tl).lslot.isSome = true → s.mem.wf = true →
      let lo := (Home.slice tl 0).key
      let word := (s.mapHome tl).key
      ∃ t, Completes (.loftSlotClear tl) s t ∧ (t.mapEntry tl).fresh = false ∧ (t.mapEntry tl).gen = ((s.mapEntry tl).gen + 1) % 65536 ∧
        (s.validVt tl = true → word + 8 ≤ 2 ^ 42 → t.readWord (s.mapHome tl) = (t.mapEntry tl).word) ∧
        ∀ a, (lo ≤ a ∧ a < lo + 2 ^ 22 → t.mem.byte a = 0 ∧ t.mem.tag a = .full) ∧
          (¬(lo ≤ a ∧ a < lo + 2 ^ 22) → ¬(word ≤ a ∧ a < word + 8) → t.mem.byte a = s.mem.byte a) ∧
          (¬(lo ≤ a ∧ a < lo + 2 ^ 22) → t.mem.tag a = s.mem.tag a)) ∧
    (x.sched = .stopping →
      (∃ t, Completes (.preemptRequest gg) s t ∧ ∀ h ∈ s.gangHarts gg, (t.hartOf h).preqPend = true ∧
        ((s.hartOf h).preqPend = false → (s.hartOf h).run ≠ .running → (t.hartOf h).run = .halted)) ∧
      ((∀ h ∈ s.gangHarts gg, (s.hartOf h).preqPend = true) →
        ∃ t, Completes (.forcedStop gg) s t ∧ ∀ h ∈ s.gangHarts gg, (t.hartOf h).run = .halted ∧ s.deadline h ≤ t.now)) ∧
    (x.sched = .stopping ∨ x.sched = .saving → s.lives gg.tab = true → (∀ h ∈ s.gangHarts gg, (s.hartOf h).run = .halted) →
      s.shadowRoom gg = true →
      ∃ t, Completes (.swapOut gg true) s t ∧ (t.gang gg).inShadow = true ∧ (t.gang gg).st = .settlingOut ∧
        ((t.gang gg).sched = .runnable ∨ (t.gang gg).sched = .idle) ∧ (∀ h ∈ s.gangHarts gg, (t.hartOf h).slots = []) ∧
        (x.st ≠ .settlingOut → ∀ tl ∈ s.gangTiles gg, (t.mapEntry tl).st = .settling ∧ (t.mapEntry tl).dirIn = false)) ∧
    (x.inShadow = true → x.st = .settlingOut → s.latentUE = [] →
      ∃ t, Completes (.loftWriteback gg) s t ∧ SameButEntries (s.gangTiles gg) s t ∧ t.gang gg = { x with st := .absent, inShadow := false } ∧
        ∀ tl ∈ s.gangTiles gg, (t.mapEntry tl).st = .absent) ∧
    (∀ y, s.tab? gg.tab = some y → y.alive = true → x.sched = .placing → x.st = .absent →
      ∃ t, Completes (.swapIn gg) s t ∧ (t.gang gg).st = .settlingIn ∧ (t.gang gg).sched = .placing) ∧
    (∀ y, s.tab? gg.tab = some y → y.alive = true → x.sched = .placing → x.st = .settlingIn → (s.keepSlots gg).slotsKept gg = true →
      y.args.tiles ≤ 64 → s.latentUE = [] →
      ∃ t, Completes (.swapIn gg) s t ∧ SameButEntries (s.gangTiles gg) s t ∧ (t.gang gg).st = .resident ∧ (t.gang gg).sched = .running ∧
        (t.gang gg).placedAt = s.now ∧
        ∀ q ∈ (s.gangTiles gg).zip (s.rectOf gg), (t.mapEntry q.1).st = .resident ∧ (t.mapEntry q.1).ptile = q.2 ∧
          ∀ h ∈ q.1.harts, (t.hartOf h).sy.ptile = ptileWord q.2 ∧
            (t.hartOf h).sy.parkbase = (if x.placed then (s.hartOf h).sy.parkbase else y.parkbase) ∧
            (∀ grp v, find grp (s.hartOf h).bars = some v → ((t.hartOf h).bar grp).seen = (s.group gg.tab grp).phase - 1) ∧
            (x.placed = false → ∀ grp z, find grp y.state = some z →
              ((t.hartOf h).bar grp).phase = z.phase - 1 ∧ ((t.hartOf h).bar grp).passed = true) ∧
            (t.hartOf h).ops = (s.hartOf h).ops ∧
            ((s.hartOf h).stopped = true → (t.hartOf h).run = .running ∧ (t.hartOf h).pc = (s.hartOf h).stoppc)) ∧
    (∀ (tl : TileId) (name : BitVec 6) (b : BName) (g : Granule), find name (s.tile tl).bmap = some b → find b.gid s.granules = some g →
      (g.cluster.isSome = true → (s.gang tl.gang).inShadow = false → g.cluster ≠ s.standsOn tl →
        ∃ t, Completes (.granuleWriteback tl name) s t ∧ t.mem = s.mem ∧ find b.gid t.granules = some { g with cluster := none } ∧
          (tl, b.gid) ∈ t.loftFrames) ∧
      (g.cluster = none → s.resident tl = true →
        ∃ t, Completes (.granuleRestore tl name) s t ∧ t.mem = s.mem ∧
          (tl, b.gid) ∉ t.loftFrames ∧ find b.gid t.granules =
            some { g with cluster := some (s.clusterAt tl), key := ((s.cluster (s.clusterAt tl)).keyOf g.tab).getD g.key }))

namespace Sys2Proof.Machine

/-- A firmware call of a code runs with these words of its block as its arguments, and has no status yet (R398). -/
def CallAsked (c : Caller) (code : Nat) (args : List Nat) (s : State) : Prop :=
  (s.call c).busy = true ∧ (s.call c).started = false ∧ (s.call c).code = code ∧ s.holdsArgs c args = true

/-- It is one that its caller may make: a hart only for its own tableau, and none that PF0 alone makes (R398). -/
def CallRuns (c : Caller) (code : Nat) (tab : Option (BitVec 16)) (pf0 : Bool) (args : List Nat) (s : State) : Prop :=
  CallAsked c code args s ∧ ∀ h, c = .hart h → pf0 = false ∧ (tab = none ∨ tab = some h.tile.tab)

/-- TBL_CREATE runs with these arguments, as its block and the sets that it names hold them (log entry 40). -/
def TblAsked (c : Caller) (a : TblArgs) (s : State) : Prop :=
  (s.call c).busy = true ∧ (s.call c).started = false ∧ (s.call c).code = 9 ∧ s.holdsTbl c a = true

/-- The call ends with a status word in the layout of R398 and the words it returns. -/
def CallEnds (i : Instr) (c : Caller) (status : Nat) (outs : List (Nat × Word)) (s t : State) : Prop :=
  Completes i s t ∧ (t.call c).status = some (BitVec.ofNat 64 (2 ^ 62 + status)) ∧ (t.call c).outs = outs

/-- The call ends so, and nothing else has changed, from what its reads left, but the call's own record. -/
def CallLeaves (i : Instr) (c : Caller) (status : Nat) (s s' : State) : Prop :=
  ∃ t, CallEnds i c status [] s t ∧ t = { s' with calls := t.calls }

/-- The call ends so, and nothing else of the machine has changed but the call's own record. -/
def CallOnly (i : Instr) (c : Caller) (status : Nat) (s : State) : Prop := CallLeaves i c status s s

/-- The front end reaches a word of a queue's tableau on which a gate can stand: aligned and not on a host page (R400, R409). -/
def GateWordAt (s : State) (q : BitVec 12) (va : Word) (h : Home) (s' : State) : Prop :=
  s.feHome (s.queue q).tabId needRW va = (s', some h) ∧ h.isHost = false ∧ va.toNat % 8 = 0

end Sys2Proof.Machine

/-- The firmware calls (after parts of R19, R35, R46, R54, R118, R362, R392, R397, R398, R400, R402, R409): each, with its arguments in its
block as log entry 40 lays them out, ends with the status word of R398, with its effect for good arguments and with none for bad ones, and
a call that its caller may not make is DENIED. Which pages and identifiers are taken, and BADARG for no page, is log entry 41; what a migration to
wafer 0 needs and how the source is left is log entry 42; the order of a storage transfer's accesses is log entry 43; when co-residency sets fit
is log entry 46; which routines are REJECTED for words or fields that mean nothing (routineOk) is log entry 63; where a tableau's tile map and
carrier area stand is log entry 70. A block that none of a call's arguments can be ends it
with BADARG, or DENIED where it names another tableau or a call of PF0 (log entry 40). -/
def Obligations.FirmwareSteps : Prop :=
  ∀ (s : State) (c : Caller) (tab : BitVec 16),
    (∀ (h : HartId) (b : TblArgs) (q p : BitVec 12) (port : BitVec 2) (vf : BitVec 8) (va : Word) (wafer n vt j : Nat) (src : BitVec 16),
      c = .hart h →
      (TblAsked c b s → CallOnly (.tblCreate c b) c 2 s) ∧
      (CallAsked c 0x0A [q.toNat, port.toNat, vf.toNat] s → CallOnly (.queueAssign c q port vf) c 2 s) ∧
      (CallAsked c 0x0C [q.toNat, p.toNat, wafer, n] s → CallOnly (.migrate c q p wafer va n) c 2 s) ∧
      (CallAsked c 0x0F [tab.toNat, vt, j, src.toNat] s → tab ≠ h.tile.tab → CallOnly (.postIrq c tab vt j src) c 2 s)) ∧
    (∀ count, CallRuns c 0x01 none false [count] s → s.mem.wf = true →
      (count = 0 → CallOnly (.memAlloc c count) c 4 s) ∧
      (count ≠ 0 → s.findRun count = none → CallOnly (.memAlloc c count) c 3 s) ∧
      (∀ p, count ≠ 0 → s.findRun count = some p →
        ∃ t, CallEnds (.memAlloc c count) c 0 [(1, BitVec.ofNat 64 p)] s t ∧
          (∀ n, count = 1 → s.freeFrame (p % 64) = some n →
            find p t.dpit = some { pin := false, valid := true, frame := n, stk := p % 64, exported := false }) ∧
          ∀ a, (65536 * p ≤ a ∧ a < 65536 * (p + count) → t.mem.byte a = 0 ∧ t.mem.tag a = .full) ∧
            (¬(65536 * p ≤ a ∧ a < 65536 * (p + count)) → t.mem.byte a = s.mem.byte a ∧ t.mem.tag a = s.mem.tag a))) ∧
    (∀ page count, let named := fun (p : Nat) => page ≤ p ∧ p < page + count
      (CallRuns c 0x02 none false [page, count] s →
        (s.namesPages page count = false ∨ s.looseFrom page count = false → CallOnly (.memFree c page count) c 4 s) ∧
        (s.namesPages page count = true → s.looseFrom page count = true →
          ∃ t, CallEnds (.memFree c page count) c 0 [] s t ∧ t.mem = s.mem ∧
            ∀ p, (named p → t.pageValid p = false) ∧ (¬named p → find p t.dpit = find p s.dpit))) ∧
      (∀ pin exported, CallRuns c 0x03 none false [page, count, b2n pin, b2n exported] s →
        (s.namesPages page count = false → CallOnly (.memPin c page count pin exported) c 4 s) ∧
        (s.namesPages page count = true → ∃ t, CallEnds (.memPin c page count pin exported) c 0 [] s t ∧ t.mem = s.mem ∧
          ∀ p, (¬named p → find p t.dpit = find p s.dpit) ∧
            ∀ e, find p s.dpit = some e → named p → find p t.dpit = some { e with pin := pin, exported := exported }))) ∧
    (∀ (addr : Word) s' ws, CallRuns c 0x04 none false [addr.toNat] s →
      s.callRead c ((s.call c).reg.getLsbD 56) 512 addr = (s', some ws) →
      let entry := fun (k : Nat) => (ws.drop (8 * k)).take 8
      ((∀ k, k < 64 → routineOk (entry k) = true) → ∃ t, CallEnds (.routineLoad c addr) c 0 [] s t ∧
        ∀ k, k < 64 → find k t.routines = if routineSteps (entry k) = [] then none else some (entry k)) ∧
      (∀ k, k < 64 → routineOk (entry k) = false → ∃ t, CallEnds (.routineLoad c addr) c 5 [] s t ∧ t.routines = s'.routines)) ∧
    (∀ (entry : BitVec 4) session wrapped y s', CallRuns c 0x05 (some tab) false [tab.toNat, entry.toNat, session] s →
      s.wrappedKey c = (s', some wrapped) → s'.tab? tab = some y →
      match Config.unwrap session tab entry wrapped with
      | none => CallLeaves (.keyLoad c tab entry session wrapped) c 4 s s'
      | some key => (entry = 0 → CallLeaves (.keyLoad c tab entry session wrapped) c 4 s s') ∧
          (entry ≠ 0 → ∃ t z, CallEnds (.keyLoad c tab entry session wrapped) c 0 [] s t ∧ t.mem = s'.mem ∧ t.tab? tab = some z ∧
            find entry z.keys = some key ∧ ∀ e, e ≠ entry → find e z.keys = find e y.keys)) ∧
    (∀ (base : Word) k vector, CallRuns c 0x06 none false [base.toNat, 2 ^ k, vector] s → k < 32 → base.toNat % 64 = 0 → vector < 65536 →
      ∃ t r, CallEnds (.errRing c base (2 ^ k) vector) c 0 [] s t ∧ t.mem = s.mem ∧ t.errRing = some r ∧ r.base = base ∧
        r.count = 2 ^ k ∧ r.vector = vector ∧ r.caller = c) ∧
    (∀ (digest : List Byte) (header : Word), digest.length = 32 →
      let waits := fun (l : Launch) => l.waits = some digest ∧ l.state = .pending
      ((∀ y, CallRuns c 0x07 (some tab) false (tab.toNat :: (digestWords digest ++ [header.toNat])) s → s.tab? tab = some y →
        ∃ t z, CallEnds (.xlateReg c tab digest header) c 0 [] s t ∧ t.mem = s.mem ∧ t.tab? tab = some z ∧ find digest z.xlate = some header ∧
          ∀ q ∈ t.queues, q.2.tabId = tab → ∀ l ∈ q.2.launches, ¬waits l) ∧
       ∃ t, Completes (.translationDeclined tab digest) s t ∧ t.mem = s.mem ∧
         ∀ q, (s.queue q).tabId = tab → (∃ y, find q s.queues = some y) → ∀ l ∈ (s.queue q).launches, waits l →
           HasLaunch (t.queue q) l.id fun k => k.state = .done ∧ k.status = 4 ∧ k.fill = true)) ∧
    (∀ index port (partner : BitVec 16) y, CallRuns c 0x08 (some tab) false [tab.toNat, index, port, partner.toNat] s → s.tab? tab = some y →
      (576 ≤ index → CallOnly (.peerSet c tab index port partner) c 4 s) ∧
      (index < 576 → port ≤ 0xFFFF → ∃ t z, CallEnds (.peerSet c tab index port partner) c 0 [] s t ∧ t.mem = s.mem ∧ t.tab? tab = some z ∧
        find index z.peers = if port = 0xFFFF then none else some (port, partner))) ∧
    (∀ args, TblAsked c args s → (∀ h, c ≠ .hart h) → let s' := (s.callSets c).1
      (s'.tblOk args = false → CallLeaves (.tblCreate c args) c 4 s s') ∧
      (s'.tblOk args = true → s'.newTab = none ∨ s'.findRun (areaPages args) = none → CallLeaves (.tblCreate c args) c 3 s s') ∧
      (∀ id p, s'.tblOk args = true → s'.newTab = some id → s'.findRun (areaPages args) = some p → s'.mem.wf = true →
        ∃ t z, CallEnds (.tblCreate c args) c 0 [(1, id.setWidth 64)] s t ∧ t.tab? id = some z ∧ z.args = args ∧ z.shape = none ∧
          z.alive = true ∧ z.mapBase = 65536 * p ∧
          (∀ g ∈ t.gangsOf id, ∀ u ∈ t.gangTiles g, (t.mapEntry u).st = .absent ∧ (t.mapEntry u).fresh = true ∧ (t.mapEntry u).gen = 0) ∧
          ∀ a, ¬(65536 * p ≤ a ∧ a < 65536 * (p + areaPages args)) → t.mem.tag a = s'.mem.tag a ∧
            ((∀ g ∈ t.gangsOf id, ∀ u ∈ t.gangTiles g, ¬((t.mapHome u).key ≤ a ∧ a < (t.mapHome u).key + 8)) →
              t.mem.byte a = s'.mem.byte a))) ∧
    (∀ (vt : BitVec 20) (j : BitVec 2) (src : BitVec 16), CallRuns c 0x0F (some tab) false [tab.toNat, vt.toNat, j.toNat, src.toNat] s →
      let alive := ∃ y, s.tab? tab = some y ∧ y.alive = true
      (s.validVt ⟨tab, vt⟩ = true → alive → ∃ t, CallEnds (.postIrq c tab vt.toNat j.toNat src) c 0 [] s t ∧ t.mem = s.mem ∧
        (t.hartOf ⟨⟨tab, vt⟩, j⟩).irqs = (s.hartOf ⟨⟨tab, vt⟩, j⟩).irqs ++ [src]) ∧
      (s.validVt ⟨tab, vt⟩ = false ∨ ¬alive → CallOnly (.postIrq c tab vt.toNat j.toNat src) c 4 s)) ∧
    (∀ (q : BitVec 12) (port : BitVec 2) (vf : BitVec 8), CallRuns c 0x0A none true [q.toNat, port.toNat, vf.toNat] s →
      (s.queueLocked q = true → CallOnly (.queueAssign c q port vf) c 6 s) ∧
      (s.queueLocked q = false → ∃ t, CallEnds (.queueAssign c q port vf) c 0 [] s t ∧ t.mem = s.mem ∧
        t.queue q = { s.queue q with port := port, vf := vf })) ∧
    (∀ (q : BitVec 12) (va : Word), CallRuns c 0x0B none false [q.toNat, va.toNat] s →
      (va = 0 → ∃ t, CallEnds (.queueGate c q va) c 0 [] s t ∧ t.queue q = { s.queue q with gate := none }) ∧
      (∀ s' o, va ≠ 0 → s.feHome (s.queue q).tabId { needR with r := false } va = (s', o) → s'.queues = s.queues →
        ((∃ h, o = some h ∧ h.isHost = true) ∨ va.toNat % 8 ≠ 0 → CallLeaves (.queueGate c q va) c 4 s s') ∧
        ((∀ h, o = some h → h.isHost = false) → va.toNat % 8 = 0 →
          ∃ t g, CallEnds (.queueGate c q va) c 0 [] s t ∧ t.queue q = { s.queue q with gate := some g } ∧
            g.va = va ∧ g.tries = 0 ∧ g.full = none ∧ g.linked = none))) ∧
    (∀ (src dst : BitVec 12) (gate : Word) (deadline : Nat), CallRuns c 0x0C none true [src.toNat, dst.toNat, 0, deadline] s →
      (s.queueLocked src = true ∨ s.queueLocked dst = true → CallOnly (.migrate c src dst 0 gate deadline) c 6 s) ∧
      (s.queueLocked src = false → s.queueLocked dst = false →
        src = dst ∨ (s.queue dst).active = true ∨ (s.queue src).migration ≠ none → CallOnly (.migrate c src dst 0 gate deadline) c 4 s) ∧
      (s.queueLocked src = false → s.queueLocked dst = false → src ≠ dst → (s.queue dst).active = false → (s.queue src).migration = none →
        (s.queue src).gate ≠ none → (∀ h s', ¬GateWordAt s src gate h s') → Completes (.migrate c src dst 0 gate deadline) s s) ∧
      (s.queueLocked src = false → s.queueLocked dst = false → src ≠ dst → (s.queue dst).active = false →
        (s.queue src).migration = none → (s.queue src).gate = none ∨ (∃ h s', GateWordAt s src gate h s') →
        ∃ t m, Completes (.migrate c src dst 0 gate deadline) s t ∧ t.mem = s.mem ∧ (t.call c).started = true ∧ (t.call c).status = (s.call c).status ∧
          (t.queue src).migration = some m ∧ m.dst = dst ∧ m.newGate = gate ∧ m.deadline = s.now + 4000 * deadline)) ∧
    (∀ (q : BitVec 12) (m : Migration), (s.queue q).migration = some m → (s.queue q).still = true → m.wafer = 0 → m.dst ≠ q →
      (∀ s', s.gateOpen q = (s', some true) → s'.queue q = s.queue q → s'.queue m.dst = s.queue m.dst →
        ∃ t, CallEnds (.migrateFreeze q) m.caller 0 [] s t ∧ (t.queue q).launches = [] ∧ (t.queue q).head = 0 ∧
          (t.queue m.dst).launches = (s.queue q).launches ∧ (t.queue m.dst).head = (s.queue q).head ∧ (t.queue m.dst).tail = (s.queue q).tail ∧
          (t.queue m.dst).gate = none ∧ (t.queue m.dst).port = (s.queue m.dst).port ∧ (t.queue m.dst).vf = (s.queue m.dst).vf) ∧
      (∀ s', (s.reach m.deadline).gateOpen q = (s', none) → s'.queue q = s.queue q → ∃ t, Completes (.migrateDeadline q) s t ∧ t.queues = s'.queues ∧ t.calls = s'.calls) ∧
      (∀ s' old h s'', (s.reach m.deadline).gateOpen q = (s', some false) → (s.queue q).gate = some old → s'.queue q = s.queue q →
        GateWordAt s' q m.newGate h s'' → s''.queue q = s.queue q → s''.queue m.dst = s.queue m.dst →
        (s''.feOpen h = false → ∃ t, Completes (.migrateDeadline q) s t ∧ t.queues = s''.queues ∧ t.calls = s''.calls) ∧
        (s''.feOpen h = true →
          ∃ t g, CallEnds (.migrateDeadline q) m.caller 0 [(1, old.va), (2, m.newGate)] s t ∧ m.deadline ≤ t.now ∧
            (t.queue q).launches = [] ∧ (t.queue m.dst).launches = (s.queue q).launches ∧ (t.queue m.dst).gate = some g ∧ g.va = m.newGate ∧
            (s''.pageOk h = true → s''.mem.wf = true → s''.latentUE = [] →
              ∃ u, u.tagOf h = .empty ∧ SameBytesBut h 8 s'' u ∧ u.queues = s''.queues ∧ t.mem = (u.moveQueue q m (some g)).mem)))) ∧
    (∀ (q : BitVec 12) (m : Migration), (s.queue q).migration = some m → (s.queue q).still = true → m.wafer ≠ 0 →
      (∀ s', s.gateOpen q = (s', some true) → s'.queue q = s.queue q →
        ∃ t, CallEnds (.migrateFreeze q) m.caller 0 [] s t ∧ (t.queue q).launches = [] ∧ (t.queue q).en = false) ∧
      (∀ s' old, (s.reach m.deadline).gateOpen q = (s', some false) → s'.queue q = s.queue q → (s.queue q).gate = some old →
        ∃ t, CallEnds (.migrateDeadline q) m.caller 0 [(1, old.va), (2, m.newGate)] s t ∧ (t.queue q).launches = [] ∧ (t.queue q).en = false)) ∧
    (∀ (a : StoreArgs) (s' : State) (write : Bool), let i := if write then Instr.storeWrite c a else Instr.storeRead c a
      CallRuns c (if write then 0x0E else 0x0D) (some a.tab) false (storeBlock a) s → s'.calls = s.calls →
        (s.storeArgs a (if write then needR else needW) = (s', false) → ∃ t, CallEnds i c 4 [] s t ∧ t.mem = s'.mem) ∧
        (s.storeArgs a (if write then needR else needW) = (s', true) →
          ∃ t, Completes i s t ∧ t.mem = s'.mem ∧ (t.call c).started = true ∧ t.transfer = s'.transfer ++ [{ caller := c, write := write, args := a }])) ∧
    (∀ (data : List Byte) (a : StoreArgs), let rest := ({ s with transfer := s.transfer.filter fun x => x.caller ≠ c } : State)
      (s.transfer.find? (fun t => t.caller = c) = some { caller := c, write := false, args := a } → a.key = none →
        (∃ t, CallEnds (.storeTransferDone c data none) c 0 [] s t ∧ (∀ x ∈ t.transfer, x.caller ≠ c) ∧
          t.mem = (rest.storeWords a.tab (fun _ => true) (512 * a.count) a.va data 0).mem) ∧
        ∀ b, ∃ t, CallEnds (.storeTransferDone c data (some b)) c 7 [(1, BitVec.ofNat 64 b)] s t ∧ ∀ x ∈ t.transfer, x.caller ≠ c) ∧
      (∀ s' ws, s.transfer.find? (fun t => t.caller = c) = some { caller := c, write := true, args := a } →
        rest.feRead a.tab false (512 * a.count) a.va = (s', some ws) →
        ∃ t, CallEnds (.storeTransferDone c data none) c 0 [] s t ∧ t.mem = s'.mem ∧
          t.answers = s'.answers ++ [.flash a (ws.flatMap fun w => leBytes 8 w.toNat)])) ∧
    (∀ (w : Word) (b : Home), (s.call c).busy = true → (s.call c).status = some w → (s.call c).block = some b → (s.call c).outs = [] →
      (b.isHost = true → s.mem.wf = true → ∃ t, Completes (.fwCallStatus c) s t ∧ (t.call c).busy = false ∧ t.readWord b = w ∧
        SameBytesBut b 8 s t) ∧
      (∀ dpa, b = .hbm dpa → s.pageOk b = true → s.latentUE = [] → s.mem.wf = true → s.plain b = true → s.tagOf b = .empty → w.getLsbD 63 = false →
        ∃ t, Completes (.fwCallStatus c) s t ∧ (t.call c).busy = false ∧ t.readWord b = w ∧ t.tagOf b = .full ∧ SameBytesBut b 8 s t)) ∧
    (s.callBad c = true →
      let denied := ∃ h, c = .hart h ∧ ((s.call c).code ∈ [9, 10, 12] ∨
        (s.callArgs c ≠ [] ∧ ∃ i, tabWord (s.call c).code = some i ∧ (s.argAt c i).toNat ≠ h.tile.tab.toNat))
      (denied → CallOnly (.fwCallStatus c) c 2 s) ∧ (¬denied → CallLeaves (.fwCallStatus c) c 4 s (s.callLook c)))

namespace Sys2Proof.Machine

/-- Slot n of the loft holds the context of a tile, and an aligned word at an offset in it is what a port reaches (R19, R378, R396). -/
def LoftWord (s : State) (p : BitVec 2) (tl : TileId) (n off : Nat) : Prop :=
  s.slotTile n = some tl ∧ s.inLoft tl = true ∧ off < 2 ^ 23 ∧ off % 8 = 0 ∧ s.loftBase + 2 ^ 23 * n + off < 2 ^ 42 ∧
    s.hostReaches p (s.loftBase + 2 ^ 23 * n + off) = true

/-- The slice word whose tag the words of slice tags hold as pair i of the one at an offset of a slot (R378). -/
def taggedBy (tl : TileId) (off i : Nat) : Home := .slice tl (8 * (4 * (off - 0x400000) + i))

/-- A saved context in the loft, as a host reads and writes it at its DPAs (R378, R379): the slice data, the slice tags, and of a hart area the
general and the vector registers; a write changes what the context holds there, and nothing else of it. The last part of a slot reads as zero;
that it and the tile area take nothing from a write is the model's choice, log entry 79. -/
def LoftContexts (s : State) (p : BitVec 2) : Prop :=
  ∀ (tl : TileId) (n off : Nat), LoftWord s p tl n off → s.latentUE = [] →
    let dpa := s.loftBase + 2 ^ 23 * n + off
    let hart := fun (j : BitVec 2) => (⟨tl, j⟩ : HartId)
    let gAt := fun (j : BitVec 2) (r : Reg) => off = 0x430000 + 0x4000 * j.toNat + 8 * r.toNat
    let vAt := fun (j : BitVec 2) (r : Reg) (k : Nat) => k < 8 ∧ off = 0x430200 + 0x4000 * j.toNat + 64 * r.toNat + 8 * k
    let inTags := 0x400000 ≤ off ∧ off < 0x420000
    let lane := fun (v : VWord) (k : Nat) => v.extractLsb' (64 * k) 64
    (s.tagOf (.hbm dpa) ≠ .poison →
      ∃ t bs, Completes (.hostMemoryRead p (BitVec.ofNat 42 dpa) 8) s t ∧ t.mem = s.mem ∧
        t.answers = s.answers ++ [.read p dpa (some bs)] ∧
        (off < 0x400000 → leNat bs = s.readNat (.slice tl off) 8) ∧
        (inTags → ∀ i, i < 32 → Tag.ofCode (leNat bs / 4 ^ i) = s.tagOf (taggedBy tl off i)) ∧
        (∀ j r, gAt j r → leNat bs = ((s.hartOf (hart j)).gr r).toNat) ∧
        (∀ j r k, vAt j r k → leNat bs = (lane ((s.hartOf (hart j)).vr r) k).toNat) ∧
        (0x6C0000 ≤ off → leNat bs = 0)) ∧
    (s.mem.wf = true → ∀ w : Word,
      ∃ t, Completes (.hostMemoryWrite p (BitVec.ofNat 42 dpa) (leBytes 8 w.toNat)) s t ∧
        let sameBytes := ∀ a, t.mem.byte a = s.mem.byte a
        (off < 0x400000 → t.readNat (.slice tl off) 8 = w.toNat ∧ SameBytesBut (.slice tl off) 8 s t ∧ t.harts = s.harts) ∧
        (inTags → (∀ i, i < 32 → t.tagOf (taggedBy tl off i) = Tag.ofCode (w.toNat / 4 ^ i)) ∧ sameBytes ∧ t.harts = s.harts) ∧
        (∀ j r, gAt j r → sameBytes ∧ (∀ h, h ≠ hart j → t.hartOf h = s.hartOf h) ∧
          ∀ q, (t.hartOf (hart j)).gr q = if q = r ∧ q ≠ 0 then w else (s.hartOf (hart j)).gr q) ∧
        (∀ j r k, vAt j r k → sameBytes ∧ (∀ h, h ≠ hart j → t.hartOf h = s.hartOf h) ∧
          ∀ q i, i < 8 → lane ((t.hartOf (hart j)).vr q) i = if q = r ∧ i = k then w else lane ((s.hartOf (hart j)).vr q) i) ∧
        ((0x420000 ≤ off ∧ off < 0x430000) ∨ 0x6C0000 ≤ off → sameBytes ∧ t.harts = s.harts))

end Sys2Proof.Machine

/-- The part as a whole, after parts of the rules named. Device registers take the fields that they have within their ranges (R40, R353),
TBL_KILL and FW.CALL act, and a function reaches only its own blocks (R395, R398); an MSI-X table is not written while its interface is locked
(R397; where the tables stand is log entry 80). A host reads and writes pages that its port reaches, a POISON word completing a read poisoned (R396,
log entry 44), and saved contexts at their loft DPAs (R378, R379; log entry 79). A tracking period ends with pages chosen, each to a stack of the quadrant that most of its accesses came from, and a page moves
while EN = 1 (R40, R103; the choice and the quadrants are log entry 50). A scrubbed granule that is uncorrectable is POISON, a duty and a power
mode take effect. A cold or warm start that passes its checks leaves the machine of reset with its map, and one that does not stops (R404,
R407; log entry 45); a recovery image is written on port 0 alone. A share shrinks, a map entry is rewritten, an interface is locked, and a
measurement is answered (R405; what each holds is log entry 7, the requests are log entry 46). The lease is renewed before 9 ms, lost then, and
given on at 10 ms (R406, log entry 45). -/
def Obligations.DeviceSteps : Prop :=
  ∀ (s : State) (p : BitVec 2),
    (∀ (h : HartId) (v : Word),
      (∃ t, Completes (.deviceRegisterWrite (.hart h) 0x410000 .both v) s t ∧ t.mem = s.mem ∧ t.ostler.cfg.toNat < 2 ^ 20 ∧
        bits t.ostler.cfg 0 16 = max 1 (bits v 0 16) ∧ bits t.ostler.cfg 16 4 = max 1 (bits v 16 4)) ∧
      (∃ t, Completes (.deviceRegisterWrite (.hart h) 0x400000 .both v) s t ∧ t.mem = s.mem ∧ bits t.drover.ctl 0 1 = bits v 0 1 ∧
        bits t.drover.ctl 2 10 = min 1000 (max 10 (bits v 2 10)) ∧ bits t.drover.ctl 12 13 = min 4096 (bits v 12 13)) ∧
      (∃ t, Completes (.deviceRegisterWrite (.hart h) 0x420000 .low v) s t ∧ t = { s with agenda := t.agenda } ∧
        t.agenda = s.agenda ++ [.tblKill (v.setWidth 16)]) ∧
      Completes (.deviceRegisterWrite (.port p) 0x410000 .both v) s s) ∧
    (∀ v : Word, v.getLsbD 56 = true → s.factors.started = true →
      ((s.call (.port p)).busy = true → Completes (.deviceRegisterWrite (.port p) 0x430000 .both v) s s) ∧
      ((s.call (.port p)).busy = false → ∃ t, Completes (.deviceRegisterWrite (.port p) 0x430000 .both v) s t ∧ t = { s with calls := t.calls } ∧
        (t.call (.port p)).busy = true ∧ (t.call (.port p)).code = bits v 48 8 ∧
        (t.call (.port p)).block = some (.host p.toNat (64 * bits v 6 42)) ∧
        (t.call (.port p)).status = if 1 ≤ bits v 48 8 ∧ bits v 48 8 ≤ 15 then none else some (BitVec.ofNat 64 (2 ^ 62 + 1)))) ∧
    (∀ v : Word, (v.setWidth 2 = (3 : BitVec 2) → Completes (.pwrModeWrite .both v) s s) ∧
      (v.setWidth 2 ≠ (3 : BitVec 2) → ∃ t, Completes (.pwrModeWrite .both v) s t ∧ t.mem = s.mem ∧ t.power.mode = s.power.mode ∧
        t.power.next = some (v.setWidth 2))) ∧
    (∀ m, s.power.next = some m → ∃ t, Completes .powerModeChange s t ∧ t.mem = s.mem ∧ t.power.mode = m ∧ t.power.next = none ∧
      ∀ i, i < 4 → bits t.ostler.slice0 (16 * i) 16 = max (if m = 1 then 18 else 16) (bits s.ostler.slice0 (16 * i) 16) ∧
        bits t.ostler.slice1 (16 * i) 16 = max (if m = 1 then 18 else 16) (bits s.ostler.slice1 (16 * i) 16)) ∧
    (∀ (dpa : BitVec 42) len, let ws := dpaWords dpa.toNat len
      (ws.all fun w => s.hostReaches p w.key) = true → (ws.all fun w => s.pageOk w) = true → s.latentUE = [] →
        ∃ t, Completes (.hostMemoryRead p dpa len) s t ∧ t.mem = s.mem ∧
          ((∀ w ∈ ws, s.tagOf w ≠ .poison) → ∃ bs, t.answers = s.answers ++ [.read p dpa.toNat (some bs)] ∧ bs.length = len ∧
            ∀ i, i < len → bs.getD i 0 = s.loadByte (.hbm dpa.toNat) i) ∧
          ((∀ w ∈ ws, s.tagOf w ≠ .poison) → dpa.toNat + len ≤ s.loftBase →
            t.answers = s.answers ++ [.read p dpa.toNat (some (s.mem.read dpa.toNat len))]) ∧
          ((∃ w ∈ ws, s.tagOf w = .poison) → t.answers = s.answers ++ [.read p dpa.toNat none])) ∧
    (∀ (dpa : BitVec 42) (bytes : List Byte), let h : Home := .hbm dpa.toNat
      dpa.toNat % 8 = 0 → 0 < bytes.length → bytes.length ≤ 8 → s.hostReaches p dpa.toNat = true → s.pageOk h = true → s.plain h = true → s.latentUE = [] →
        s.mem.wf = true → ∃ t, Completes (.hostMemoryWrite p dpa bytes) s t ∧ SameBytesBut h bytes.length s t ∧
          (bytes.length = 8 ∨ s.tagOf h ≠ .poison → t.mem.read dpa.toNat bytes.length = bytes ∧ t.tagOf h = .full) ∧
          (bytes.length < 8 → s.tagOf h = .poison → SameMemory s t)) ∧
    LoftContexts s p ∧
    (∀ moves, (s.drover.en = false → Completes (.droverPeriodEnd moves) s s) ∧
      (s.drover.en = true → ∃ t, Completes (.droverPeriodEnd moves) s t ∧ t.mem = s.mem ∧ t.drover.since = t.now ∧ t.drover.moved = [] ∧
        s.drover.since + s.drover.period ≤ t.now ∧ t.drover.moves.length ≤ s.drover.limit ∧
        t.drover.counts = [] ∧ t.drover.seen = s.drover.counts ∧
        ∀ m ∈ t.drover.moves, m ∈ moves ∧ s.movable m = true ∧
          pageCount s.drover.counts m.1 < 2 * quadCount s.drover.counts m.1 (BitVec.ofNat 2 (m.2 / 16)))) ∧
    (∀ page, s.drover.en = false → Completes (.pageMigration page) s s) ∧
    (∀ (page stk n : Nat) (e : DpitEntry), s.drover.en = true → s.drover.moves.find? (fun m => m.1 == page) = some (page, stk) → s.movable (page, stk) = true →
      page ∉ s.drover.moved → s.freeFrame stk = some n → s.drover.used + 1 ≤ s.drover.limit → find page s.dpit = some e → s.latentUE = [] →
        ∃ t, Completes (.pageMigration page) s t ∧ t.mem = s.mem ∧ find page t.dpit = some { e with stk := stk, frame := n } ∧
          page ∈ t.drover.moved ∧ t.drover.used = s.drover.used + 1 ∧ ∀ q, q ≠ page → find q t.dpit = find q s.dpit) ∧
    (∀ line bad, line < 2 ^ 42 → s.latentUE = [] → s.mem.wf = true →
      ∃ t, Completes (.scrubLine line bad) s t ∧ (∀ a, t.mem.byte a = s.mem.byte a) ∧
        (∀ i, i < 8 → let w : Home := .hbm (64 * (line / 64) + 8 * i)
          (i ∈ bad → t.tagOf w = .poison) ∧ ((∀ j ∈ bad, j < 8 → j / 4 ≠ i / 4) → t.tagOf w = s.tagOf w)) ∧
        (bad = [] → t = s)) ∧
    (∀ field (ds : List Nat),
      (field < 64 → ds.length = 8 → (∀ i j, i ≤ j → j < 8 → 1 ≤ ds.getD i 0 ∧ ds.getD i 0 ≤ ds.getD j 0 ∧ ds.getD j 0 ≤ 16) →
        ∃ t, Completes (.dutyChange field ds) s t ∧ t = { s with duty := t.duty } ∧ find field t.duty = some ds) ∧
      (64 ≤ field ∨ ds.length ≠ 8 ∨ (∃ d ∈ ds, d = 0 ∨ 16 < d) → Completes (.dutyChange field ds) s s)) ∧
    (∀ (aOk fOk near mapOk : Bool) (defects : DefectMap) (setup : Setup),
      (∀ q, q ∈ retiredBy defects ↔ q < 12544 ∧ (q ∈ defects.tiles ∨ clusterOf q ∈ defects.engines)) ∧
      (let good := aOk && fOk && s.factors.whole
       let stopped := fun (t : State) => t.factors.started = false ∧ t.factors.deciding = false ∧ t.factors.failedAt = (if aOk then 2 else 1) ∧
         t.factors.recovery = aOk ∧ t.factors.image = s.factors.image ∧ t.tabs = [] ∧ t.harts = [] ∧ t.queues = [] ∧ t.retired = s.retired
       let started := fun (map : List Nat) (t : State) => t.factors.started = true ∧ t.tabs = [] ∧ t.harts = [] ∧ t.queues = [] ∧
         t.loftSize = min setup.loft 65536 ∧ t.cxlPorts = setup.cxl ∧ t.retired = map ∧
         (∀ a, (a < 2 ^ 63 → t.mem.byte a = 0) ∧ t.mem.tag a = .full) ∧
         (s.mem.wf = true → ∀ a, 2 ^ 63 ≤ a → t.mem.byte a = s.mem.byte a)
       let ends := fun (i : Instr) (map : List Nat) =>
         (good = true → binOk map = true → ∃ t, Completes i s t ∧ started map t) ∧
         (good = true → binOk map = false → Completes i s s) ∧ (good = false → ∃ t, Completes i s t ∧ stopped t)
       ends (.coldStart aOk fOk defects setup) (retiredBy defects) ∧
       ends (.warmStart aOk fOk near mapOk defects setup) (if mapOk && !s.factors.mustCold then s.retired else retiredBy defects)) ∧
      (∀ f : Factors, f.mustCold = true ↔ f.started = false ∧ f.recovery = false ∧ f.failedAt = 2) ∧
      (s.factors.started = false → s.factors.recovery = true →
        ∃ t, Completes (.recoveryImage 0 true aOk) s t ∧ t = { s with factors := t.factors } ∧ t.factors.image = s.factors.image + 1 ∧
          t.factors.whole = aOk ∧ t.factors.started = false ∧ t.factors.recovery = false) ∧
      (∀ v c, s.factors.started = true ∨ s.factors.recovery = false ∨ p ≠ 0 ∨ v = false → Completes (.recoveryImage p v c) s s)) ∧
    (∀ (tab : BitVec 16) (share : List Rect) (x : Tableau), s.tab? tab = some x →
      let within := ∀ c ∈ corners share, inShare share (c.2 * 112 + c.1) = true → inShare x.args.share (c.2 * 112 + c.1) = true
      (within → ∃ t, Completes (.shareShrink tab share) s t ∧ t.mem = s.mem ∧ t.ostler.due = true ∧
        t.tab? tab = some { x with args := { x.args with share := share } }) ∧
      (¬within → Completes (.shareShrink tab share) s s)) ∧
    (∀ tl : TileId, (s.validVt tl = false → Completes (.tilemapEntryRewrite tl) s s) ∧
      (s.validVt tl = true → ∃ t, Completes (.tilemapEntryRewrite tl) s t ∧ t.mapEntry tl = { s.mapEntry tl with bad := false } ∧
        let k := (s.mapHome tl).key
        (s.latentUE = [] → (s.mem.wf = true → t.tagOf (s.mapHome tl) = .full) ∧
          ∀ a, (¬(k ≤ a ∧ a < k + 8) → t.mem.byte a = s.mem.byte a) ∧ (a ≠ k / 8 * 8 → t.mem.tag a = s.mem.tag a)))) ∧
    (∀ vf : BitVec 8, vf ≠ 0 →
      (∃ t, Completes (.tdispRequest p vf true) s t ∧ t = { s with tdis := t.tdis } ∧ (p, vf) ∈ t.tdis) ∧
      (∃ t, Completes (.tdispRequest p vf false) s t ∧ t = { s with tdis := t.tdis } ∧ (p, vf) ∉ t.tdis)) ∧
    (∀ (c : Caller) (vf : BitVec 8) (i : Nat) (half : Half) (v : Word), c = .port p ∧ vf = 0 ∨ c = .vf p vf → i < 4096 →
      let w := Instr.deviceRegisterWrite c (BitVec.ofNat 64 (2 ^ 40 + 8 * i)) half v
      ((p, vf) ∈ s.tdis → Completes w s s) ∧
      ((p, vf) ∉ s.tdis → ∃ t, Completes w s t ∧ t = { s with msixTable := t.msixTable } ∧
        ∀ k, t.msixWord k = if k = ((p, vf), i) then halfMerge half (s.msixWord k) v else s.msixWord k)) ∧
    (∀ index, (∀ m, s.measured index = some m → ∃ t, Completes (.spdmRequest p index) s t ∧ t = { s with answers := t.answers } ∧
        t.answers = s.answers ++ [.spdm p index (measure index m ++ Config.sign (measure index m) s.tick)]) ∧
      (s.measured index = none → Completes (.spdmRequest p index) s s) ∧ (s.measured index = none ↔ index = 0 ∨ 6 < index)) ∧
    (s.factors.deciding = true → s.now < s.factors.renewed + 36000000 →
      ∃ t, Completes .leaseRenew s t ∧ t = { s with factors := t.factors } ∧ t.factors.renewed = s.now) ∧
    (s.factors.deciding = false ∨ s.factors.renewed + 36000000 ≤ s.now → Completes .leaseRenew s s) ∧
    (∃ t, Completes .leaseRenewalTimeout s t ∧ t.mem = s.mem ∧ t.factors.deciding = false ∧ s.factors.renewed + 36000000 ≤ t.now ∧
      t.factors.live.getD s.factors.head false = false) ∧
    (∀ f, f < 64 → s.factors.deciding = false → s.factors.live.getD f false = true → (∀ g, g < f → s.factors.live.getD g false = false) →
      ∃ t, Completes .leaseLapse s t ∧ t.mem = s.mem ∧ t.factors.head = f ∧ t.factors.deciding = true ∧ t.ostler.due = true ∧
        s.factors.renewed + 40000000 ≤ t.now)

/-- Decode and encode agree (R205 to R209): the encoder gives every well-formed instruction a word, and the decoder reads that word as the
instruction, with every operand at every value the encoding admits; a word that the decoder reads is the encoder's word for a well-formed
instruction, so no two words stand for one instruction and no bit is dropped; a word of a reserved major is refused with reason ENCODING.
-/
def Obligations.DecodeEncode : Prop :=
  (∀ i : Instr, i.wf = true → ∃ w, encode i = some w ∧ decode w = .ok i) ∧
  (∀ (w : IWord) (i : Instr), decode w = .ok i → i.wf = true ∧ encode i = some w) ∧
  ∀ (m : BitVec 6) (rest : BitVec 26),
    m ∈ [0x0D, 0x0E, 0x0F, 0x2E, 0x2F, 0x33] → decode (m ++ rest) = .error .encoding

/-- Words written out from the layouts of R205 and the codes of R206 to R208, one for each of some families, and what they stand for. -/
def Obligations.DecodeWords : Prop :=
  decode 0b000001_00000_00000_1_000000000000000 = .ok (.addi 0 0 true 0) ∧
  decode 0b111110_00000_00000_0_00000000000_0001 = .ok .tret ∧
  decode 0b111110_00000_00000_0_00000010001_0000 = .ok (.trap 17) ∧
  decode 0b111110_00010_00000_0_00000010000_0011 = .ok (.syr 2 0x010) ∧
  decode 0b011110_00011_01010_00100_1_000101_10_00 = .ok (.ship 3 10 4 true 5 .w .none) ∧
  decode 0b100000_00011_00001_00010_1_010_0111_111 = .ok (.vfma 3 1 2 true 2 .f32) ∧
  decode 0b101001_00001_00101_1_000_011_00_10_00001 = .ok (.vld 1 5 true 0 .w .none .w 1)

/-- A step runs the instruction that the hart in focus fetches: exec's answer, then the turn passes on, queues that migrate try to freeze, new
error records go to the ring, and the clock and the step number advance (log entries 1 and 5). The word comes from the four bytes at the program counter, little-endian (R6, R12), when the hart holds no
decoded copy; one that does not decode raises ILLEGAL. A step on the agenda is made first, but that a part whose start has stopped takes
no step but a start or a recovery image (R404, R407; log entry 45). -/
def Obligations.StepRunsDecoded : Prop :=
  ∀ s : State,
    (Fetches s → ∀ s' w, s.nextWord s.focus = (s', .word w) →
      (∀ i t, decode w = .ok i → exec i s' = .next t → step s = .next (t.rotate.freezes.ring s.errors).pass) ∧
      (∀ e t, decode w = .error e → exec (.unallocatedEncoding e.code) s' = .next t → step s = .next (t.rotate.freezes.ring s.errors).pass)) ∧
    (∀ home k, s.hart.rpt = none → s.hart.pc.toNat % 4 = 0 → range s.hart.pc = .paged → trPaged s s.focus needX s.hart.pc = .ok home k →
      s.hart.opFind s.hart.pc.toNat = none → s.pageOk home = true → s.latentUE = [] → s.tagOf home ≠ .poison →
      ∃ s', s.nextWord s.focus = (s', .word (BitVec.ofNat 32 (s.loadNat home 4))) ∧ s'.mem = s.mem ∧ s'.focus = s.focus ∧
        s'.hart.pc = s.hart.pc ∧ SameG s.hart s'.hart ∧ s'.hart.gFull = s.hart.gFull ∧ s'.hart.sy = s.hart.sy) ∧
    (∀ i rest t, s.agenda = i :: rest → s.heeds i = true → exec i { s with agenda := rest } = .next t →
      step s = .next (t.freezes.ring s.errors).pass) ∧
    (∀ i rest, s.agenda = i :: rest → s.heeds i = false →
      step s = .next ((({ s with agenda := rest } : State).freezes.ring s.errors).pass)) ∧
    (s.factors.started = true → ∀ i, s.heeds i = true) ∧
    (∀ a f x y p d e, s.heeds (.coldStart a f d e) = true ∧ s.heeds (.warmStart a f x y d e) = true ∧ s.heeds (.recoveryImage p a f) = true) ∧
    (s.factors.started = false → ∀ p a n q r h w c o, s.heeds (.hostMemoryRead p a n) = false ∧ s.heeds (.qcfgWrite q r h w) = false ∧
      s.heeds (.deviceRegisterWrite c o h w) = false)

/-- Every step keeps memory in canonical form: addresses strictly rising, no byte listed that is zero and no tag that is FULL. -/
def Obligations.StepKeepsMemoryCanonical : Prop :=
  ∀ s t : State, s.mem.wf = true → step s = .next t → t.mem.wf = true

/-- What reset leaves (the reset columns and sentences of R20, R29, R35, R40, R49, R54, R63, R65, R69, R77, R152, R156, R173, R215, R220,
R276, R296, R297, R333, R348, R353, R358, R366, R408): canonical memory, and the values that the maps of the registers state. That a hart is
HALTED is log entry 2, and that memory outside HBM and the slices reads as zero is log entry 3. -/
def Obligations.ResetState : Prop :=
  let s := State.reset
  s.mem.wf = true ∧ (∀ a, s.mem.byte a = 0 ∧ s.mem.tag a = .full) ∧
  (∀ h : HartId, let x := s.hartOf h
    x.run = .halted ∧ (∀ r : Reg, x.full .g r = true ∧ x.full .v r = true) ∧ x.gr 0 = 0 ∧ x.rstack = [] ∧ x.ctx = 0x111111 ∧ x.slots = [] ∧
    x.sy.status = 0 ∧ x.sy.ferec = 0 ∧ x.sy.rptstate = 0 ∧ x.sy.rspill = 0 ∧ x.sy.preq = 0 ∧ x.sy.pdead = 40000 ∧ x.sy.msgmax = 4 ∧
    bits x.sy.retry 0 16 = 64 ∧ bits x.sy.retry 20 8 = 8 ∧ bits x.sy.retry 28 12 = 1024) ∧
  (∀ t : TileId, (s.mapEntry t).st = .invalid) ∧ (∀ p, s.pageValid p = false) ∧ s.tabs = [] ∧ s.errRing = none ∧
  (∀ q, (s.queue q).en = false ∧ (s.queue q).tail = 0 ∧ (s.queue q).head = 0 ∧ (s.queue q).launches = []) ∧
  (∀ (c : Nat) (p : Nat), p < 8 → (s.slotAt { cluster := c, slot := p, gen := 0 }).st = .free) ∧
  bits s.ostler.cfg 0 16 = 100 ∧ bits s.ostler.cfg 16 4 = 4 ∧
  (∀ i, i < 4 → bits s.ostler.slice0 (16 * i) 16 = 1000 ∧ bits s.ostler.slice1 (16 * i) 16 = 1000) ∧
  s.drover.en = true ∧ s.drover.limit = 4096 ∧ s.drover.period = 40000 * 100 ∧ s.power.mode = 0 ∧ s.power.next = none
end

