-- ==== Sys2Proof/Laws/Bits.lean ====
section
/-!
SUPPORT. Bit fields: what each bit of a field read, replaced or placed is.
-/

namespace Sys2Proof.Machine

/-- The bits of a field. -/
theorem testBit_bits (w : Word) (lo len i : Nat) : (bits w lo len).testBit i = (decide (i < len) && w.getLsbD (lo + i)) := by
  simp [bits, Nat.testBit_mod_two_pow, Nat.testBit_shiftRight, BitVec.getLsbD]

theorem bits_lt (w : Word) (lo len : Nat) : bits w lo len < 2 ^ len := Nat.mod_lt _ (Nat.two_pow_pos _)

/-- A field is fixed by its bits. -/
theorem bits_ext {w u : Word} {lo len lo' : Nat} (h : ∀ i, i < len → w.getLsbD (lo + i) = u.getLsbD (lo' + i)) :
    bits w lo len = bits u lo' len := by
  apply Nat.eq_of_testBit_eq
  intro i
  rw [testBit_bits, testBit_bits]
  by_cases c : i < len
  · simp [c, h i c]
  · simp [c]

/-- A mask of ones in bits [lo + len - 1 : lo]. -/
theorem getLsbD_mask (lo len i : Nat) (b : lo + len ≤ 64) :
    (BitVec.ofNat 64 ((2 ^ len - 1) <<< lo)).getLsbD i = decide (lo ≤ i ∧ i < lo + len) := by
  simp only [BitVec.getLsbD_ofNat, Nat.testBit_shiftLeft, Nat.testBit_two_pow_sub_one]
  by_cases h1 : lo ≤ i
  · by_cases h2 : i < lo + len
    · simp [h1, h2, show i < 64 by omega, show i - lo < len by omega]
    · simp [h1, h2, show ¬(i - lo < len) by omega]
  · simp [h1]

/-- A value placed in bits [lo + len - 1 : lo]. -/
theorem getLsbD_atBits (lo len v i : Nat) (b : lo + len ≤ 64) :
    (atBits lo len v).getLsbD i = (decide (lo ≤ i ∧ i < lo + len) && v.testBit (i - lo)) := by
  simp only [atBits, BitVec.getLsbD_ofNat, Nat.testBit_shiftLeft, Nat.testBit_mod_two_pow]
  by_cases h1 : lo ≤ i
  · by_cases h2 : i < lo + len
    · simp [h1, h2, show i < 64 by omega, show i - lo < len by omega]
    · simp [h1, h2, show ¬(i - lo < len) by omega]
  · simp [h1]

/-- Every bit after a field is replaced. -/
theorem getLsbD_setBits (w : Word) (lo len v i : Nat) (b : lo + len ≤ 64) :
    (setBits w lo len v).getLsbD i = if lo ≤ i ∧ i < lo + len then v.testBit (i - lo) else w.getLsbD i := by
  have m := getLsbD_mask lo len i b
  have a := getLsbD_atBits lo len v i b
  unfold atBits at a
  by_cases h64 : i < 64
  · simp only [setBits, BitVec.getLsbD_or, BitVec.getLsbD_and, BitVec.getLsbD_not, m, a, h64, decide_true, Bool.true_and]
    split <;> rename_i h <;> simp [h]
  · rw [if_neg (by omega), BitVec.getLsbD_of_ge _ _ (by omega), BitVec.getLsbD_of_ge _ _ (by omega)]

/-- A replaced field holds its value. -/
theorem bits_setBits_same (w : Word) (lo len v : Nat) (b : lo + len ≤ 64) : bits (setBits w lo len v) lo len = v % 2 ^ len := by
  apply Nat.eq_of_testBit_eq
  intro i
  rw [testBit_bits, getLsbD_setBits w lo len v _ b, Nat.testBit_mod_two_pow]
  by_cases c : i < len
  · rw [if_pos (by omega)]; simp [c]
  · simp [c]

/-- Replacing a field leaves every field beside it. -/
theorem bits_setBits_other (w : Word) (lo len v lo' len' : Nat) (b : lo + len ≤ 64) (h : lo' + len' ≤ lo ∨ lo + len ≤ lo') :
    bits (setBits w lo len v) lo' len' = bits w lo' len' :=
  bits_ext fun i c => by rw [getLsbD_setBits w lo len v _ b, if_neg (by omega)]

end Sys2Proof.Machine
end

