-- ==== Sys2Proof/Laws/Exec.lean ====
section
/-!
SUPPORT. The dispatch, one equation per constructor: what exec does is its arm's meaning.
-/

namespace Sys2Proof.Machine

@[simp] theorem exec_add (d a b : Reg) (w : Bool) (s : State) : exec (.add d a b w) s = execAdd d a b w s := rfl
@[simp] theorem exec_sub (d a b : Reg) (w : Bool) (s : State) : exec (.sub d a b w) s = execSub d a b w s := rfl
@[simp] theorem exec_and (d a b : Reg) (w : Bool) (s : State) : exec (.and d a b w) s = execAnd d a b w s := rfl
@[simp] theorem exec_or (d a b : Reg) (w : Bool) (s : State) : exec (.or d a b w) s = execOr d a b w s := rfl
@[simp] theorem exec_xor (d a b : Reg) (w : Bool) (s : State) : exec (.xor d a b w) s = execXor d a b w s := rfl
@[simp] theorem exec_andn (d a b : Reg) (w : Bool) (s : State) : exec (.andn d a b w) s = execAndn d a b w s := rfl
@[simp] theorem exec_shl (d a b : Reg) (w : Bool) (s : State) : exec (.shl d a b w) s = execShl d a b w s := rfl
@[simp] theorem exec_shr (d a b : Reg) (w : Bool) (s : State) : exec (.shr d a b w) s = execShr d a b w s := rfl
@[simp] theorem exec_sar (d a b : Reg) (w : Bool) (s : State) : exec (.sar d a b w) s = execSar d a b w s := rfl
@[simp] theorem exec_mul (d a b : Reg) (w : Bool) (s : State) : exec (.mul d a b w) s = execMul d a b w s := rfl
@[simp] theorem exec_mulhi (d a b : Reg) (w : Bool) (s : State) : exec (.mulhi d a b w) s = execMulhi d a b w s := rfl
@[simp] theorem exec_mulhis (d a b : Reg) (w : Bool) (s : State) : exec (.mulhis d a b w) s = execMulhis d a b w s := rfl
@[simp] theorem exec_div (d a b : Reg) (w : Bool) (s : State) : exec (.div d a b w) s = execDiv d a b w s := rfl
@[simp] theorem exec_divs (d a b : Reg) (w : Bool) (s : State) : exec (.divs d a b w) s = execDivs d a b w s := rfl
@[simp] theorem exec_rem (d a b : Reg) (w : Bool) (s : State) : exec (.rem d a b w) s = execRem d a b w s := rfl
@[simp] theorem exec_rems (d a b : Reg) (w : Bool) (s : State) : exec (.rems d a b w) s = execRems d a b w s := rfl
@[simp] theorem exec_min (d a b : Reg) (w : Bool) (s : State) : exec (.min d a b w) s = execMin d a b w s := rfl
@[simp] theorem exec_mins (d a b : Reg) (w : Bool) (s : State) : exec (.mins d a b w) s = execMins d a b w s := rfl
@[simp] theorem exec_max (d a b : Reg) (w : Bool) (s : State) : exec (.max d a b w) s = execMax d a b w s := rfl
@[simp] theorem exec_maxs (d a b : Reg) (w : Bool) (s : State) : exec (.maxs d a b w) s = execMaxs d a b w s := rfl
@[simp] theorem exec_cmpeq (d a b : Reg) (w : Bool) (s : State) : exec (.cmpeq d a b w) s = execCmpeq d a b w s := rfl
@[simp] theorem exec_cmplt (d a b : Reg) (w : Bool) (s : State) : exec (.cmplt d a b w) s = execCmplt d a b w s := rfl
@[simp] theorem exec_cmplts (d a b : Reg) (w : Bool) (s : State) : exec (.cmplts d a b w) s = execCmplts d a b w s := rfl
@[simp] theorem exec_sel (d a b : Reg) (w : Bool) (s : State) : exec (.sel d a b w) s = execSel d a b w s := rfl
@[simp] theorem exec_clz (d a : Reg) (w : Bool) (s : State) : exec (.clz d a w) s = execClz d a w s := rfl
@[simp] theorem exec_ctz (d a : Reg) (w : Bool) (s : State) : exec (.ctz d a w) s = execCtz d a w s := rfl
@[simp] theorem exec_popc (d a : Reg) (w : Bool) (s : State) : exec (.popc d a w) s = execPopc d a w s := rfl
@[simp] theorem exec_bswap (d a : Reg) (w : Bool) (s : State) : exec (.bswap d a w) s = execBswap d a w s := rfl
@[simp] theorem exec_addi (d a : Reg) (w : Bool) (imm : BitVec 15) (s : State) : exec (.addi d a w imm) s = execAddi d a w imm s := rfl
@[simp] theorem exec_andi (d a : Reg) (w : Bool) (imm : BitVec 15) (s : State) : exec (.andi d a w imm) s = execAndi d a w imm s := rfl
@[simp] theorem exec_ori (d a : Reg) (w : Bool) (imm : BitVec 15) (s : State) : exec (.ori d a w imm) s = execOri d a w imm s := rfl
@[simp] theorem exec_xori (d a : Reg) (w : Bool) (imm : BitVec 15) (s : State) : exec (.xori d a w imm) s = execXori d a w imm s := rfl
@[simp] theorem exec_shli (d a : Reg) (w : Bool) (amt : BitVec 6) (s : State) : exec (.shli d a w amt) s = execShli d a w amt s := rfl
@[simp] theorem exec_shri (d a : Reg) (w : Bool) (amt : BitVec 6) (s : State) : exec (.shri d a w amt) s = execShri d a w amt s := rfl
@[simp] theorem exec_sari (d a : Reg) (w : Bool) (amt : BitVec 6) (s : State) : exec (.sari d a w amt) s = execSari d a w amt s := rfl
@[simp] theorem exec_cmplti (d a : Reg) (w : Bool) (imm : BitVec 15) (s : State) : exec (.cmplti d a w imm) s = execCmplti d a w imm s := rfl
@[simp] theorem exec_lih (d : Reg) (imm : BitVec 21) (s : State) : exec (.lih d imm) s = execLih d imm s := rfl
@[simp] theorem exec_addpc (d : Reg) (imm : BitVec 21) (s : State) : exec (.addpc d imm) s = execAddpc d imm s := rfl
@[simp] theorem exec_ext (d a : Reg) (w : Bool) (pos len1 : BitVec 6) (s : State) : exec (.ext d a w pos len1) s = execExt d a w pos len1 s := rfl
@[simp] theorem exec_ins (d a : Reg) (w : Bool) (pos len1 : BitVec 6) (s : State) : exec (.ins d a w pos len1) s = execIns d a w pos len1 s := rfl
@[simp] theorem exec_beq (a b : Reg) (w : Bool) (off : BitVec 15) (s : State) : exec (.beq a b w off) s = execBeq a b w off s := rfl
@[simp] theorem exec_bne (a b : Reg) (w : Bool) (off : BitVec 15) (s : State) : exec (.bne a b w off) s = execBne a b w off s := rfl
@[simp] theorem exec_blt (a b : Reg) (w : Bool) (off : BitVec 15) (s : State) : exec (.blt a b w off) s = execBlt a b w off s := rfl
@[simp] theorem exec_bge (a b : Reg) (w : Bool) (off : BitVec 15) (s : State) : exec (.bge a b w off) s = execBge a b w off s := rfl
@[simp] theorem exec_blts (a b : Reg) (w : Bool) (off : BitVec 15) (s : State) : exec (.blts a b w off) s = execBlts a b w off s := rfl
@[simp] theorem exec_bges (a b : Reg) (w : Bool) (off : BitVec 15) (s : State) : exec (.bges a b w off) s = execBges a b w off s := rfl
@[simp] theorem exec_jmp (off : BitVec 25) (s : State) : exec (.jmp off) s = execJmp off s := rfl
@[simp] theorem exec_call (off : BitVec 25) (s : State) : exec (.call off) s = execCall off s := rfl
@[simp] theorem exec_jr (a : Reg) (w : Bool) (s : State) : exec (.jr a w) s = execJr a w s := rfl
@[simp] theorem exec_callr (a : Reg) (w : Bool) (s : State) : exec (.callr a w) s = execCallr a w s := rfl
@[simp] theorem exec_ret (s : State) : exec (.ret) s = execRet s := rfl
@[simp] theorem exec_ld (d a : Reg) (w : Bool) (sz : Size) (sc : Scope) (o : Ord) (imm : BitVec 8) (s : State) : exec (.ld d a w sz sc o imm) s = execLd d a w sz sc o imm s := rfl
@[simp] theorem exec_lds (d a : Reg) (w : Bool) (sz : Size) (sc : Scope) (o : Ord) (imm : BitVec 8) (s : State) : exec (.lds d a w sz sc o imm) s = execLds d a w sz sc o imm s := rfl
@[simp] theorem exec_st (d a : Reg) (w : Bool) (sz : Size) (sc : Scope) (o : Ord) (imm : BitVec 8) (s : State) : exec (.st d a w sz sc o imm) s = execSt d a w sz sc o imm s := rfl
@[simp] theorem exec_ldWait (d a : Reg) (w : Bool) (sc : Scope) (o : Ord) (imm : BitVec 8) (s : State) : exec (.ldWait d a w sc o imm) s = execLdWait d a w sc o imm s := rfl
@[simp] theorem exec_ldTake (d a : Reg) (w : Bool) (sc : Scope) (o : Ord) (imm : BitVec 8) (s : State) : exec (.ldTake d a w sc o imm) s = execLdTake d a w sc o imm s := rfl
@[simp] theorem exec_stFill (d a : Reg) (w : Bool) (sc : Scope) (o : Ord) (imm : BitVec 8) (s : State) : exec (.stFill d a w sc o imm) s = execStFill d a w sc o imm s := rfl
@[simp] theorem exec_stEmpty (d a : Reg) (w : Bool) (sc : Scope) (o : Ord) (imm : BitVec 8) (s : State) : exec (.stEmpty d a w sc o imm) s = execStEmpty d a w sc o imm s := rfl
@[simp] theorem exec_tagGet (d a : Reg) (w : Bool) (imm : BitVec 8) (s : State) : exec (.tagGet d a w imm) s = execTagGet d a w imm s := rfl
@[simp] theorem exec_tagSet (d a : Reg) (w : Bool) (imm : BitVec 8) (s : State) : exec (.tagSet d a w imm) s = execTagSet d a w imm s := rfl
@[simp] theorem exec_park (s : State) : exec (.park) s = execPark s := rfl
@[simp] theorem exec_pref (a : Reg) (w : Bool) (imm : BitVec 8) (s : State) : exec (.pref a w imm) s = execPref a w imm s := rfl
@[simp] theorem exec_amoAdd (d a b : Reg) (w dbl : Bool) (sc : Scope) (o : Ord) (s : State) : exec (.amoAdd d a b w dbl sc o) s = execAmoAdd d a b w dbl sc o s := rfl
@[simp] theorem exec_amoFadd (d a b : Reg) (w dbl : Bool) (sc : Scope) (o : Ord) (s : State) : exec (.amoFadd d a b w dbl sc o) s = execAmoFadd d a b w dbl sc o s := rfl
@[simp] theorem exec_amoAnd (d a b : Reg) (w dbl : Bool) (sc : Scope) (o : Ord) (s : State) : exec (.amoAnd d a b w dbl sc o) s = execAmoAnd d a b w dbl sc o s := rfl
@[simp] theorem exec_amoOr (d a b : Reg) (w dbl : Bool) (sc : Scope) (o : Ord) (s : State) : exec (.amoOr d a b w dbl sc o) s = execAmoOr d a b w dbl sc o s := rfl
@[simp] theorem exec_amoXor (d a b : Reg) (w dbl : Bool) (sc : Scope) (o : Ord) (s : State) : exec (.amoXor d a b w dbl sc o) s = execAmoXor d a b w dbl sc o s := rfl
@[simp] theorem exec_amoMin (d a b : Reg) (w dbl : Bool) (sc : Scope) (o : Ord) (s : State) : exec (.amoMin d a b w dbl sc o) s = execAmoMin d a b w dbl sc o s := rfl
@[simp] theorem exec_amoMins (d a b : Reg) (w dbl : Bool) (sc : Scope) (o : Ord) (s : State) : exec (.amoMins d a b w dbl sc o) s = execAmoMins d a b w dbl sc o s := rfl
@[simp] theorem exec_amoMax (d a b : Reg) (w dbl : Bool) (sc : Scope) (o : Ord) (s : State) : exec (.amoMax d a b w dbl sc o) s = execAmoMax d a b w dbl sc o s := rfl
@[simp] theorem exec_amoMaxs (d a b : Reg) (w dbl : Bool) (sc : Scope) (o : Ord) (s : State) : exec (.amoMaxs d a b w dbl sc o) s = execAmoMaxs d a b w dbl sc o s := rfl
@[simp] theorem exec_amoFmax (d a b : Reg) (w dbl : Bool) (sc : Scope) (o : Ord) (s : State) : exec (.amoFmax d a b w dbl sc o) s = execAmoFmax d a b w dbl sc o s := rfl
@[simp] theorem exec_amoSwap (d a b : Reg) (w dbl : Bool) (sc : Scope) (o : Ord) (s : State) : exec (.amoSwap d a b w dbl sc o) s = execAmoSwap d a b w dbl sc o s := rfl
@[simp] theorem exec_amoCas (d a b : Reg) (w dbl : Bool) (sc : Scope) (o : Ord) (s : State) : exec (.amoCas d a b w dbl sc o) s = execAmoCas d a b w dbl sc o s := rfl
@[simp] theorem exec_ship (d a b : Reg) (w : Bool) (n : BitVec 6) (sc : Scope) (o : Ord) (s : State) : exec (.ship d a b w n sc o) s = execShip d a b w n sc o s := rfl
@[simp] theorem exec_fence (kind : FenceKind) (sc : Scope) (s : State) : exec (.fence kind sc) s = execFence kind sc s := rfl
@[simp] theorem exec_vadd (d a b : Reg) (w : Bool) (k : KReg) (t : EType) (s : State) : exec (.vadd d a b w k t) s = execVadd d a b w k t s := rfl
@[simp] theorem exec_vsub (d a b : Reg) (w : Bool) (k : KReg) (t : EType) (s : State) : exec (.vsub d a b w k t) s = execVsub d a b w k t s := rfl
@[simp] theorem exec_vmul (d a b : Reg) (w : Bool) (k : KReg) (t : EType) (s : State) : exec (.vmul d a b w k t) s = execVmul d a b w k t s := rfl
@[simp] theorem exec_vmin (d a b : Reg) (w : Bool) (k : KReg) (t : EType) (s : State) : exec (.vmin d a b w k t) s = execVmin d a b w k t s := rfl
@[simp] theorem exec_vmax (d a b : Reg) (w : Bool) (k : KReg) (t : EType) (s : State) : exec (.vmax d a b w k t) s = execVmax d a b w k t s := rfl
@[simp] theorem exec_vabs (d a : Reg) (w : Bool) (k : KReg) (t : EType) (s : State) : exec (.vabs d a w k t) s = execVabs d a w k t s := rfl
@[simp] theorem exec_vneg (d a : Reg) (w : Bool) (k : KReg) (t : EType) (s : State) : exec (.vneg d a w k t) s = execVneg d a w k t s := rfl
@[simp] theorem exec_vfma (d a b : Reg) (w : Bool) (k : KReg) (t : EType) (s : State) : exec (.vfma d a b w k t) s = execVfma d a b w k t s := rfl
@[simp] theorem exec_vand (d a b : Reg) (w : Bool) (k : KReg) (t : EType) (s : State) : exec (.vand d a b w k t) s = execVand d a b w k t s := rfl
@[simp] theorem exec_vor (d a b : Reg) (w : Bool) (k : KReg) (t : EType) (s : State) : exec (.vor d a b w k t) s = execVor d a b w k t s := rfl
@[simp] theorem exec_vxor (d a b : Reg) (w : Bool) (k : KReg) (t : EType) (s : State) : exec (.vxor d a b w k t) s = execVxor d a b w k t s := rfl
@[simp] theorem exec_vshl (d a b : Reg) (w : Bool) (k : KReg) (t : EType) (s : State) : exec (.vshl d a b w k t) s = execVshl d a b w k t s := rfl
@[simp] theorem exec_vshr (d a b : Reg) (w : Bool) (k : KReg) (t : EType) (s : State) : exec (.vshr d a b w k t) s = execVshr d a b w k t s := rfl
@[simp] theorem exec_vsar (d a b : Reg) (w : Bool) (k : KReg) (t : EType) (s : State) : exec (.vsar d a b w k t) s = execVsar d a b w k t s := rfl
@[simp] theorem exec_vcmp (d : KReg) (a b : Reg) (w : Bool) (k : KReg) (t : EType) (cond : Cond) (s : State) : exec (.vcmp d a b w k t cond) s = execVcmp d a b w k t cond s := rfl
@[simp] theorem exec_vsel (d a b : Reg) (w : Bool) (k : KReg) (t : EType) (s : State) : exec (.vsel d a b w k t) s = execVsel d a b w k t s := rfl
@[simp] theorem exec_vbcast (d a : Reg) (w : Bool) (k : KReg) (t : EType) (s : State) : exec (.vbcast d a w k t) s = execVbcast d a w k t s := rfl
@[simp] theorem exec_vmovg (d a b : Reg) (w : Bool) (t : EType) (s : State) : exec (.vmovg d a b w t) s = execVmovg d a b w t s := rfl
@[simp] theorem exec_vperm (d a b : Reg) (w : Bool) (k : KReg) (t : EType) (s : State) : exec (.vperm d a b w k t) s = execVperm d a b w k t s := rfl
@[simp] theorem exec_vcvt (d a : Reg) (fmt : BitVec 5) (w : Bool) (k : KReg) (t : EType) (sat : Bool) (s : State) : exec (.vcvt d a fmt w k t sat) s = execVcvt d a fmt w k t sat s := rfl
@[simp] theorem exec_vred (d a : Reg) (w : Bool) (k : KReg) (t : EType) (op : RedOp) (s : State) : exec (.vred d a w k t op) s = execVred d a w k t op s := rfl
@[simp] theorem exec_vexp2 (d a : Reg) (w : Bool) (k : KReg) (t : EType) (s : State) : exec (.vexp2 d a w k t) s = execVexp2 d a w k t s := rfl
@[simp] theorem exec_vrcp (d a : Reg) (w : Bool) (k : KReg) (t : EType) (s : State) : exec (.vrcp d a w k t) s = execVrcp d a w k t s := rfl
@[simp] theorem exec_vrsq (d a : Reg) (w : Bool) (k : KReg) (t : EType) (s : State) : exec (.vrsq d a w k t) s = execVrsq d a w k t s := rfl
@[simp] theorem exec_vsig (d a : Reg) (w : Bool) (k : KReg) (t : EType) (s : State) : exec (.vsig d a w k t) s = execVsig d a w k t s := rfl
@[simp] theorem exec_vrand (d a b : Reg) (w : Bool) (s : State) : exec (.vrand d a b w) s = execVrand d a b w s := rfl
@[simp] theorem exec_kopAnd (d a b : KReg) (s : State) : exec (.kopAnd d a b) s = execKopAnd d a b s := rfl
@[simp] theorem exec_kopOr (d a b : KReg) (s : State) : exec (.kopOr d a b) s = execKopOr d a b s := rfl
@[simp] theorem exec_kopXor (d a b : KReg) (s : State) : exec (.kopXor d a b) s = execKopXor d a b s := rfl
@[simp] theorem exec_kopAndn (d a b : KReg) (s : State) : exec (.kopAndn d a b) s = execKopAndn d a b s := rfl
@[simp] theorem exec_kopNot (d a : KReg) (s : State) : exec (.kopNot d a) s = execKopNot d a s := rfl
@[simp] theorem exec_kopFromg (d : KReg) (a : Reg) (s : State) : exec (.kopFromg d a) s = execKopFromg d a s := rfl
@[simp] theorem exec_kopTog (d : Reg) (a : KReg) (s : State) : exec (.kopTog d a) s = execKopTog d a s := rfl
@[simp] theorem exec_vld (d a : Reg) (w : Bool) (k : KReg) (sc : Scope) (o : Ord) (esz : Size) (imm : BitVec 5) (s : State) : exec (.vld d a w k sc o esz imm) s = execVld d a w k sc o esz imm s := rfl
@[simp] theorem exec_vst (d a : Reg) (w : Bool) (k : KReg) (sc : Scope) (o : Ord) (esz : Size) (imm : BitVec 5) (s : State) : exec (.vst d a w k sc o esz imm) s = execVst d a w k sc o esz imm s := rfl
@[simp] theorem exec_vldTake (d a : Reg) (w : Bool) (sc : Scope) (o : Ord) (imm : BitVec 5) (s : State) : exec (.vldTake d a w sc o imm) s = execVldTake d a w sc o imm s := rfl
@[simp] theorem exec_vstFill (d a : Reg) (w : Bool) (sc : Scope) (o : Ord) (imm : BitVec 5) (s : State) : exec (.vstFill d a w sc o imm) s = execVstFill d a w sc o imm s := rfl
@[simp] theorem exec_vlds (d a b : Reg) (w : Bool) (k : KReg) (t : EType) (s : State) : exec (.vlds d a b w k t) s = execVlds d a b w k t s := rfl
@[simp] theorem exec_vgath (d a b : Reg) (w : Bool) (k : KReg) (t : EType) (s : State) : exec (.vgath d a b w k t) s = execVgath d a b w k t s := rfl
@[simp] theorem exec_vscat (d a b : Reg) (w : Bool) (k : KReg) (t : EType) (s : State) : exec (.vscat d a b w k t) s = execVscat d a b w k t s := rfl
@[simp] theorem exec_msgSend (a b : Reg) (w : Bool) (o : Ord) (sc : Scope) (s : State) : exec (.msgSend a b w o sc) s = execMsgSend a b w o sc s := rfl
@[simp] theorem exec_msgRecv (d b : Reg) (o : Ord) (sc : Scope) (s : State) : exec (.msgRecv d b o sc) s = execMsgRecv d b o sc s := rfl
@[simp] theorem exec_msgPoll (d : Reg) (s : State) : exec (.msgPoll d) s = execMsgPoll d s := rfl
@[simp] theorem exec_msgCnt (d : Reg) (s : State) : exec (.msgCnt d) s = execMsgCnt d s := rfl
@[simp] theorem exec_barCfg (a : Reg) (w : Bool) (grp : BitVec 4) (s : State) : exec (.barCfg a w grp) s = execBarCfg a w grp s := rfl
@[simp] theorem exec_barArr (grp : BitVec 4) (s : State) : exec (.barArr grp) s = execBarArr grp s := rfl
@[simp] theorem exec_barWait (grp : BitVec 4) (s : State) : exec (.barWait grp) s = execBarWait grp s := rfl
@[simp] theorem exec_barTest (d : Reg) (grp : BitVec 4) (s : State) : exec (.barTest d grp) s = execBarTest d grp s := rfl
@[simp] theorem exec_barSs (grp : BitVec 4) (s : State) : exec (.barSs grp) s = execBarSs grp s := rfl
@[simp] theorem exec_cpCopy (d a b : Reg) (w : Bool) (c : Reg) (mode : BitVec 2) (sc : Scope) (s : State) : exec (.cpCopy d a b w c mode sc) s = execCpCopy d a b w c mode sc s := rfl
@[simp] theorem exec_cpCopy2 (d a b : Reg) (w : Bool) (c : Reg) (mode : BitVec 2) (sc : Scope) (s : State) : exec (.cpCopy2 d a b w c mode sc) s = execCpCopy2 d a b w c mode sc s := rfl
@[simp] theorem exec_cpFillv (d a b : Reg) (w : Bool) (c : Reg) (mode : BitVec 2) (sc : Scope) (s : State) : exec (.cpFillv d a b w c mode sc) s = execCpFillv d a b w c mode sc s := rfl
@[simp] theorem exec_cpVerify (d a b : Reg) (w : Bool) (c : Reg) (sc : Scope) (s : State) : exec (.cpVerify d a b w c sc) s = execCpVerify d a b w c sc s := rfl
@[simp] theorem exec_cpWait (sc : Scope) (s : State) : exec (.cpWait sc) s = execCpWait sc s := rfl
@[simp] theorem exec_mxCtx (a : Reg) (w : Bool) (s : State) : exec (.mxCtx a w) s = execMxCtx a w s := rfl
@[simp] theorem exec_mxSyncBlocking (sc : Scope) (s : State) : exec (.mxSyncBlocking sc) s = execMxSyncBlocking sc s := rfl
@[simp] theorem exec_mxSyncWord (sc : Scope) (w : Bool) (c : Reg) (s : State) : exec (.mxSyncWord sc w c) s = execMxSyncWord sc w c s := rfl
@[simp] theorem exec_mxOwn (d : Reg) (n : KReg) (s : State) : exec (.mxOwn d n) s = execMxOwn d n s := rfl
@[simp] theorem exec_mxFree (n : KReg) (s : State) : exec (.mxFree n) s = execMxFree n s := rfl
@[simp] theorem exec_mxPin (n : KReg) (s : State) : exec (.mxPin n) s = execMxPin n s := rfl
@[simp] theorem exec_mxUnpin (n : KReg) (s : State) : exec (.mxUnpin n) s = execMxUnpin n s := rfl
@[simp] theorem exec_mxBld (d a b : Reg) (w : Bool) (s : State) : exec (.mxBld d a b w) s = execMxBld d a b w s := rfl
@[simp] theorem exec_mxZero (n : KReg) (s : State) : exec (.mxZero n) s = execMxZero n s := rfl
@[simp] theorem exec_mxMac (d a b : Reg) (w : Bool) (n : KReg) (z : Bool) (s : State) : exec (.mxMac d a b w n z) s = execMxMac d a b w n z s := rfl
@[simp] theorem exec_mxMact (d a b : Reg) (w : Bool) (n : KReg) (z : Bool) (s : State) : exec (.mxMact d a b w n z) s = execMxMact d a b w n z s := rfl
@[simp] theorem exec_mxRd (d a : Reg) (w : Bool) (n : KReg) (hi : Bool) (s : State) : exec (.mxRd d a w n hi) s = execMxRd d a w n hi s := rfl
@[simp] theorem exec_mxWr (a b : Reg) (w : Bool) (n : KReg) (add : Bool) (s : State) : exec (.mxWr a b w n add) s = execMxWr a b w n add s := rfl
@[simp] theorem exec_mxDelta (d a b : Reg) (w : Bool) (n : KReg) (bf r : Bool) (s : State) : exec (.mxDelta d a b w n bf r) s = execMxDelta d a b w n bf r s := rfl
@[simp] theorem exec_mxQry (d a b : Reg) (w : Bool) (n : KReg) (bf : Bool) (s : State) : exec (.mxQry d a b w n bf) s = execMxQry d a b w n bf s := rfl
@[simp] theorem exec_mxSpill (d a b : Reg) (w : Bool) (n : KReg) (s : State) : exec (.mxSpill d a b w n) s = execMxSpill d a b w n s := rfl
@[simp] theorem exec_mxLoad (d a b : Reg) (w : Bool) (n : KReg) (s : State) : exec (.mxLoad d a b w n) s = execMxLoad d a b w n s := rfl
@[simp] theorem exec_trap (code : BitVec 11) (s : State) : exec (.trap code) s = execTrap code s := rfl
@[simp] theorem exec_tret (s : State) : exec (.tret) s = execTret s := rfl
@[simp] theorem exec_esc (s : State) : exec (.esc) s = execEsc s := rfl
@[simp] theorem exec_syr (d : Reg) (sy : BitVec 11) (s : State) : exec (.syr d sy) s = execSyr d sy s := rfl
@[simp] theorem exec_syw (a : Reg) (w : Bool) (sy : BitVec 11) (s : State) : exec (.syw a w sy) s = execSyw a w sy s := rfl
@[simp] theorem exec_yield (s : State) : exec (.yield) s = execYield s := rfl
@[simp] theorem exec_wfe (a : Reg) (w : Bool) (s : State) : exec (.wfe a w) s = execWfe a w s := rfl
@[simp] theorem exec_halt (s : State) : exec (.halt) s = execHalt s := rfl
@[simp] theorem exec_tlbInv (a : Reg) (w : Bool) (s : State) : exec (.tlbInv a w) s = execTlbInv a w s := rfl
@[simp] theorem exec_icInv (a : Reg) (w : Bool) (s : State) : exec (.icInv a w) s = execIcInv a w s := rfl
@[simp] theorem exec_dcWb (a : Reg) (w : Bool) (s : State) : exec (.dcWb a w) s = execDcWb a w s := rfl
@[simp] theorem exec_dcInv (a : Reg) (w : Bool) (s : State) : exec (.dcInv a w) s = execDcInv a w s := rfl
@[simp] theorem exec_brk (code : BitVec 11) (s : State) : exec (.brk code) s = execBrk code s := rfl
@[simp] theorem exec_rpt (n1 : BitVec 4) (count : BitVec 8) (sd sa sb : BitVec 2) (s : State) : exec (.rpt n1 count sd sa sb) s = execRpt n1 count sd sa sb s := rfl
@[simp] theorem exec_tlbInvRemote (op : Nat) (s : State) : exec (.tlbInvRemote op) s = execTlbInvRemote op s := rfl
@[simp] theorem exec_vectorIssue (t : TileId) (s : State) : exec (.vectorIssue t) s = execVectorIssue t s := rfl
@[simp] theorem exec_step (h : HartId) (s : State) : exec (.step h) s = execStep h s := rfl
@[simp] theorem exec_emptyWait (h : HartId) (s : State) : exec (.emptyWait h) s = execEmptyWait h s := rfl
@[simp] theorem exec_msgLimit (h : HartId) (s : State) : exec (.msgLimit h) s = execMsgLimit h s := rfl
@[simp] theorem exec_interrupt (h : HartId) (s : State) : exec (.interrupt h) s = execInterrupt h s := rfl
@[simp] theorem exec_wfeTimeout (h : HartId) (s : State) : exec (.wfeTimeout h) s = execWfeTimeout h s := rfl
@[simp] theorem exec_asyncRegisterWrite (op : Nat) (s : State) : exec (.asyncRegisterWrite op) s = execAsyncRegisterWrite op s := rfl
@[simp] theorem exec_sliceBankAccess (op part : Nat) (s : State) : exec (.sliceBankAccess op part) s = execSliceBankAccess op part s := rfl
@[simp] theorem exec_chandlerAccess (op part : Nat) (s : State) : exec (.chandlerAccess op part) s = execChandlerAccess op part s := rfl
@[simp] theorem exec_hostPortAccess (op part : Nat) (s : State) : exec (.hostPortAccess op part) s = execHostPortAccess op part s := rfl
@[simp] theorem exec_homeRetryAttempt (op : Nat) (s : State) : exec (.homeRetryAttempt op) s = execHomeRetryAttempt op s := rfl
@[simp] theorem exec_storeAck (op : Nat) (s : State) : exec (.storeAck op) s = execStoreAck op s := rfl
@[simp] theorem exec_writeBufferDrain (t : TileId) (s : State) : exec (.writeBufferDrain t) s = execWriteBufferDrain t s := rfl
@[simp] theorem exec_l1LineFill (op part : Nat) (s : State) : exec (.l1LineFill op part) s = execL1LineFill op part s := rfl
@[simp] theorem exec_l1LineExpiry (t : TileId) (line : Nat) (s : State) : exec (.l1LineExpiry t line) s = execL1LineExpiry t line s := rfl
@[simp] theorem exec_sequentialPrefetch (h : HartId) (s : State) : exec (.sequentialPrefetch h) s = execSequentialPrefetch h s := rfl
@[simp] theorem exec_pageWalkRead (t : TileId) (walk : Nat) (s : State) : exec (.pageWalkRead t walk) s = execPageWalkRead t walk s := rfl
@[simp] theorem exec_tileMapRead (t : TileId) (vt : BitVec 20) (s : State) : exec (.tileMapRead t vt) s = execTileMapRead t vt s := rfl
@[simp] theorem exec_tileMapReread (t : TileId) (vt : BitVec 20) (s : State) : exec (.tileMapReread t vt) s = execTileMapReread t vt s := rfl
@[simp] theorem exec_staleReply (op part : Nat) (s : State) : exec (.staleReply op part) s = execStaleReply op part s := rfl
@[simp] theorem exec_dpitAnchorLookup (op part : Nat) (s : State) : exec (.dpitAnchorLookup op part) s = execDpitAnchorLookup op part s := rfl
@[simp] theorem exec_reroute (op part : Nat) (s : State) : exec (.reroute op part) s = execReroute op part s := rfl
@[simp] theorem exec_parkLink (op : Nat) (s : State) : exec (.parkLink op) s = execParkLink op s := rfl
@[simp] theorem exec_wake (op : Nat) (s : State) : exec (.wake op) s = execWake op s := rfl
@[simp] theorem exec_wakeDelivery (op : Nat) (s : State) : exec (.wakeDelivery op) s = execWakeDelivery op s := rfl
@[simp] theorem exec_wokenReattempt (h : HartId) (s : State) : exec (.wokenReattempt h) s = execWokenReattempt h s := rfl
@[simp] theorem exec_fillWaitRetry (h : HartId) (s : State) : exec (.fillWaitRetry h) s = execFillWaitRetry h s := rfl
@[simp] theorem exec_messageArrival (op : Nat) (s : State) : exec (.messageArrival op) s = execMessageArrival op s := rfl
@[simp] theorem exec_backlogAppend (op : Nat) (s : State) : exec (.backlogAppend op) s = execBacklogAppend op s := rfl
@[simp] theorem exec_messageAck (op : Nat) (s : State) : exec (.messageAck op) s = execMessageAck op s := rfl
@[simp] theorem exec_backlogMove (t : TileId) (s : State) : exec (.backlogMove t) s = execBacklogMove t s := rfl
@[simp] theorem exec_phasePass (tab : BitVec 16) (grp : BitVec 4) (s : State) : exec (.phasePass tab grp) s = execPhasePass tab grp s := rfl
@[simp] theorem exec_extendedArrival (h : HartId) (grp : BitVec 4) (s : State) : exec (.extendedArrival h grp) s = execExtendedArrival h grp s := rfl
@[simp] theorem exec_extendedRelease (h : HartId) (grp : BitVec 4) (s : State) : exec (.extendedRelease h grp) s = execExtendedRelease h grp s := rfl
@[simp] theorem exec_copyCommandStart (t : TileId) (s : State) : exec (.copyCommandStart t) s = execCopyCommandStart t s := rfl
@[simp] theorem exec_copyLine (op : Nat) (s : State) : exec (.copyLine op) s = execCopyLine op s := rfl
@[simp] theorem exec_mxCommandStart (cluster : Nat) (lane : BitVec 2) (s : State) : exec (.mxCommandStart cluster lane) s = execMxCommandStart cluster lane s := rfl
@[simp] theorem exec_mxMacGroup (op : Nat) (s : State) : exec (.mxMacGroup op) s = execMxMacGroup op s := rfl
@[simp] theorem exec_mxDeltaToken (op : Nat) (s : State) : exec (.mxDeltaToken op) s = execMxDeltaToken op s := rfl
@[simp] theorem exec_mxQryQuery (op : Nat) (s : State) : exec (.mxQryQuery op) s = execMxQryQuery op s := rfl
@[simp] theorem exec_mxBldColumn (op : Nat) (s : State) : exec (.mxBldColumn op) s = execMxBldColumn op s := rfl
@[simp] theorem exec_mxSpillUnit (op : Nat) (s : State) : exec (.mxSpillUnit op) s = execMxSpillUnit op s := rfl
@[simp] theorem exec_mxLoadCommit (op : Nat) (s : State) : exec (.mxLoadCommit op) s = execMxLoadCommit op s := rfl
@[simp] theorem exec_slotZeroDone (cluster slot : Nat) (s : State) : exec (.slotZeroDone cluster slot) s = execSlotZeroDone cluster slot s := rfl
@[simp] theorem exec_mxSyncFill (op : Nat) (s : State) : exec (.mxSyncFill op) s = execMxSyncFill op s := rfl
@[simp] theorem exec_ostlerPass (s : State) : exec (.ostlerPass) s = execOstlerPass s := rfl
@[simp] theorem exec_passTimer (s : State) : exec (.passTimer) s = execPassTimer s := rfl
@[simp] theorem exec_sliceExpiry (gg : GangId) (s : State) : exec (.sliceExpiry gg) s = execSliceExpiry gg s := rfl
@[simp] theorem exec_loftSlotClear (t : TileId) (s : State) : exec (.loftSlotClear t) s = execLoftSlotClear t s := rfl
@[simp] theorem exec_preemptRequest (gg : GangId) (s : State) : exec (.preemptRequest gg) s = execPreemptRequest gg s := rfl
@[simp] theorem exec_forcedStop (gg : GangId) (s : State) : exec (.forcedStop gg) s = execForcedStop gg s := rfl
@[simp] theorem exec_swapOut (gg : GangId) (perform : Bool) (s : State) : exec (.swapOut gg perform) s = execSwapOut gg perform s := rfl
@[simp] theorem exec_loftWriteback (gg : GangId) (s : State) : exec (.loftWriteback gg) s = execLoftWriteback gg s := rfl
@[simp] theorem exec_granuleWriteback (t : TileId) (name : BitVec 6) (s : State) : exec (.granuleWriteback t name) s = execGranuleWriteback t name s := rfl
@[simp] theorem exec_swapIn (gg : GangId) (s : State) : exec (.swapIn gg) s = execSwapIn gg s := rfl
@[simp] theorem exec_granuleRestore (t : TileId) (name : BitVec 6) (s : State) : exec (.granuleRestore t name) s = execGranuleRestore t name s := rfl
@[simp] theorem exec_launchEntryRead (q : BitVec 12) (s : State) : exec (.launchEntryRead q) s = execLaunchEntryRead q s := rfl
@[simp] theorem exec_headerFetch (q : BitVec 12) (s : State) : exec (.headerFetch q) s = execHeaderFetch q s := rfl
@[simp] theorem exec_launchDispatch (q : BitVec 12) (s : State) : exec (.launchDispatch q) s = execLaunchDispatch q s := rfl
@[simp] theorem exec_launchDone (q : BitVec 12) (launch : Nat) (s : State) : exec (.launchDone q launch) s = execLaunchDone q launch s := rfl
@[simp] theorem exec_gateRead (q : BitVec 12) (s : State) : exec (.gateRead q) s = execGateRead q s := rfl
@[simp] theorem exec_frontEndWake (q : BitVec 12) (s : State) : exec (.frontEndWake q) s = execFrontEndWake q s := rfl
@[simp] theorem exec_qtailWrite (q : BitVec 12) (half : Half) (x : Word) (s : State) : exec (.qtailWrite q half x) s = execQtailWrite q half x s := rfl
@[simp] theorem exec_qstatWrite (q : BitVec 12) (half : Half) (x : Word) (s : State) : exec (.qstatWrite q half x) s = execQstatWrite q half x s := rfl
@[simp] theorem exec_qcancelWrite (q : BitVec 12) (half : Half) (x : Word) (s : State) : exec (.qcancelWrite q half x) s = execQcancelWrite q half x s := rfl
@[simp] theorem exec_tblKill (tab : BitVec 16) (s : State) : exec (.tblKill tab) s = execTblKill tab s := rfl
@[simp] theorem exec_powerModeChange (s : State) : exec (.powerModeChange) s = execPowerModeChange s := rfl
@[simp] theorem exec_migrateFreeze (q : BitVec 12) (s : State) : exec (.migrateFreeze q) s = execMigrateFreeze q s := rfl
@[simp] theorem exec_fwCallStatus (c : Caller) (s : State) : exec (.fwCallStatus c) s = execFwCallStatus c s := rfl
@[simp] theorem exec_pageMigration (page : Nat) (s : State) : exec (.pageMigration page) s = execPageMigration page s := rfl
@[simp] theorem exec_peerPieceResend (op : Nat) (plane : Option Nat) (s : State) : exec (.peerPieceResend op plane) s = execPeerPieceResend op plane s := rfl
@[simp] theorem exec_leaseRenew (s : State) : exec (.leaseRenew) s = execLeaseRenew s := rfl
@[simp] theorem exec_leaseLapse (s : State) : exec (.leaseLapse) s = execLeaseLapse s := rfl
@[simp] theorem exec_unallocatedEncoding (reason : BitVec 8) (s : State) : exec (.unallocatedEncoding reason) s = execUnallocatedEncoding reason s := rfl
@[simp] theorem exec_instructionFetchFault (cause reason : BitVec 8) (va : Word) (s : State) : exec (.instructionFetchFault cause reason va) s = execInstructionFetchFault cause reason va s := rfl
@[simp] theorem exec_migrateDeadline (q : BitVec 12) (s : State) : exec (.migrateDeadline q) s = execMigrateDeadline q s := rfl
@[simp] theorem exec_leaseRenewalTimeout (s : State) : exec (.leaseRenewalTimeout) s = execLeaseRenewalTimeout s := rfl
@[simp] theorem exec_memAlloc (c : Caller) (count : Nat) (s : State) : exec (.memAlloc c count) s = execMemAlloc c count s := rfl
@[simp] theorem exec_memFree (c : Caller) (page count : Nat) (s : State) : exec (.memFree c page count) s = execMemFree c page count s := rfl
@[simp] theorem exec_memPin (c : Caller) (page count : Nat) (pin exported : Bool) (s : State) : exec (.memPin c page count pin exported) s = execMemPin c page count pin exported s := rfl
@[simp] theorem exec_routineLoad (c : Caller) (addr : Word) (s : State) : exec (.routineLoad c addr) s = execRoutineLoad c addr s := rfl
@[simp] theorem exec_keyLoad (c : Caller) (tab : BitVec 16) (entry : BitVec 4) (session : Nat) (wrapped : List Byte) (s : State) : exec (.keyLoad c tab entry session wrapped) s = execKeyLoad c tab entry session wrapped s := rfl
@[simp] theorem exec_errRing (c : Caller) (base : Word) (count vector : Nat) (s : State) : exec (.errRing c base count vector) s = execErrRing c base count vector s := rfl
@[simp] theorem exec_xlateReg (c : Caller) (tab : BitVec 16) (digest : List Byte) (header : Word) (s : State) : exec (.xlateReg c tab digest header) s = execXlateReg c tab digest header s := rfl
@[simp] theorem exec_peerSet (c : Caller) (tab : BitVec 16) (index port : Nat) (partner : BitVec 16) (s : State) : exec (.peerSet c tab index port partner) s = execPeerSet c tab index port partner s := rfl
@[simp] theorem exec_tblCreate (c : Caller) (args : TblArgs) (s : State) : exec (.tblCreate c args) s = execTblCreate c args s := rfl
@[simp] theorem exec_queueAssign (c : Caller) (q : BitVec 12) (port : BitVec 2) (vf : BitVec 8) (s : State) : exec (.queueAssign c q port vf) s = execQueueAssign c q port vf s := rfl
@[simp] theorem exec_queueGate (c : Caller) (q : BitVec 12) (va : Word) (s : State) : exec (.queueGate c q va) s = execQueueGate c q va s := rfl
@[simp] theorem exec_migrate (c : Caller) (src dst : BitVec 12) (wafer : Nat) (newGate : Word) (deadline : Nat) (s : State) : exec (.migrate c src dst wafer newGate deadline) s = execMigrate c src dst wafer newGate deadline s := rfl
@[simp] theorem exec_storeRead (c : Caller) (args : StoreArgs) (s : State) : exec (.storeRead c args) s = execStoreRead c args s := rfl
@[simp] theorem exec_storeWrite (c : Caller) (args : StoreArgs) (s : State) : exec (.storeWrite c args) s = execStoreWrite c args s := rfl
@[simp] theorem exec_storeTransferDone (c : Caller) (data : List Byte) (badLba : Option Nat) (s : State) : exec (.storeTransferDone c data badLba) s = execStoreTransferDone c data badLba s := rfl
@[simp] theorem exec_postIrq (c : Caller) (tab : BitVec 16) (vt : Nat) (hart : Nat) (source : BitVec 16) (s : State) : exec (.postIrq c tab vt hart source) s = execPostIrq c tab vt hart source s := rfl
@[simp] theorem exec_hostMemoryRead (port : BitVec 2) (dpa : BitVec 42) (len : Nat) (s : State) : exec (.hostMemoryRead port dpa len) s = execHostMemoryRead port dpa len s := rfl
@[simp] theorem exec_hostMemoryWrite (port : BitVec 2) (dpa : BitVec 42) (bytes : List Byte) (s : State) : exec (.hostMemoryWrite port dpa bytes) s = execHostMemoryWrite port dpa bytes s := rfl
@[simp] theorem exec_droverPeriodEnd (moves : List (Nat × Nat)) (s : State) : exec (.droverPeriodEnd moves) s = execDroverPeriodEnd moves s := rfl
@[simp] theorem exec_scrubLine (line : Nat) (bad : List Nat) (s : State) : exec (.scrubLine line bad) s = execScrubLine line bad s := rfl
@[simp] theorem exec_dutyChange (field : Nat) (duties : List Nat) (s : State) : exec (.dutyChange field duties) s = execDutyChange field duties s := rfl
@[simp] theorem exec_coldStart (assayerOk factorOk : Bool) (defects : DefectMap) (setup : Setup) (s : State) : exec (.coldStart assayerOk factorOk defects setup) s = execColdStart assayerOk factorOk defects setup s := rfl
@[simp] theorem exec_warmStart (assayerOk factorOk hbmNear mapOk : Bool) (defects : DefectMap) (setup : Setup) (s : State) : exec (.warmStart assayerOk factorOk hbmNear mapOk defects setup) s = execWarmStart assayerOk factorOk hbmNear mapOk defects setup s := rfl
@[simp] theorem exec_recoveryImage (port : BitVec 2) (verified complete : Bool) (s : State) : exec (.recoveryImage port verified complete) s = execRecoveryImage port verified complete s := rfl
@[simp] theorem exec_shareShrink (tab : BitVec 16) (share : List Rect) (s : State) : exec (.shareShrink tab share) s = execShareShrink tab share s := rfl
@[simp] theorem exec_translationDeclined (tab : BitVec 16) (digest : List Byte) (s : State) : exec (.translationDeclined tab digest) s = execTranslationDeclined tab digest s := rfl
@[simp] theorem exec_tdispRequest (port : BitVec 2) (vf : BitVec 8) (lock : Bool) (s : State) : exec (.tdispRequest port vf lock) s = execTdispRequest port vf lock s := rfl
@[simp] theorem exec_spdmRequest (port : BitVec 2) (index : Nat) (s : State) : exec (.spdmRequest port index) s = execSpdmRequest port index s := rfl
@[simp] theorem exec_tilemapEntryRewrite (t : TileId) (s : State) : exec (.tilemapEntryRewrite t) s = execTilemapEntryRewrite t s := rfl
@[simp] theorem exec_pwrModeWrite (half : Half) (x : Word) (s : State) : exec (.pwrModeWrite half x) s = execPwrModeWrite half x s := rfl
@[simp] theorem exec_machineCheck (h : HartId) (s : State) : exec (.machineCheck h) s = execMachineCheck h s := rfl
@[simp] theorem exec_hardwarePrefetch (h : HartId) (va : Word) (s : State) : exec (.hardwarePrefetch h va) s = execHardwarePrefetch h va s := rfl
@[simp] theorem exec_deviceRegisterWrite (c : Caller) (off : Word) (half : Half) (x : Word) (s : State) : exec (.deviceRegisterWrite c off half x) s = execDeviceRegisterWrite c off half x s := rfl
@[simp] theorem exec_qcfgWrite (q : BitVec 12) (reg : BitVec 2) (half : Half) (x : Word) (s : State) : exec (.qcfgWrite q reg half x) s = execQcfgWrite q reg half x s := rfl

end Sys2Proof.Machine
end

