-- ==== Sys2Proof/Laws/Memory.lean ====
section
/-!
SUPPORT. Memory's canonical form: every operation on bytes and tags keeps it, and what a read answers after each.
-/

namespace Sys2Proof.Machine

variable {α : Type} [DecidableEq α]

/-! ## Canonical lists -/

/-- A list canonical above a key is canonical above any smaller bound. -/
theorem canonFrom_weaken {d : α} {lo lo' : Option Nat} {m : List (Nat × α)}
    (h : canonFrom d lo m = true) (w : ∀ l', lo' = some l' → ∃ l, lo = some l ∧ l' ≤ l) : canonFrom d lo' m = true := by
  cases m with
  | nil => rfl
  | cons p m =>
    obtain ⟨k, v⟩ := p
    simp only [canonFrom, Bool.and_eq_true] at h ⊢
    refine ⟨⟨?_, h.1.2⟩, h.2⟩
    cases lo' with
    | none => rfl
    | some l' =>
      obtain ⟨l, rfl, hl⟩ := w l' rfl
      have := h.1.1
      simp only [decide_eq_true_eq] at this ⊢
      omega

/-- The lower bound of a list is below a key. -/
def below (lo : Option Nat) (k : Nat) : Prop := ∀ l, lo = some l → l < k

theorem canonFrom_cons {d : α} {lo : Option Nat} {k : Nat} {v : α} {m : List (Nat × α)} :
    canonFrom d lo ((k, v) :: m) = true ↔ below lo k ∧ v ≠ d ∧ canonFrom d (some k) m = true := by
  cases lo <;> simp [canonFrom, below, and_assoc]

theorem below_trans {lo : Option Nat} {k j : Nat} (h : below lo k) (w : k < j) : below lo j := fun l e => Nat.lt_trans (h l e) w

/-- A list canonical above k is canonical above anything below k. -/
theorem canonFrom_below {d : α} {lo : Option Nat} {k : Nat} {m : List (Nat × α)}
    (h : canonFrom d (some k) m = true) (b : below lo k) : canonFrom d lo m = true :=
  canonFrom_weaken h fun l' e => ⟨k, rfl, Nat.le_of_lt (b l' e)⟩

theorem store_canonFrom {d : α} {lo : Option Nat} (k : Nat) (v : α) (m : List (Nat × α))
    (h : canonFrom d lo m = true) (b : below lo k) : canonFrom d lo (store d k v m) = true := by
  induction m generalizing lo with
  | nil =>
    unfold store
    split
    · rfl
    · exact canonFrom_cons.2 ⟨b, ‹_›, rfl⟩
  | cons p m ih =>
    obtain ⟨k', v'⟩ := p
    obtain ⟨b', n', c'⟩ := canonFrom_cons.1 h
    unfold store
    split
    · split
      · exact h
      · exact canonFrom_cons.2 ⟨b, ‹_›, canonFrom_cons.2 ⟨fun l e => by cases e; assumption, n', c'⟩⟩
    · split
      · subst k
        split
        · exact canonFrom_below c' b'
        · exact canonFrom_cons.2 ⟨b', ‹_›, c'⟩
      · exact canonFrom_cons.2 ⟨b', n', ih c' fun l e => by cases e; omega⟩

/-- Setting an entry keeps the canonical form. -/
theorem store_canon {d : α} (k : Nat) (v : α) {m : List (Nat × α)} (h : canon d m = true) : canon d (store d k v m) = true :=
  store_canonFrom k v m h fun _ e => by cases e

theorem filter_canonFrom {d : α} {lo : Option Nat} (p : Nat × α → Bool) (m : List (Nat × α))
    (h : canonFrom d lo m = true) : canonFrom d lo (m.filter p) = true := by
  induction m generalizing lo with
  | nil => rfl
  | cons q m ih =>
    obtain ⟨k, v⟩ := q
    obtain ⟨b, n, c⟩ := canonFrom_cons.1 h
    by_cases e : p (k, v) = true
    · rw [List.filter_cons_of_pos e]; exact canonFrom_cons.2 ⟨b, n, ih c⟩
    · rw [List.filter_cons_of_neg e]; exact canonFrom_below (ih c) b

/-- Dropping entries keeps the canonical form. -/
theorem filter_canon {d : α} (p : Nat × α → Bool) {m : List (Nat × α)} (h : canon d m = true) : canon d (m.filter p) = true :=
  filter_canonFrom p m h

theorem wipe_canon {d : α} (lo hi : Nat) {m : List (Nat × α)} (h : canon d m = true) : canon d (wipe lo hi m) = true :=
  filter_canon _ h

/-- Below every key of a list, a read answers the default. -/
theorem look_of_below {d : α} {k : Nat} {m : List (Nat × α)} (h : canonFrom d (some k) m = true) {j : Nat} (w : j ≤ k) :
    look d j m = d := by
  induction m generalizing k with
  | nil => rfl
  | cons p m ih =>
    obtain ⟨k', v'⟩ := p
    obtain ⟨b, _, c⟩ := canonFrom_cons.1 h
    have := b k rfl
    rw [look, if_neg (by omega)]
    exact ih c (by omega)

theorem look_store_from {d : α} {lo : Option Nat} (k : Nat) (v : α) (j : Nat) (m : List (Nat × α))
    (h : canonFrom d lo m = true) : look d j (store d k v m) = if j = k then v else look d j m := by
  induction m generalizing lo with
  | nil =>
    unfold store
    split
    · subst v; simp [look]
    · simp [look, eq_comm]
  | cons p m ih =>
    obtain ⟨k', v'⟩ := p
    obtain ⟨_, _, c⟩ := canonFrom_cons.1 h
    unfold store
    split
    · rename_i lt
      have nk : j = k → look d j ((k', v') :: m) = d := fun e => by
        rw [look, if_neg (by omega)]; exact look_of_below c (by omega)
      split
      · subst v
        by_cases e : j = k
        · rw [if_pos e]; exact nk e
        · rw [if_neg e]
      · rw [look]
        by_cases e : j = k
        · rw [if_pos e.symm, if_pos e]
        · rw [if_neg fun q => e q.symm, if_neg e]
    · split
      · subst k
        have nk : look d k' m = d := look_of_below c (Nat.le_refl _)
        split
        · subst v
          by_cases e : j = k'
          · rw [if_pos e, e, nk]
          · rw [if_neg e, look, if_neg fun q => e q.symm]
        · by_cases e : j = k'
          · rw [if_pos e, look, if_pos e.symm]
          · rw [if_neg e, look, look, if_neg fun q => e q.symm, if_neg fun q => e q.symm]
      · rename_i ne _
        rw [look, look]
        by_cases e : k' = j
        · rw [if_pos e, if_pos e, if_neg (by omega)]
        · rw [if_neg e, if_neg e, ih c]

/-- A read after a write of an entry. -/
theorem look_store {d : α} (k : Nat) (v : α) (j : Nat) {m : List (Nat × α)} (h : canon d m = true) :
    look d j (store d k v m) = if j = k then v else look d j m := look_store_from k v j m h

/-! ## The store of bytes and tags -/

theorem Store.wf_iff {m : Store} : m.wf = true ↔ canon (0 : Byte) m.cells = true ∧ canon Tag.full m.tags = true := by
  simp [Store.wf]

theorem Store.setByte_wf (a : Nat) (b : Byte) {m : Store} (h : m.wf = true) : (m.setByte a b).wf = true :=
  Store.wf_iff.2 ⟨store_canon a b (Store.wf_iff.1 h).1, (Store.wf_iff.1 h).2⟩

theorem Store.setTag_wf (a : Nat) (t : Tag) {m : Store} (h : m.wf = true) : (m.setTag a t).wf = true :=
  Store.wf_iff.2 ⟨(Store.wf_iff.1 h).1, store_canon a t (Store.wf_iff.1 h).2⟩

theorem Store.clear_wf (a n : Nat) {m : Store} (h : m.wf = true) : (m.clear a n).wf = true :=
  Store.wf_iff.2 ⟨wipe_canon _ _ (Store.wf_iff.1 h).1, wipe_canon _ _ (Store.wf_iff.1 h).2⟩

theorem Store.write_wf (a : Nat) (bs : List Byte) {m : Store} (h : m.wf = true) : (m.write a bs).wf = true := by
  induction bs generalizing a m with
  | nil => exact h
  | cons b bs ih => exact ih (a + 1) (Store.setByte_wf a b h)

/-- Every byte after a byte is written. -/
theorem Store.byte_setByte (a : Nat) (b : Byte) (j : Nat) {m : Store} (h : m.wf = true) :
    (m.setByte a b).byte j = if j = a then b else m.byte j := look_store a b j (Store.wf_iff.1 h).1

@[simp] theorem Store.byte_setTag (a : Nat) (t : Tag) (j : Nat) (m : Store) : (m.setTag a t).byte j = m.byte j := rfl

/-- Every tag after a tag is set. -/
theorem Store.tag_setTag (a : Nat) (t : Tag) (j : Nat) {m : Store} (h : m.wf = true) :
    (m.setTag a t).tag j = if j = a then t else m.tag j := look_store a t j (Store.wf_iff.1 h).2

@[simp] theorem Store.tag_setByte (a : Nat) (b : Byte) (j : Nat) (m : Store) : (m.setByte a b).tag j = m.tag j := rfl

@[simp] theorem Store.tag_write (a : Nat) (bs : List Byte) (j : Nat) (m : Store) : (m.write a bs).tag j = m.tag j := by
  induction bs generalizing a m with
  | nil => rfl
  | cons b bs ih => simp [Store.write, ih]

/-- Every byte after bytes are written at consecutive keys. -/
theorem Store.byte_write (a : Nat) (bs : List Byte) (j : Nat) {m : Store} (h : m.wf = true) :
    (m.write a bs).byte j = if a ≤ j ∧ j < a + bs.length then bs.getD (j - a) 0 else m.byte j := by
  induction bs generalizing a m with
  | nil => rw [if_neg (by simp)]; rfl
  | cons b bs ih =>
    rw [Store.write, ih (a + 1) (Store.setByte_wf a b h), Store.byte_setByte a b j h]
    simp only [List.length_cons]
    by_cases e : j = a
    · subst e; rw [if_neg (by omega), if_pos rfl, if_pos (by omega)]; simp
    · by_cases w : a + 1 ≤ j ∧ j < a + 1 + bs.length
      · have e2 : j - a = j - (a + 1) + 1 := by omega
        rw [if_pos w, if_pos (by omega), e2]; simp
      · rw [if_neg w, if_neg e, if_neg (by omega)]

@[simp] theorem leBytes_length (n v : Nat) : (leBytes n v).length = n := by
  induction n generalizing v with
  | zero => rfl
  | succ n ih => simp [leBytes, ih]

/-! ## Values at a home -/

@[simp] theorem State.writeNat_harts (h : Home) (n v : Nat) (s : State) : (s.writeNat h n v).harts = s.harts := rfl
@[simp] theorem State.writeNat_hart (h : Home) (n v : Nat) (s : State) : (s.writeNat h n v).hart = s.hart := rfl
@[simp] theorem State.writeNat_focus (h : Home) (n v : Nat) (s : State) : (s.writeNat h n v).focus = s.focus := rfl

theorem State.writeNat_wf (h : Home) (n v : Nat) {s : State} (w : s.mem.wf = true) : (s.writeNat h n v).mem.wf = true :=
  Store.write_wf _ _ w

theorem State.writeWord_wf (h : Home) (v : Word) {s : State} (w : s.mem.wf = true) : (s.writeWord h v).mem.wf = true :=
  State.writeNat_wf h 8 _ w

theorem State.setTag_wf (h : Home) (t : Tag) {s : State} (w : s.mem.wf = true) : (s.setTag h t).mem.wf = true := by
  unfold State.setTag
  split
  · exact Store.setTag_wf _ _ w
  · exact w

@[simp] theorem State.setTag_harts (h : Home) (t : Tag) (s : State) : (s.setTag h t).harts = s.harts := by
  unfold State.setTag; split <;> rfl
@[simp] theorem State.setTag_focus (h : Home) (t : Tag) (s : State) : (s.setTag h t).focus = s.focus := by
  unfold State.setTag; split <;> rfl

/-- A tag changes no byte. -/
@[simp] theorem State.setTag_byte (h : Home) (t : Tag) (s : State) (j : Nat) : (s.setTag h t).mem.byte j = s.mem.byte j := by
  unfold State.setTag; split <;> rfl

/-- A value written changes the bytes it covers and no other. -/
theorem State.byte_writeNat (h : Home) (n v : Nat) (j : Nat) {s : State} (w : s.mem.wf = true) :
    (s.writeNat h n v).mem.byte j = if h.key ≤ j ∧ j < h.key + n then (leBytes n v).getD (j - h.key) 0 else s.mem.byte j := by
  show (s.mem.write h.key (leBytes n v)).byte j = _
  rw [Store.byte_write h.key (leBytes n v) j w, leBytes_length]

end Sys2Proof.Machine
end

