-- ==== Sys2Proof/Laws/Loft.lean ====
section
/-!
SUPPORT. What an access of the loft's words does: away from the loft it is a plain access, and everywhere it keeps memory canonical.
-/

namespace Sys2Proof.Machine

theorem State.loadNat_plain {s : State} {h : Home} (p : s.plain h = true) (n : Nat) : s.loadNat h n = s.readNat h n := by
  simp [State.loadNat, p]

theorem State.loadWord_plain {s : State} {h : Home} (p : s.plain h = true) : s.loadWord h = s.readWord h := by
  simp [State.loadWord, State.readWord, State.loadNat_plain p]

theorem State.storeNat_plain {s : State} {h : Home} (p : s.plain h = true) (n v : Nat) : s.storeNat h n v = s.writeNat h n v := by
  simp [State.storeNat, p]

@[simp] theorem State.plain_slice (s : State) (t : TileId) (off : Nat) : s.plain (.slice t off) = true := rfl
@[simp] theorem State.plain_host (s : State) (p hpa : Nat) : s.plain (.host p hpa) = true := rfl

/-- A step of a fold that keeps a property keeps it through the fold. -/
theorem foldl_keeps {α β : Type} (P : β → Prop) (f : β → α → β) (step : ∀ b a, P b → P (f b a)) :
    ∀ (l : List α) (b : β), P b → P (l.foldl f b)
  | [], _, h => h
  | a :: l, b, h => foldl_keeps P f step l (f b a) (step b a h)

theorem State.setTagByte_wf (t : TileId) (i : Nat) (b : Byte) {s : State} (w : s.mem.wf = true) : (s.setTagByte t i b).mem.wf = true :=
  foldl_keeps (fun s : State => s.mem.wf = true) _ (fun _ _ h => State.setTag_wf _ _ h) _ _ w

theorem State.setImageByte_mem (t : TileId) (m off : Nat) (b : Byte) (s : State) : (s.setImageByte t m off b).mem = s.mem := by
  unfold State.setImageByte
  split <;> rfl

theorem State.setSlotByte_wf (t : TileId) (off : Nat) (b : Byte) {s : State} (w : s.mem.wf = true) :
    (s.setSlotByte t off b).mem.wf = true := by
  unfold State.setSlotByte
  split
  · exact Store.setByte_wf _ _ w
  · split
    · exact State.setTagByte_wf t _ b w
    · split
      · rw [State.setImageByte_mem]; exact w
      · exact w

theorem State.setHartBytes_mem (h : HartId) (off n v : Nat) (s : State) : (s.setHartBytes h off n v).mem = s.mem := by
  unfold State.setHartBytes
  dsimp only
  split <;> rfl

theorem State.setSlot_wf (t : TileId) (off n v : Nat) {s : State} (w : s.mem.wf = true) : (s.setSlot t off n v).mem.wf = true := by
  unfold State.setSlot
  split
  · rw [State.setHartBytes_mem]; exact w
  · exact foldl_keeps (fun s : State => s.mem.wf = true) _ (fun _ _ h => State.setSlotByte_wf t _ _ h) _ _ w

/-- A write keeps memory canonical, of the loft's words too. -/
theorem State.storeNat_wf (h : Home) (n v : Nat) {s : State} (w : s.mem.wf = true) : (s.storeNat h n v).mem.wf = true := by
  unfold State.storeNat
  split
  · exact State.writeNat_wf h n v w
  · split
    · split
      · exact State.setSlot_wf _ _ n v w
      · exact w
    · exact State.writeNat_wf h n v w

/-- A slice that is cleared before it is given out leaves memory canonical. -/
theorem State.clearSlice_wf (t : TileId) {s : State} (w : s.mem.wf = true) : (s.clearSlice t).mem.wf = true :=
  Store.clear_wf _ _ w

end Sys2Proof.Machine
end

