-- ==== Sys2Proof/Laws/State.lean ====
section
/-!
SUPPORT. What each update of the state leaves alone: one lemma per field and update, so that no proof unfolds a record
update. The updates of a hart, a tile, a gang, a queue and a cluster are here, and those of a hart's registers.
-/

namespace Sys2Proof.Machine

/-! ## One way to say an update -/

@[simp] theorem State.modHart_eq (s : State) (h : HartId) (f : Hart → Hart) : s.modHart h f = s.setHart h (f (s.hartOf h)) := rfl
@[simp] theorem State.mod_eq (s : State) (f : Hart → Hart) : s.mod f = s.setHart s.focus (f s.hart) := rfl
@[simp] theorem State.hartOf_focus (s : State) : s.hartOf s.focus = s.hart := rfl
@[simp] theorem State.modTile_eq (s : State) (t : TileId) (f : Tile → Tile) : s.modTile t f = s.setTile t (f (s.tile t)) := rfl

/-! ## Maps -/

@[simp] theorem find_put_same {κ α : Type} [DecidableEq κ] (k : κ) (v : α) (m : Map κ α) : find k (put k v m) = some v := by
  induction m with
  | nil => simp [put, find]
  | cons p m ih =>
    obtain ⟨k', v'⟩ := p
    by_cases h : k' = k
    · simp [put, find, h]
    · simp [put, find, h, ih]

@[simp] theorem find_put_other {κ α : Type} [DecidableEq κ] {j k : κ} (v : α) (m : Map κ α) (h : j ≠ k) :
    find j (put k v m) = find j m := by
  induction m with
  | nil => simp [put, find, Ne.symm h]
  | cons p m ih =>
    obtain ⟨k', v'⟩ := p
    by_cases hk : k' = k
    · simp [put, find, hk, Ne.symm h]
    · by_cases hj : k' = j
      · subst hj; simp [put, find, hk]
      · simp [put, find, hk, hj, ih]

@[simp] theorem findD_put_same {κ α : Type} [DecidableEq κ] (k : κ) (v d : α) (m : Map κ α) : findD k (put k v m) d = v := by
  simp [findD]

@[simp] theorem findD_put_other {κ α : Type} [DecidableEq κ] {j k : κ} (v d : α) (m : Map κ α) (h : j ≠ k) :
    findD j (put k v m) d = findD j m d := by
  simp [findD, h]

@[simp] theorem State.hartOf_setHart_same (s : State) (h : HartId) (x : Hart) : (s.setHart h x).hartOf h = x :=
  findD_put_same ..
@[simp] theorem State.hartOf_setHart_other (s : State) {h j : HartId} (x : Hart) (n : j ≠ h) :
    (s.setHart h x).hartOf j = s.hartOf j := findD_put_other _ _ _ n
@[simp] theorem State.hart_setHart_focus (s : State) (x : Hart) : (s.setHart s.focus x).hart = x := findD_put_same ..
@[simp] theorem State.tile_setTile_same (s : State) (t : TileId) (x : Tile) : (s.setTile t x).tile t = x := findD_put_same ..
@[simp] theorem State.tile_setTile_other (s : State) {t u : TileId} (x : Tile) (n : u ≠ t) : (s.setTile t x).tile u = s.tile u :=
  findD_put_other _ _ _ n

theorem put_put {κ α : Type} [DecidableEq κ] (k : κ) (v w : α) (m : Map κ α) : put k v (put k w m) = put k v m := by
  induction m with
  | nil => simp [put]
  | cons p m ih =>
    obtain ⟨k', v'⟩ := p
    by_cases h : k' = k
    · simp [put, h]
    · simp [put, h, ih]

/-- The last update of a hart counts. -/
@[simp] theorem State.setHart_setHart (s : State) (h : HartId) (x y : Hart) : (s.setHart h x).setHart h y = s.setHart h y := by
  simp [State.setHart, put_put]

/-! ## A hart is set -/

@[simp] theorem State.setHart_agenda (s : State) (h : HartId) (x : Hart) : (s.setHart h x).agenda = s.agenda := rfl
@[simp] theorem State.setHart_focus (s : State) (h : HartId) (x : Hart) : (s.setHart h x).focus = s.focus := rfl
@[simp] theorem State.setHart_turns (s : State) (h : HartId) (x : Hart) : (s.setHart h x).turns = s.turns := rfl
@[simp] theorem State.setHart_tick (s : State) (h : HartId) (x : Hart) : (s.setHart h x).tick = s.tick := rfl
@[simp] theorem State.setHart_nextId (s : State) (h : HartId) (x : Hart) : (s.setHart h x).nextId = s.nextId := rfl
@[simp] theorem State.setHart_now (s : State) (h : HartId) (x : Hart) : (s.setHart h x).now = s.now := rfl
@[simp] theorem State.setHart_tiles (s : State) (h : HartId) (x : Hart) : (s.setHart h x).tiles = s.tiles := rfl
@[simp] theorem State.setHart_mem (s : State) (h : HartId) (x : Hart) : (s.setHart h x).mem = s.mem := rfl
@[simp] theorem State.setHart_ops (s : State) (h : HartId) (x : Hart) : (s.setHart h x).ops = s.ops := rfl
@[simp] theorem State.setHart_msgs (s : State) (h : HartId) (x : Hart) : (s.setHart h x).msgs = s.msgs := rfl
@[simp] theorem State.setHart_parks (s : State) (h : HartId) (x : Hart) : (s.setHart h x).parks = s.parks := rfl
@[simp] theorem State.setHart_buckets (s : State) (h : HartId) (x : Hart) : (s.setHart h x).buckets = s.buckets := rfl
@[simp] theorem State.setHart_hbmFill (s : State) (h : HartId) (x : Hart) : (s.setHart h x).hbmFill = s.hbmFill := rfl
@[simp] theorem State.setHart_parkReqs (s : State) (h : HartId) (x : Hart) : (s.setHart h x).parkReqs = s.parkReqs := rfl
@[simp] theorem State.setHart_wakes (s : State) (h : HartId) (x : Hart) : (s.setHart h x).wakes = s.wakes := rfl
@[simp] theorem State.setHart_invs (s : State) (h : HartId) (x : Hart) : (s.setHart h x).invs = s.invs := rfl
@[simp] theorem State.setHart_clusters (s : State) (h : HartId) (x : Hart) : (s.setHart h x).clusters = s.clusters := rfl
@[simp] theorem State.setHart_granules (s : State) (h : HartId) (x : Hart) : (s.setHart h x).granules = s.granules := rfl
@[simp] theorem State.setHart_nextGid (s : State) (h : HartId) (x : Hart) : (s.setHart h x).nextGid = s.nextGid := rfl
@[simp] theorem State.setHart_tabs (s : State) (h : HartId) (x : Hart) : (s.setHart h x).tabs = s.tabs := rfl
@[simp] theorem State.setHart_gangs (s : State) (h : HartId) (x : Hart) : (s.setHart h x).gangs = s.gangs := rfl
@[simp] theorem State.setHart_queues (s : State) (h : HartId) (x : Hart) : (s.setHart h x).queues = s.queues := rfl
@[simp] theorem State.setHart_headers (s : State) (h : HartId) (x : Hart) : (s.setHart h x).headers = s.headers := rfl
@[simp] theorem State.setHart_routines (s : State) (h : HartId) (x : Hart) : (s.setHart h x).routines = s.routines := rfl
@[simp] theorem State.setHart_dpit (s : State) (h : HartId) (x : Hart) : (s.setHart h x).dpit = s.dpit := rfl
@[simp] theorem State.setHart_loftSize (s : State) (h : HartId) (x : Hart) : (s.setHart h x).loftSize = s.loftSize := rfl
@[simp] theorem State.setHart_loftUsed (s : State) (h : HartId) (x : Hart) : (s.setHart h x).loftUsed = s.loftUsed := rfl
@[simp] theorem State.setHart_loftFrames (s : State) (h : HartId) (x : Hart) : (s.setHart h x).loftFrames = s.loftFrames := rfl
@[simp] theorem State.setHart_retired (s : State) (h : HartId) (x : Hart) : (s.setHart h x).retired = s.retired := rfl
@[simp] theorem State.setHart_latentUE (s : State) (h : HartId) (x : Hart) : (s.setHart h x).latentUE = s.latentUE := rfl
@[simp] theorem State.setHart_calls (s : State) (h : HartId) (x : Hart) : (s.setHart h x).calls = s.calls := rfl
@[simp] theorem State.setHart_transfer (s : State) (h : HartId) (x : Hart) : (s.setHart h x).transfer = s.transfer := rfl
@[simp] theorem State.setHart_drover (s : State) (h : HartId) (x : Hart) : (s.setHart h x).drover = s.drover := rfl
@[simp] theorem State.setHart_ostler (s : State) (h : HartId) (x : Hart) : (s.setHart h x).ostler = s.ostler := rfl
@[simp] theorem State.setHart_power (s : State) (h : HartId) (x : Hart) : (s.setHart h x).power = s.power := rfl
@[simp] theorem State.setHart_factors (s : State) (h : HartId) (x : Hart) : (s.setHart h x).factors = s.factors := rfl
@[simp] theorem State.setHart_duty (s : State) (h : HartId) (x : Hart) : (s.setHart h x).duty = s.duty := rfl
@[simp] theorem State.setHart_tdis (s : State) (h : HartId) (x : Hart) : (s.setHart h x).tdis = s.tdis := rfl
@[simp] theorem State.setHart_msixTable (s : State) (h : HartId) (x : Hart) : (s.setHart h x).msixTable = s.msixTable := rfl
@[simp] theorem State.setHart_cxlPorts (s : State) (h : HartId) (x : Hart) : (s.setHart h x).cxlPorts = s.cxlPorts := rfl
@[simp] theorem State.setHart_errors (s : State) (h : HartId) (x : Hart) : (s.setHart h x).errors = s.errors := rfl
@[simp] theorem State.setHart_errRing (s : State) (h : HartId) (x : Hart) : (s.setHart h x).errRing = s.errRing := rfl
@[simp] theorem State.setHart_faultLog (s : State) (h : HartId) (x : Hart) : (s.setHart h x).faultLog = s.faultLog := rfl
@[simp] theorem State.setHart_answers (s : State) (h : HartId) (x : Hart) : (s.setHart h x).answers = s.answers := rfl

/-! ## A tile is set -/

@[simp] theorem State.setTile_agenda (s : State) (t : TileId) (x : Tile) : (s.setTile t x).agenda = s.agenda := rfl
@[simp] theorem State.setTile_focus (s : State) (t : TileId) (x : Tile) : (s.setTile t x).focus = s.focus := rfl
@[simp] theorem State.setTile_turns (s : State) (t : TileId) (x : Tile) : (s.setTile t x).turns = s.turns := rfl
@[simp] theorem State.setTile_tick (s : State) (t : TileId) (x : Tile) : (s.setTile t x).tick = s.tick := rfl
@[simp] theorem State.setTile_nextId (s : State) (t : TileId) (x : Tile) : (s.setTile t x).nextId = s.nextId := rfl
@[simp] theorem State.setTile_now (s : State) (t : TileId) (x : Tile) : (s.setTile t x).now = s.now := rfl
@[simp] theorem State.setTile_harts (s : State) (t : TileId) (x : Tile) : (s.setTile t x).harts = s.harts := rfl
@[simp] theorem State.setTile_mem (s : State) (t : TileId) (x : Tile) : (s.setTile t x).mem = s.mem := rfl
@[simp] theorem State.setTile_ops (s : State) (t : TileId) (x : Tile) : (s.setTile t x).ops = s.ops := rfl
@[simp] theorem State.setTile_msgs (s : State) (t : TileId) (x : Tile) : (s.setTile t x).msgs = s.msgs := rfl
@[simp] theorem State.setTile_parks (s : State) (t : TileId) (x : Tile) : (s.setTile t x).parks = s.parks := rfl
@[simp] theorem State.setTile_buckets (s : State) (t : TileId) (x : Tile) : (s.setTile t x).buckets = s.buckets := rfl
@[simp] theorem State.setTile_hbmFill (s : State) (t : TileId) (x : Tile) : (s.setTile t x).hbmFill = s.hbmFill := rfl
@[simp] theorem State.setTile_parkReqs (s : State) (t : TileId) (x : Tile) : (s.setTile t x).parkReqs = s.parkReqs := rfl
@[simp] theorem State.setTile_wakes (s : State) (t : TileId) (x : Tile) : (s.setTile t x).wakes = s.wakes := rfl
@[simp] theorem State.setTile_invs (s : State) (t : TileId) (x : Tile) : (s.setTile t x).invs = s.invs := rfl
@[simp] theorem State.setTile_clusters (s : State) (t : TileId) (x : Tile) : (s.setTile t x).clusters = s.clusters := rfl
@[simp] theorem State.setTile_granules (s : State) (t : TileId) (x : Tile) : (s.setTile t x).granules = s.granules := rfl
@[simp] theorem State.setTile_nextGid (s : State) (t : TileId) (x : Tile) : (s.setTile t x).nextGid = s.nextGid := rfl
@[simp] theorem State.setTile_tabs (s : State) (t : TileId) (x : Tile) : (s.setTile t x).tabs = s.tabs := rfl
@[simp] theorem State.setTile_gangs (s : State) (t : TileId) (x : Tile) : (s.setTile t x).gangs = s.gangs := rfl
@[simp] theorem State.setTile_queues (s : State) (t : TileId) (x : Tile) : (s.setTile t x).queues = s.queues := rfl
@[simp] theorem State.setTile_headers (s : State) (t : TileId) (x : Tile) : (s.setTile t x).headers = s.headers := rfl
@[simp] theorem State.setTile_routines (s : State) (t : TileId) (x : Tile) : (s.setTile t x).routines = s.routines := rfl
@[simp] theorem State.setTile_dpit (s : State) (t : TileId) (x : Tile) : (s.setTile t x).dpit = s.dpit := rfl
@[simp] theorem State.setTile_loftSize (s : State) (t : TileId) (x : Tile) : (s.setTile t x).loftSize = s.loftSize := rfl
@[simp] theorem State.setTile_loftUsed (s : State) (t : TileId) (x : Tile) : (s.setTile t x).loftUsed = s.loftUsed := rfl
@[simp] theorem State.setTile_loftFrames (s : State) (t : TileId) (x : Tile) : (s.setTile t x).loftFrames = s.loftFrames := rfl
@[simp] theorem State.setTile_retired (s : State) (t : TileId) (x : Tile) : (s.setTile t x).retired = s.retired := rfl
@[simp] theorem State.setTile_latentUE (s : State) (t : TileId) (x : Tile) : (s.setTile t x).latentUE = s.latentUE := rfl
@[simp] theorem State.setTile_calls (s : State) (t : TileId) (x : Tile) : (s.setTile t x).calls = s.calls := rfl
@[simp] theorem State.setTile_transfer (s : State) (t : TileId) (x : Tile) : (s.setTile t x).transfer = s.transfer := rfl
@[simp] theorem State.setTile_drover (s : State) (t : TileId) (x : Tile) : (s.setTile t x).drover = s.drover := rfl
@[simp] theorem State.setTile_ostler (s : State) (t : TileId) (x : Tile) : (s.setTile t x).ostler = s.ostler := rfl
@[simp] theorem State.setTile_power (s : State) (t : TileId) (x : Tile) : (s.setTile t x).power = s.power := rfl
@[simp] theorem State.setTile_factors (s : State) (t : TileId) (x : Tile) : (s.setTile t x).factors = s.factors := rfl
@[simp] theorem State.setTile_duty (s : State) (t : TileId) (x : Tile) : (s.setTile t x).duty = s.duty := rfl
@[simp] theorem State.setTile_tdis (s : State) (t : TileId) (x : Tile) : (s.setTile t x).tdis = s.tdis := rfl
@[simp] theorem State.setTile_msixTable (s : State) (t : TileId) (x : Tile) : (s.setTile t x).msixTable = s.msixTable := rfl
@[simp] theorem State.setTile_cxlPorts (s : State) (t : TileId) (x : Tile) : (s.setTile t x).cxlPorts = s.cxlPorts := rfl
@[simp] theorem State.setTile_errors (s : State) (t : TileId) (x : Tile) : (s.setTile t x).errors = s.errors := rfl
@[simp] theorem State.setTile_errRing (s : State) (t : TileId) (x : Tile) : (s.setTile t x).errRing = s.errRing := rfl
@[simp] theorem State.setTile_faultLog (s : State) (t : TileId) (x : Tile) : (s.setTile t x).faultLog = s.faultLog := rfl
@[simp] theorem State.setTile_answers (s : State) (t : TileId) (x : Tile) : (s.setTile t x).answers = s.answers := rfl

@[simp] theorem State.hartOf_setTile (s : State) (t : TileId) (x : Tile) (h : HartId) : (s.setTile t x).hartOf h = s.hartOf h := rfl
@[simp] theorem State.hart_setTile (s : State) (t : TileId) (x : Tile) : (s.setTile t x).hart = s.hart := rfl
@[simp] theorem State.tile_setHart (s : State) (h : HartId) (x : Hart) (t : TileId) : (s.setHart h x).tile t = s.tile t := rfl

/-! ## A gang is changed -/

@[simp] theorem State.modGang_agenda (s : State) (g : GangId) (f : Gang → Gang) : (s.modGang g f).agenda = s.agenda := rfl
@[simp] theorem State.modGang_focus (s : State) (g : GangId) (f : Gang → Gang) : (s.modGang g f).focus = s.focus := rfl
@[simp] theorem State.modGang_turns (s : State) (g : GangId) (f : Gang → Gang) : (s.modGang g f).turns = s.turns := rfl
@[simp] theorem State.modGang_tick (s : State) (g : GangId) (f : Gang → Gang) : (s.modGang g f).tick = s.tick := rfl
@[simp] theorem State.modGang_nextId (s : State) (g : GangId) (f : Gang → Gang) : (s.modGang g f).nextId = s.nextId := rfl
@[simp] theorem State.modGang_now (s : State) (g : GangId) (f : Gang → Gang) : (s.modGang g f).now = s.now := rfl
@[simp] theorem State.modGang_harts (s : State) (g : GangId) (f : Gang → Gang) : (s.modGang g f).harts = s.harts := rfl
@[simp] theorem State.modGang_tiles (s : State) (g : GangId) (f : Gang → Gang) : (s.modGang g f).tiles = s.tiles := rfl
@[simp] theorem State.modGang_mem (s : State) (g : GangId) (f : Gang → Gang) : (s.modGang g f).mem = s.mem := rfl
@[simp] theorem State.modGang_ops (s : State) (g : GangId) (f : Gang → Gang) : (s.modGang g f).ops = s.ops := rfl
@[simp] theorem State.modGang_msgs (s : State) (g : GangId) (f : Gang → Gang) : (s.modGang g f).msgs = s.msgs := rfl
@[simp] theorem State.modGang_tabs (s : State) (g : GangId) (f : Gang → Gang) : (s.modGang g f).tabs = s.tabs := rfl
@[simp] theorem State.modGang_queues (s : State) (g : GangId) (f : Gang → Gang) : (s.modGang g f).queues = s.queues := rfl
@[simp] theorem State.modGang_clusters (s : State) (g : GangId) (f : Gang → Gang) : (s.modGang g f).clusters = s.clusters := rfl
@[simp] theorem State.modGang_granules (s : State) (g : GangId) (f : Gang → Gang) : (s.modGang g f).granules = s.granules := rfl

@[simp] theorem State.gang_modGang_same (s : State) (g : GangId) (f : Gang → Gang) : (s.modGang g f).gang g = f (s.gang g) := findD_put_same ..
@[simp] theorem State.hart_modGang (s : State) (g : GangId) (f : Gang → Gang) : (s.modGang g f).hart = s.hart := rfl

/-! ## A queue is changed -/

@[simp] theorem State.modQueue_agenda (s : State) (q : BitVec 12) (f : Queue → Queue) : (s.modQueue q f).agenda = s.agenda := rfl
@[simp] theorem State.modQueue_focus (s : State) (q : BitVec 12) (f : Queue → Queue) : (s.modQueue q f).focus = s.focus := rfl
@[simp] theorem State.modQueue_turns (s : State) (q : BitVec 12) (f : Queue → Queue) : (s.modQueue q f).turns = s.turns := rfl
@[simp] theorem State.modQueue_tick (s : State) (q : BitVec 12) (f : Queue → Queue) : (s.modQueue q f).tick = s.tick := rfl
@[simp] theorem State.modQueue_nextId (s : State) (q : BitVec 12) (f : Queue → Queue) : (s.modQueue q f).nextId = s.nextId := rfl
@[simp] theorem State.modQueue_now (s : State) (q : BitVec 12) (f : Queue → Queue) : (s.modQueue q f).now = s.now := rfl
@[simp] theorem State.modQueue_harts (s : State) (q : BitVec 12) (f : Queue → Queue) : (s.modQueue q f).harts = s.harts := rfl
@[simp] theorem State.modQueue_tiles (s : State) (q : BitVec 12) (f : Queue → Queue) : (s.modQueue q f).tiles = s.tiles := rfl
@[simp] theorem State.modQueue_mem (s : State) (q : BitVec 12) (f : Queue → Queue) : (s.modQueue q f).mem = s.mem := rfl
@[simp] theorem State.modQueue_ops (s : State) (q : BitVec 12) (f : Queue → Queue) : (s.modQueue q f).ops = s.ops := rfl
@[simp] theorem State.modQueue_msgs (s : State) (q : BitVec 12) (f : Queue → Queue) : (s.modQueue q f).msgs = s.msgs := rfl
@[simp] theorem State.modQueue_tabs (s : State) (q : BitVec 12) (f : Queue → Queue) : (s.modQueue q f).tabs = s.tabs := rfl
@[simp] theorem State.modQueue_gangs (s : State) (q : BitVec 12) (f : Queue → Queue) : (s.modQueue q f).gangs = s.gangs := rfl
@[simp] theorem State.modQueue_clusters (s : State) (q : BitVec 12) (f : Queue → Queue) : (s.modQueue q f).clusters = s.clusters := rfl
@[simp] theorem State.modQueue_granules (s : State) (q : BitVec 12) (f : Queue → Queue) : (s.modQueue q f).granules = s.granules := rfl

@[simp] theorem State.queue_modQueue_same (s : State) (q : BitVec 12) (f : Queue → Queue) : (s.modQueue q f).queue q = f (s.queue q) := findD_put_same ..
@[simp] theorem State.hart_modQueue (s : State) (q : BitVec 12) (f : Queue → Queue) : (s.modQueue q f).hart = s.hart := rfl

/-! ## A cluster is changed -/

@[simp] theorem State.modCluster_agenda (s : State) (c : Nat) (f : Cluster → Cluster) : (s.modCluster c f).agenda = s.agenda := rfl
@[simp] theorem State.modCluster_focus (s : State) (c : Nat) (f : Cluster → Cluster) : (s.modCluster c f).focus = s.focus := rfl
@[simp] theorem State.modCluster_turns (s : State) (c : Nat) (f : Cluster → Cluster) : (s.modCluster c f).turns = s.turns := rfl
@[simp] theorem State.modCluster_tick (s : State) (c : Nat) (f : Cluster → Cluster) : (s.modCluster c f).tick = s.tick := rfl
@[simp] theorem State.modCluster_nextId (s : State) (c : Nat) (f : Cluster → Cluster) : (s.modCluster c f).nextId = s.nextId := rfl
@[simp] theorem State.modCluster_now (s : State) (c : Nat) (f : Cluster → Cluster) : (s.modCluster c f).now = s.now := rfl
@[simp] theorem State.modCluster_harts (s : State) (c : Nat) (f : Cluster → Cluster) : (s.modCluster c f).harts = s.harts := rfl
@[simp] theorem State.modCluster_tiles (s : State) (c : Nat) (f : Cluster → Cluster) : (s.modCluster c f).tiles = s.tiles := rfl
@[simp] theorem State.modCluster_mem (s : State) (c : Nat) (f : Cluster → Cluster) : (s.modCluster c f).mem = s.mem := rfl
@[simp] theorem State.modCluster_ops (s : State) (c : Nat) (f : Cluster → Cluster) : (s.modCluster c f).ops = s.ops := rfl
@[simp] theorem State.modCluster_msgs (s : State) (c : Nat) (f : Cluster → Cluster) : (s.modCluster c f).msgs = s.msgs := rfl
@[simp] theorem State.modCluster_tabs (s : State) (c : Nat) (f : Cluster → Cluster) : (s.modCluster c f).tabs = s.tabs := rfl
@[simp] theorem State.modCluster_gangs (s : State) (c : Nat) (f : Cluster → Cluster) : (s.modCluster c f).gangs = s.gangs := rfl
@[simp] theorem State.modCluster_queues (s : State) (c : Nat) (f : Cluster → Cluster) : (s.modCluster c f).queues = s.queues := rfl
@[simp] theorem State.modCluster_granules (s : State) (c : Nat) (f : Cluster → Cluster) : (s.modCluster c f).granules = s.granules := rfl

@[simp] theorem State.cluster_modCluster_same (s : State) (c : Nat) (f : Cluster → Cluster) : (s.modCluster c f).cluster c = f (s.cluster c) := findD_put_same ..
@[simp] theorem State.hart_modCluster (s : State) (c : Nat) (f : Cluster → Cluster) : (s.modCluster c f).hart = s.hart := rfl

/-! ## A g register is written -/

@[simp] theorem Hart.setG_pc (r : Reg) (v : Word) (h : Hart) : (h.setG r v).pc = h.pc := by unfold Hart.setG; split <;> rfl
@[simp] theorem Hart.setG_v (r : Reg) (v : Word) (h : Hart) : (h.setG r v).v = h.v := by unfold Hart.setG; split <;> rfl
@[simp] theorem Hart.setG_k (r : Reg) (v : Word) (h : Hart) : (h.setG r v).k = h.k := by unfold Hart.setG; split <;> rfl
@[simp] theorem Hart.setG_gFull (r : Reg) (v : Word) (h : Hart) : (h.setG r v).gFull = h.gFull := by unfold Hart.setG; split <;> rfl
@[simp] theorem Hart.setG_vFull (r : Reg) (v : Word) (h : Hart) : (h.setG r v).vFull = h.vFull := by unfold Hart.setG; split <;> rfl
@[simp] theorem Hart.setG_run (r : Reg) (v : Word) (h : Hart) : (h.setG r v).run = h.run := by unfold Hart.setG; split <;> rfl
@[simp] theorem Hart.setG_sy (r : Reg) (v : Word) (h : Hart) : (h.setG r v).sy = h.sy := by unfold Hart.setG; split <;> rfl
@[simp] theorem Hart.setG_rbufVa (r : Reg) (v : Word) (h : Hart) : (h.setG r v).rbufVa = h.rbufVa := by unfold Hart.setG; split <;> rfl
@[simp] theorem Hart.setG_rbufVal (r : Reg) (v : Word) (h : Hart) : (h.setG r v).rbufVal = h.rbufVal := by unfold Hart.setG; split <;> rfl
@[simp] theorem Hart.setG_more (r : Reg) (v : Word) (h : Hart) : (h.setG r v).more = h.more := by unfold Hart.setG; split <;> rfl
@[simp] theorem Hart.setG_parkDue (r : Reg) (v : Word) (h : Hart) : (h.setG r v).parkDue = h.parkDue := by unfold Hart.setG; split <;> rfl
@[simp] theorem Hart.setG_rpt (r : Reg) (v : Word) (h : Hart) : (h.setG r v).rpt = h.rpt := by unfold Hart.setG; split <;> rfl
@[simp] theorem Hart.setG_resume (r : Reg) (v : Word) (h : Hart) : (h.setG r v).resume = h.resume := by unfold Hart.setG; split <;> rfl
@[simp] theorem Hart.setG_rstack (r : Reg) (v : Word) (h : Hart) : (h.setG r v).rstack = h.rstack := by unfold Hart.setG; split <;> rfl
@[simp] theorem Hart.setG_liveSet (r : Reg) (v : Word) (h : Hart) : (h.setG r v).liveSet = h.liveSet := by unfold Hart.setG; split <;> rfl
@[simp] theorem Hart.setG_latch (r : Reg) (v : Word) (h : Hart) : (h.setG r v).latch = h.latch := by unfold Hart.setG; split <;> rfl
@[simp] theorem Hart.setG_wfeDue (r : Reg) (v : Word) (h : Hart) : (h.setG r v).wfeDue = h.wfeDue := by unfold Hart.setG; split <;> rfl
@[simp] theorem Hart.setG_irqs (r : Reg) (v : Word) (h : Hart) : (h.setG r v).irqs = h.irqs := by unfold Hart.setG; split <;> rfl
@[simp] theorem Hart.setG_posted (r : Reg) (v : Word) (h : Hart) : (h.setG r v).posted = h.posted := by unfold Hart.setG; split <;> rfl
@[simp] theorem Hart.setG_stepPend (r : Reg) (v : Word) (h : Hart) : (h.setG r v).stepPend = h.stepPend := by unfold Hart.setG; split <;> rfl
@[simp] theorem Hart.setG_vq (r : Reg) (v : Word) (h : Hart) : (h.setG r v).vq = h.vq := by unfold Hart.setG; split <;> rfl
@[simp] theorem Hart.setG_bars (r : Reg) (v : Word) (h : Hart) : (h.setG r v).bars = h.bars := by unfold Hart.setG; split <;> rfl
@[simp] theorem Hart.setG_ctx (r : Reg) (v : Word) (h : Hart) : (h.setG r v).ctx = h.ctx := by unfold Hart.setG; split <;> rfl
@[simp] theorem Hart.setG_slots (r : Reg) (v : Word) (h : Hart) : (h.setG r v).slots = h.slots := by unfold Hart.setG; split <;> rfl
@[simp] theorem Hart.setG_saved (r : Reg) (v : Word) (h : Hart) : (h.setG r v).saved = h.saved := by unfold Hart.setG; split <;> rfl
@[simp] theorem Hart.setG_mxq (r : Reg) (v : Word) (h : Hart) : (h.setG r v).mxq = h.mxq := by unfold Hart.setG; split <;> rfl
@[simp] theorem Hart.setG_mxErr (r : Reg) (v : Word) (h : Hart) : (h.setG r v).mxErr = h.mxErr := by unfold Hart.setG; split <;> rfl
@[simp] theorem Hart.setG_cps (r : Reg) (v : Word) (h : Hart) : (h.setG r v).cps = h.cps := by unfold Hart.setG; split <;> rfl
@[simp] theorem Hart.setG_holds (r : Reg) (v : Word) (h : Hart) : (h.setG r v).holds = h.holds := by unfold Hart.setG; split <;> rfl
@[simp] theorem Hart.setG_tlb (r : Reg) (v : Word) (h : Hart) : (h.setG r v).tlb = h.tlb := by unfold Hart.setG; split <;> rfl
@[simp] theorem Hart.setG_misses (r : Reg) (v : Word) (h : Hart) : (h.setG r v).misses = h.misses := by unfold Hart.setG; split <;> rfl
@[simp] theorem Hart.setG_ops (r : Reg) (v : Word) (h : Hart) : (h.setG r v).ops = h.ops := by unfold Hart.setG; split <;> rfl
@[simp] theorem Hart.setG_major (r : Reg) (v : Word) (h : Hart) : (h.setG r v).major = h.major := by unfold Hart.setG; split <;> rfl
@[simp] theorem Hart.setG_minor (r : Reg) (v : Word) (h : Hart) : (h.setG r v).minor = h.minor := by unfold Hart.setG; split <;> rfl
@[simp] theorem Hart.setG_stopped (r : Reg) (v : Word) (h : Hart) : (h.setG r v).stopped = h.stopped := by unfold Hart.setG; split <;> rfl
@[simp] theorem Hart.setG_stoppc (r : Reg) (v : Word) (h : Hart) : (h.setG r v).stoppc = h.stoppc := by unfold Hart.setG; split <;> rfl
@[simp] theorem Hart.setG_stoprpt (r : Reg) (v : Word) (h : Hart) : (h.setG r v).stoprpt = h.stoprpt := by unfold Hart.setG; split <;> rfl
@[simp] theorem Hart.setG_live (r : Reg) (v : Word) (h : Hart) : (h.setG r v).live = h.live := by unfold Hart.setG; split <;> rfl
@[simp] theorem Hart.setG_launch (r : Reg) (v : Word) (h : Hart) : (h.setG r v).launch = h.launch := by unfold Hart.setG; split <;> rfl
@[simp] theorem Hart.setG_feId (r : Reg) (v : Word) (h : Hart) : (h.setG r v).feId = h.feId := by unfold Hart.setG; split <;> rfl
@[simp] theorem Hart.setG_hostWrote (r : Reg) (v : Word) (h : Hart) : (h.setG r v).hostWrote = h.hostWrote := by unfold Hart.setG; split <;> rfl

/-! ## Other registers -/

@[simp] theorem Hart.setV_pc (r : Reg) (v : VWord) (h : Hart) : (h.setV r v).pc = h.pc := rfl
@[simp] theorem Hart.setV_g (r : Reg) (v : VWord) (h : Hart) : (h.setV r v).g = h.g := rfl
@[simp] theorem Hart.setV_k (r : Reg) (v : VWord) (h : Hart) : (h.setV r v).k = h.k := rfl
@[simp] theorem Hart.setV_gFull (r : Reg) (v : VWord) (h : Hart) : (h.setV r v).gFull = h.gFull := rfl
@[simp] theorem Hart.setV_vFull (r : Reg) (v : VWord) (h : Hart) : (h.setV r v).vFull = h.vFull := rfl
@[simp] theorem Hart.setV_run (r : Reg) (v : VWord) (h : Hart) : (h.setV r v).run = h.run := rfl
@[simp] theorem Hart.setV_sy (r : Reg) (v : VWord) (h : Hart) : (h.setV r v).sy = h.sy := rfl
@[simp] theorem Hart.setV_rbufVa (r : Reg) (v : VWord) (h : Hart) : (h.setV r v).rbufVa = h.rbufVa := rfl
@[simp] theorem Hart.setV_rbufVal (r : Reg) (v : VWord) (h : Hart) : (h.setV r v).rbufVal = h.rbufVal := rfl
@[simp] theorem Hart.setV_more (r : Reg) (v : VWord) (h : Hart) : (h.setV r v).more = h.more := rfl
@[simp] theorem Hart.setV_parkDue (r : Reg) (v : VWord) (h : Hart) : (h.setV r v).parkDue = h.parkDue := rfl
@[simp] theorem Hart.setV_rpt (r : Reg) (v : VWord) (h : Hart) : (h.setV r v).rpt = h.rpt := rfl
@[simp] theorem Hart.setV_resume (r : Reg) (v : VWord) (h : Hart) : (h.setV r v).resume = h.resume := rfl
@[simp] theorem Hart.setV_rstack (r : Reg) (v : VWord) (h : Hart) : (h.setV r v).rstack = h.rstack := rfl
@[simp] theorem Hart.setV_liveSet (r : Reg) (v : VWord) (h : Hart) : (h.setV r v).liveSet = h.liveSet := rfl
@[simp] theorem Hart.setV_latch (r : Reg) (v : VWord) (h : Hart) : (h.setV r v).latch = h.latch := rfl
@[simp] theorem Hart.setV_wfeDue (r : Reg) (v : VWord) (h : Hart) : (h.setV r v).wfeDue = h.wfeDue := rfl
@[simp] theorem Hart.setV_irqs (r : Reg) (v : VWord) (h : Hart) : (h.setV r v).irqs = h.irqs := rfl
@[simp] theorem Hart.setV_posted (r : Reg) (v : VWord) (h : Hart) : (h.setV r v).posted = h.posted := rfl
@[simp] theorem Hart.setV_stepPend (r : Reg) (v : VWord) (h : Hart) : (h.setV r v).stepPend = h.stepPend := rfl
@[simp] theorem Hart.setV_vq (r : Reg) (v : VWord) (h : Hart) : (h.setV r v).vq = h.vq := rfl
@[simp] theorem Hart.setV_bars (r : Reg) (v : VWord) (h : Hart) : (h.setV r v).bars = h.bars := rfl
@[simp] theorem Hart.setV_ctx (r : Reg) (v : VWord) (h : Hart) : (h.setV r v).ctx = h.ctx := rfl
@[simp] theorem Hart.setV_slots (r : Reg) (v : VWord) (h : Hart) : (h.setV r v).slots = h.slots := rfl
@[simp] theorem Hart.setV_saved (r : Reg) (v : VWord) (h : Hart) : (h.setV r v).saved = h.saved := rfl
@[simp] theorem Hart.setV_mxq (r : Reg) (v : VWord) (h : Hart) : (h.setV r v).mxq = h.mxq := rfl
@[simp] theorem Hart.setV_mxErr (r : Reg) (v : VWord) (h : Hart) : (h.setV r v).mxErr = h.mxErr := rfl
@[simp] theorem Hart.setV_cps (r : Reg) (v : VWord) (h : Hart) : (h.setV r v).cps = h.cps := rfl
@[simp] theorem Hart.setV_holds (r : Reg) (v : VWord) (h : Hart) : (h.setV r v).holds = h.holds := rfl
@[simp] theorem Hart.setV_tlb (r : Reg) (v : VWord) (h : Hart) : (h.setV r v).tlb = h.tlb := rfl
@[simp] theorem Hart.setV_misses (r : Reg) (v : VWord) (h : Hart) : (h.setV r v).misses = h.misses := rfl
@[simp] theorem Hart.setV_ops (r : Reg) (v : VWord) (h : Hart) : (h.setV r v).ops = h.ops := rfl
@[simp] theorem Hart.setV_major (r : Reg) (v : VWord) (h : Hart) : (h.setV r v).major = h.major := rfl
@[simp] theorem Hart.setV_minor (r : Reg) (v : VWord) (h : Hart) : (h.setV r v).minor = h.minor := rfl
@[simp] theorem Hart.setV_stopped (r : Reg) (v : VWord) (h : Hart) : (h.setV r v).stopped = h.stopped := rfl
@[simp] theorem Hart.setV_stoppc (r : Reg) (v : VWord) (h : Hart) : (h.setV r v).stoppc = h.stoppc := rfl
@[simp] theorem Hart.setV_stoprpt (r : Reg) (v : VWord) (h : Hart) : (h.setV r v).stoprpt = h.stoprpt := rfl
@[simp] theorem Hart.setV_live (r : Reg) (v : VWord) (h : Hart) : (h.setV r v).live = h.live := rfl
@[simp] theorem Hart.setV_launch (r : Reg) (v : VWord) (h : Hart) : (h.setV r v).launch = h.launch := rfl
@[simp] theorem Hart.setV_feId (r : Reg) (v : VWord) (h : Hart) : (h.setV r v).feId = h.feId := rfl
@[simp] theorem Hart.setV_hostWrote (r : Reg) (v : VWord) (h : Hart) : (h.setV r v).hostWrote = h.hostWrote := rfl

@[simp] theorem Hart.setK_pc (r : KReg) (v : Word) (h : Hart) : (h.setK r v).pc = h.pc := rfl
@[simp] theorem Hart.setK_g (r : KReg) (v : Word) (h : Hart) : (h.setK r v).g = h.g := rfl
@[simp] theorem Hart.setK_v (r : KReg) (v : Word) (h : Hart) : (h.setK r v).v = h.v := rfl
@[simp] theorem Hart.setK_gFull (r : KReg) (v : Word) (h : Hart) : (h.setK r v).gFull = h.gFull := rfl
@[simp] theorem Hart.setK_vFull (r : KReg) (v : Word) (h : Hart) : (h.setK r v).vFull = h.vFull := rfl
@[simp] theorem Hart.setK_run (r : KReg) (v : Word) (h : Hart) : (h.setK r v).run = h.run := rfl
@[simp] theorem Hart.setK_sy (r : KReg) (v : Word) (h : Hart) : (h.setK r v).sy = h.sy := rfl
@[simp] theorem Hart.setK_rbufVa (r : KReg) (v : Word) (h : Hart) : (h.setK r v).rbufVa = h.rbufVa := rfl
@[simp] theorem Hart.setK_rbufVal (r : KReg) (v : Word) (h : Hart) : (h.setK r v).rbufVal = h.rbufVal := rfl
@[simp] theorem Hart.setK_more (r : KReg) (v : Word) (h : Hart) : (h.setK r v).more = h.more := rfl
@[simp] theorem Hart.setK_parkDue (r : KReg) (v : Word) (h : Hart) : (h.setK r v).parkDue = h.parkDue := rfl
@[simp] theorem Hart.setK_rpt (r : KReg) (v : Word) (h : Hart) : (h.setK r v).rpt = h.rpt := rfl
@[simp] theorem Hart.setK_resume (r : KReg) (v : Word) (h : Hart) : (h.setK r v).resume = h.resume := rfl
@[simp] theorem Hart.setK_rstack (r : KReg) (v : Word) (h : Hart) : (h.setK r v).rstack = h.rstack := rfl
@[simp] theorem Hart.setK_liveSet (r : KReg) (v : Word) (h : Hart) : (h.setK r v).liveSet = h.liveSet := rfl
@[simp] theorem Hart.setK_latch (r : KReg) (v : Word) (h : Hart) : (h.setK r v).latch = h.latch := rfl
@[simp] theorem Hart.setK_wfeDue (r : KReg) (v : Word) (h : Hart) : (h.setK r v).wfeDue = h.wfeDue := rfl
@[simp] theorem Hart.setK_irqs (r : KReg) (v : Word) (h : Hart) : (h.setK r v).irqs = h.irqs := rfl
@[simp] theorem Hart.setK_posted (r : KReg) (v : Word) (h : Hart) : (h.setK r v).posted = h.posted := rfl
@[simp] theorem Hart.setK_stepPend (r : KReg) (v : Word) (h : Hart) : (h.setK r v).stepPend = h.stepPend := rfl
@[simp] theorem Hart.setK_vq (r : KReg) (v : Word) (h : Hart) : (h.setK r v).vq = h.vq := rfl
@[simp] theorem Hart.setK_bars (r : KReg) (v : Word) (h : Hart) : (h.setK r v).bars = h.bars := rfl
@[simp] theorem Hart.setK_ctx (r : KReg) (v : Word) (h : Hart) : (h.setK r v).ctx = h.ctx := rfl
@[simp] theorem Hart.setK_slots (r : KReg) (v : Word) (h : Hart) : (h.setK r v).slots = h.slots := rfl
@[simp] theorem Hart.setK_saved (r : KReg) (v : Word) (h : Hart) : (h.setK r v).saved = h.saved := rfl
@[simp] theorem Hart.setK_mxq (r : KReg) (v : Word) (h : Hart) : (h.setK r v).mxq = h.mxq := rfl
@[simp] theorem Hart.setK_mxErr (r : KReg) (v : Word) (h : Hart) : (h.setK r v).mxErr = h.mxErr := rfl
@[simp] theorem Hart.setK_cps (r : KReg) (v : Word) (h : Hart) : (h.setK r v).cps = h.cps := rfl
@[simp] theorem Hart.setK_holds (r : KReg) (v : Word) (h : Hart) : (h.setK r v).holds = h.holds := rfl
@[simp] theorem Hart.setK_tlb (r : KReg) (v : Word) (h : Hart) : (h.setK r v).tlb = h.tlb := rfl
@[simp] theorem Hart.setK_misses (r : KReg) (v : Word) (h : Hart) : (h.setK r v).misses = h.misses := rfl
@[simp] theorem Hart.setK_ops (r : KReg) (v : Word) (h : Hart) : (h.setK r v).ops = h.ops := rfl
@[simp] theorem Hart.setK_major (r : KReg) (v : Word) (h : Hart) : (h.setK r v).major = h.major := rfl
@[simp] theorem Hart.setK_minor (r : KReg) (v : Word) (h : Hart) : (h.setK r v).minor = h.minor := rfl
@[simp] theorem Hart.setK_stopped (r : KReg) (v : Word) (h : Hart) : (h.setK r v).stopped = h.stopped := rfl
@[simp] theorem Hart.setK_stoppc (r : KReg) (v : Word) (h : Hart) : (h.setK r v).stoppc = h.stoppc := rfl
@[simp] theorem Hart.setK_stoprpt (r : KReg) (v : Word) (h : Hart) : (h.setK r v).stoprpt = h.stoprpt := rfl
@[simp] theorem Hart.setK_live (r : KReg) (v : Word) (h : Hart) : (h.setK r v).live = h.live := rfl
@[simp] theorem Hart.setK_launch (r : KReg) (v : Word) (h : Hart) : (h.setK r v).launch = h.launch := rfl
@[simp] theorem Hart.setK_feId (r : KReg) (v : Word) (h : Hart) : (h.setK r v).feId = h.feId := rfl
@[simp] theorem Hart.setK_hostWrote (r : KReg) (v : Word) (h : Hart) : (h.setK r v).hostWrote = h.hostWrote := rfl

@[simp] theorem Hart.modSy_pc (f : Sys → Sys) (h : Hart) : (h.modSy f).pc = h.pc := rfl
@[simp] theorem Hart.modSy_g (f : Sys → Sys) (h : Hart) : (h.modSy f).g = h.g := rfl
@[simp] theorem Hart.modSy_v (f : Sys → Sys) (h : Hart) : (h.modSy f).v = h.v := rfl
@[simp] theorem Hart.modSy_k (f : Sys → Sys) (h : Hart) : (h.modSy f).k = h.k := rfl
@[simp] theorem Hart.modSy_gFull (f : Sys → Sys) (h : Hart) : (h.modSy f).gFull = h.gFull := rfl
@[simp] theorem Hart.modSy_vFull (f : Sys → Sys) (h : Hart) : (h.modSy f).vFull = h.vFull := rfl
@[simp] theorem Hart.modSy_run (f : Sys → Sys) (h : Hart) : (h.modSy f).run = h.run := rfl
@[simp] theorem Hart.modSy_rbufVa (f : Sys → Sys) (h : Hart) : (h.modSy f).rbufVa = h.rbufVa := rfl
@[simp] theorem Hart.modSy_rbufVal (f : Sys → Sys) (h : Hart) : (h.modSy f).rbufVal = h.rbufVal := rfl
@[simp] theorem Hart.modSy_more (f : Sys → Sys) (h : Hart) : (h.modSy f).more = h.more := rfl
@[simp] theorem Hart.modSy_parkDue (f : Sys → Sys) (h : Hart) : (h.modSy f).parkDue = h.parkDue := rfl
@[simp] theorem Hart.modSy_rpt (f : Sys → Sys) (h : Hart) : (h.modSy f).rpt = h.rpt := rfl
@[simp] theorem Hart.modSy_resume (f : Sys → Sys) (h : Hart) : (h.modSy f).resume = h.resume := rfl
@[simp] theorem Hart.modSy_rstack (f : Sys → Sys) (h : Hart) : (h.modSy f).rstack = h.rstack := rfl
@[simp] theorem Hart.modSy_liveSet (f : Sys → Sys) (h : Hart) : (h.modSy f).liveSet = h.liveSet := rfl
@[simp] theorem Hart.modSy_latch (f : Sys → Sys) (h : Hart) : (h.modSy f).latch = h.latch := rfl
@[simp] theorem Hart.modSy_wfeDue (f : Sys → Sys) (h : Hart) : (h.modSy f).wfeDue = h.wfeDue := rfl
@[simp] theorem Hart.modSy_irqs (f : Sys → Sys) (h : Hart) : (h.modSy f).irqs = h.irqs := rfl
@[simp] theorem Hart.modSy_posted (f : Sys → Sys) (h : Hart) : (h.modSy f).posted = h.posted := rfl
@[simp] theorem Hart.modSy_stepPend (f : Sys → Sys) (h : Hart) : (h.modSy f).stepPend = h.stepPend := rfl
@[simp] theorem Hart.modSy_vq (f : Sys → Sys) (h : Hart) : (h.modSy f).vq = h.vq := rfl
@[simp] theorem Hart.modSy_bars (f : Sys → Sys) (h : Hart) : (h.modSy f).bars = h.bars := rfl
@[simp] theorem Hart.modSy_ctx (f : Sys → Sys) (h : Hart) : (h.modSy f).ctx = h.ctx := rfl
@[simp] theorem Hart.modSy_slots (f : Sys → Sys) (h : Hart) : (h.modSy f).slots = h.slots := rfl
@[simp] theorem Hart.modSy_saved (f : Sys → Sys) (h : Hart) : (h.modSy f).saved = h.saved := rfl
@[simp] theorem Hart.modSy_mxq (f : Sys → Sys) (h : Hart) : (h.modSy f).mxq = h.mxq := rfl
@[simp] theorem Hart.modSy_mxErr (f : Sys → Sys) (h : Hart) : (h.modSy f).mxErr = h.mxErr := rfl
@[simp] theorem Hart.modSy_cps (f : Sys → Sys) (h : Hart) : (h.modSy f).cps = h.cps := rfl
@[simp] theorem Hart.modSy_holds (f : Sys → Sys) (h : Hart) : (h.modSy f).holds = h.holds := rfl
@[simp] theorem Hart.modSy_tlb (f : Sys → Sys) (h : Hart) : (h.modSy f).tlb = h.tlb := rfl
@[simp] theorem Hart.modSy_misses (f : Sys → Sys) (h : Hart) : (h.modSy f).misses = h.misses := rfl
@[simp] theorem Hart.modSy_ops (f : Sys → Sys) (h : Hart) : (h.modSy f).ops = h.ops := rfl
@[simp] theorem Hart.modSy_major (f : Sys → Sys) (h : Hart) : (h.modSy f).major = h.major := rfl
@[simp] theorem Hart.modSy_minor (f : Sys → Sys) (h : Hart) : (h.modSy f).minor = h.minor := rfl
@[simp] theorem Hart.modSy_stopped (f : Sys → Sys) (h : Hart) : (h.modSy f).stopped = h.stopped := rfl
@[simp] theorem Hart.modSy_stoppc (f : Sys → Sys) (h : Hart) : (h.modSy f).stoppc = h.stoppc := rfl
@[simp] theorem Hart.modSy_stoprpt (f : Sys → Sys) (h : Hart) : (h.modSy f).stoprpt = h.stoprpt := rfl
@[simp] theorem Hart.modSy_live (f : Sys → Sys) (h : Hart) : (h.modSy f).live = h.live := rfl
@[simp] theorem Hart.modSy_launch (f : Sys → Sys) (h : Hart) : (h.modSy f).launch = h.launch := rfl
@[simp] theorem Hart.modSy_feId (f : Sys → Sys) (h : Hart) : (h.modSy f).feId = h.feId := rfl
@[simp] theorem Hart.modSy_hostWrote (f : Sys → Sys) (h : Hart) : (h.modSy f).hostWrote = h.hostWrote := rfl

@[simp] theorem Hart.modSy_sy (f : Sys → Sys) (h : Hart) : (h.modSy f).sy = f h.sy := rfl

/-! ## Reading registers (R210) -/

@[simp] theorem Hart.gr_zero (h : Hart) : h.gr 0#5 = 0#64 := if_pos rfl

@[simp] theorem Hart.setG_zero (v : Word) (h : Hart) : h.setG 0#5 v = h := if_pos rfl

/-- What a write to a register other than g0 does. -/
theorem Hart.setG_of_ne (d : Reg) (v : Word) (h : Hart) (n : d ≠ 0) : h.setG d v = { h with g := h.g.setIfInBounds d.toNat v } :=
  if_neg n

/-- What a read of a register other than g0 answers. -/
theorem Hart.gr_of_ne (r : Reg) (h : Hart) (n : r ≠ 0) : h.gr r = h.g.getD r.toNat 0 := if_neg n

/-- What every g register holds after a write. -/
theorem Hart.gr_setG (d r : Reg) (v : Word) (h : Hart) : (h.setG d v).gr r = if r = d ∧ d ≠ 0 then v else h.gr r := by
  by_cases hd : d = 0
  · rw [if_neg fun q => q.2 hd, hd]; rfl
  · rw [Hart.setG_of_ne d v h hd]
    by_cases h0 : r = 0
    · rw [if_neg (show ¬(r = d ∧ d ≠ 0) from fun q => hd (q.1.symm.trans h0)), h0]; rfl
    · rw [Hart.gr_of_ne r _ h0, Hart.gr_of_ne r _ h0]
      by_cases e : r = d
      · have lt : d.toNat < 32 := d.isLt
        rw [if_pos ⟨e, hd⟩, e]; simp [Vector.getD, lt]
      · have ne : d.toNat ≠ r.toNat := fun q => e (BitVec.eq_of_toNat_eq q.symm)
        rw [if_neg fun q => e q.1]; simp [Vector.getD, ne]

theorem Hart.gr_setG_same (d : Reg) (v : Word) (h : Hart) (n : d ≠ 0) : (h.setG d v).gr d = v := by
  rw [Hart.gr_setG, if_pos ⟨rfl, n⟩]

theorem Hart.gr_setG_other (d r : Reg) (v : Word) (h : Hart) (n : r ≠ d) : (h.setG d v).gr r = h.gr r := by
  rw [Hart.gr_setG, if_neg fun q => n q.1]

theorem Hart.vr_setV (d r : Reg) (v : VWord) (h : Hart) : (h.setV d v).vr r = if r = d then v else h.vr r := by
  have hd : d.toNat < 32 := d.isLt
  by_cases e : r = d
  · subst e; simp [Hart.vr, Hart.setV, Vector.getD, hd]
  · have hr : d.toNat ≠ r.toNat := fun q => e (BitVec.eq_of_toNat_eq q.symm)
    simp [Hart.vr, Hart.setV, Vector.getD, hr, e]

theorem Hart.kr_setK (d r : KReg) (v : Word) (h : Hart) : (h.setK d v).kr r = if r = d then v else h.kr r := by
  have hd : d.toNat < 8 := d.isLt
  by_cases e : r = d
  · subst e; simp [Hart.kr, Hart.setK, Vector.getD, hd]
  · have hr : d.toNat ≠ r.toNat := fun q => e (BitVec.eq_of_toNat_eq q.symm)
    simp [Hart.kr, Hart.setK, Vector.getD, hr, e]

@[simp] theorem Hart.gr_modSy (f : Sys → Sys) (h : Hart) (r : Reg) : (h.modSy f).gr r = h.gr r := rfl
@[simp] theorem Hart.vr_modSy (f : Sys → Sys) (h : Hart) (r : Reg) : (h.modSy f).vr r = h.vr r := rfl
@[simp] theorem Hart.kr_modSy (f : Sys → Sys) (h : Hart) (r : KReg) : (h.modSy f).kr r = h.kr r := rfl
@[simp] theorem Hart.vr_setG (d : Reg) (v : Word) (h : Hart) (r : Reg) : (h.setG d v).vr r = h.vr r := by simp [Hart.vr]
@[simp] theorem Hart.kr_setG (d : Reg) (v : Word) (h : Hart) (r : KReg) : (h.setG d v).kr r = h.kr r := by simp [Hart.kr]
@[simp] theorem Hart.gr_setV (d : Reg) (v : VWord) (h : Hart) (r : Reg) : (h.setV d v).gr r = h.gr r := rfl
@[simp] theorem Hart.kr_setV (d : Reg) (v : VWord) (h : Hart) (r : KReg) : (h.setV d v).kr r = h.kr r := rfl
@[simp] theorem Hart.gr_setK (d : KReg) (v : Word) (h : Hart) (r : Reg) : (h.setK d v).gr r = h.gr r := rfl
@[simp] theorem Hart.vr_setK (d : KReg) (v : Word) (h : Hart) (r : Reg) : (h.setK d v).vr r = h.vr r := rfl

end Sys2Proof.Machine
end

