-- ==== Sys2Proof/Laws/Retire.lean ====
section
/-!
SUPPORT. What the shared operations at issue do: the register checks, a trap, a wait, and the end of an instruction.
-/

namespace Sys2Proof.Machine

/-! ## Register checks (R78, R213, R257) -/

theorem Hart.ready_iff {h : Hart} {rs : List RegRef} :
    h.ready rs = true ↔ ∀ r ∈ rs, h.full r.1 r.2 = true ∧ h.vqPending r.1 r.2 = false := by
  simp [Hart.ready, List.all_eq_true]

/-- Ready registers are ready in any part. -/
theorem Hart.ready_mono {h : Hart} {rs ws : List RegRef} (hr : h.ready rs = true) (m : ∀ x ∈ ws, x ∈ rs) : h.ready ws = true :=
  Hart.ready_iff.2 fun x hx => Hart.ready_iff.1 hr x (m x hx)

/-- Registers that are ready pass the checks. -/
theorem regCheck_of_ready {h : Hart} {rs ws : List RegRef} (w : Bool) (hr : h.ready (rs ++ ws) = true) : regCheck rs ws w h = .ok := by
  have f := Hart.ready_iff.1 hr
  unfold regCheck
  rw [List.find?_eq_none.2 fun x hx => by simp [(f x (by simp [hx])).1],
    List.find?_eq_none.2 fun x hx => by simp [(f x (by simp [hx])).1]]
  simp only
  rw [if_neg]
  simp only [Bool.not_eq_true, List.any_eq_false]
  intro x hx; simp [(f x hx).2]

/-- With its registers ready an instruction goes on. -/
theorem withRegs_of_ready {rs ws : List RegRef} (w : Bool) {s : State} {k : Out} (hr : s.hart.ready (rs ++ ws) = true) :
    withRegs rs ws w s k = k := by
  simp [withRegs, guarded, regCheck_of_ready w hr]

/-- An instruction that answers a next state through its register checks went on, or waits at issue, or trapped. -/
theorem withRegs_cases {rs ws : List RegRef} {w : Bool} {s : State} {k : Out} :
    withRegs rs ws w s k = k ∨ withRegs rs ws w s k = waitAt s ∨ ∃ t, regCheck rs ws w s.hart = .trap t ∧ withRegs rs ws w s k = trap t s := by
  unfold withRegs
  cases h : regCheck rs ws w s.hart with
  | ok => exact .inl rfl
  | wait => exact .inr (.inl rfl)
  | trap t => exact .inr (.inr ⟨t, rfl, rfl⟩)

/-! ## The end of an instruction (R218, R219, R364) -/

@[simp] theorem Hart.stepMark_g (h was : Hart) (pa : Bool) : (h.stepMark was pa).g = h.g := by unfold Hart.stepMark; split <;> rfl
@[simp] theorem Hart.stepMark_v (h was : Hart) (pa : Bool) : (h.stepMark was pa).v = h.v := by unfold Hart.stepMark; split <;> rfl
@[simp] theorem Hart.stepMark_k (h was : Hart) (pa : Bool) : (h.stepMark was pa).k = h.k := by unfold Hart.stepMark; split <;> rfl
@[simp] theorem Hart.stepMark_pc (h was : Hart) (pa : Bool) : (h.stepMark was pa).pc = h.pc := by unfold Hart.stepMark; split <;> rfl
@[simp] theorem Hart.stepMark_run (h was : Hart) (pa : Bool) : (h.stepMark was pa).run = h.run := by unfold Hart.stepMark; split <;> rfl
@[simp] theorem Hart.stepMark_sy (h was : Hart) (pa : Bool) : (h.stepMark was pa).sy = h.sy := by unfold Hart.stepMark; split <;> rfl
@[simp] theorem Hart.advance_g (h : Hart) : h.advance.g = h.g := by unfold Hart.advance; (repeat' split) <;> rfl
@[simp] theorem Hart.advance_v (h : Hart) : h.advance.v = h.v := by unfold Hart.advance; (repeat' split) <;> rfl
@[simp] theorem Hart.advance_k (h : Hart) : h.advance.k = h.k := by unfold Hart.advance; (repeat' split) <;> rfl
@[simp] theorem Hart.advance_run (h : Hart) : h.advance.run = .running := by unfold Hart.advance; (repeat' split) <;> rfl
@[simp] theorem Hart.stepMark_rpt (h was : Hart) (pa : Bool) : (h.stepMark was pa).rpt = h.rpt := by unfold Hart.stepMark; split <;> rfl
theorem Hart.advance_pc (h : Hart) (n : h.rpt = none) : h.advance.pc = h.pc + 4 := by simp [Hart.advance, n]

/-- Stepping marks nothing but the STEP trap to come. -/
theorem Hart.stepMark_same (h was : Hart) (pa : Bool) : h.stepMark was pa = { h with stepPend := (h.stepMark was pa).stepPend } := by
  unfold Hart.stepMark; split <;> rfl

/-- The end of an instruction changes nothing else of the hart. -/
theorem Hart.advance_same (h : Hart) : SameButG h h.advance := by
  unfold SameButG Hart.advance; (repeat' split) <;> rfl

theorem SameButG.trans {x y z : Hart} (h : SameButG x y) (k : SameButG y z) : SameButG x z := by
  unfold SameButG at *; rw [k, h]

theorem SameButG.refl (x : Hart) : SameButG x x := rfl

theorem SameButG.setG (d : Reg) (v : Word) (x : Hart) : SameButG x (x.setG d v) := by
  unfold SameButG Hart.setG; split <;> rfl

theorem SameButG.stepMark (h was : Hart) (pa : Bool) : SameButG h (h.stepMark was pa) := by
  unfold SameButG Hart.stepMark; split <;> rfl

/-- The end of an instruction goes on to the next word, or to the next captured execution. -/
theorem Hart.advance_next (h : Hart) : NextWord h h.advance := by
  unfold NextWord NextExecution Hart.advance
  refine ⟨fun n => by simp [n], fun r e => ?_⟩
  simp only [e]
  refine ⟨fun p => by simp [p], fun p q => by simp [Nat.not_lt.2 p, q], fun p q => ?_⟩
  simp [Nat.not_lt.2 p, Nat.not_lt.2 q, setBits, Hart.modSy]

/-- Where the hart goes on rests on the program counter, the repeat and SY.RPTSTATE alone. -/
theorem NextWord.congr {x x' y y' : Hart} (h : NextWord x y) (a : x'.pc = x.pc) (b : x'.rpt = x.rpt) (c : y'.pc = y.pc)
    (d : y'.rpt = y.rpt) (e : y'.sy = y.sy) : NextWord x' y' := by
  unfold NextWord NextExecution at *; rw [a, b, c, d, e]; exact h

/-- A completed instruction, on the hart in focus. -/
theorem retire_eq (s : State) : retire s = s.setHart s.focus (s.hart.advance.stepMark s.hart false) := rfl

@[simp] theorem retire_hart (s : State) : (retire s).hart = s.hart.advance.stepMark s.hart false := by
  rw [retire_eq]; exact findD_put_same ..

@[simp] theorem retire_mem (s : State) : (retire s).mem = s.mem := rfl

@[simp] theorem State.hart_mod (s : State) (f : Hart → Hart) : (s.mod f).hart = f s.hart := findD_put_same ..

/-- A change of the hart in focus and the end of its instruction change nothing else of the machine. -/
theorem OnlyHart.retire_mod (s : State) (f : Hart → Hart) : OnlyHart s (retire (s.mod f)) := by
  unfold OnlyHart
  rw [retire_eq, State.hart_mod]
  show _ = s.setHart s.focus ((s.mod f).setHart s.focus _).hart
  rw [show ((s.mod f).setHart s.focus ((f s.hart).advance.stepMark (f s.hart) false)).hart
    = (f s.hart).advance.stepMark (f s.hart) false from findD_put_same ..]
  exact State.setHart_setHart ..

/-- What writing a scalar result does. -/
theorem writeG_effect (s : State) (d : Reg) (v : Word) :
    WritesG d v s.hart (writeG d v s).hart ∧ NextWord s.hart (writeG d v s).hart ∧ SameButG s.hart (writeG d v s).hart ∧
      OnlyHart s (writeG d v s) ∧ SameMemory s (writeG d v s) := by
  have e : (writeG d v s).hart = (s.hart.setG d v).advance.stepMark (s.hart.setG d v) false := by
    rw [writeG, retire_hart, State.hart_mod]
  refine ⟨fun r => ?_, ?_, ?_, OnlyHart.retire_mod .., fun a => ⟨rfl, rfl⟩⟩
  · rw [e, ← Hart.gr_setG]; simp [Hart.gr]
  · exact (Hart.advance_next (s.hart.setG d v)).congr (by simp) (by simp) (by simp [e]) (by simp [e]) (by simp [e])
  · rw [e]; exact ((SameButG.setG d v _).trans (Hart.advance_same _)).trans (SameButG.stepMark ..)

/-! ## Traps -/

theorem trap_eq (t : Posted) (s : State) : trap t s = .next (s.takeTrap s.focus t s.hart.pc) := rfl

end Sys2Proof.Machine
end

