-- ==== Sys2Proof/Tests/Slice0.lean ====
section
/-!
SUPPORT. The model's own tests: ill-formed terms that WellFormed refuses, words written out bit by bit from the encodings of
spec/07, one step of some instructions on small states with results worked out by hand from the rule that each test names, and for
each statement with hypotheses concrete states and operands that meet them, clause by clause.
-/

set_option linter.constructorNameAsVariable false
set_option Elab.async false

namespace Sys2Proof.Tests
open Sys2Proof Sys2Proof.Machine

/-! ## Small states -/

/-- A tile and a hart of a tableau with one gang of two tiles. -/
def tl : TileId := ⟨1, 0⟩
def h0 : HartId := ⟨tl, 0⟩
def gg : GangId := ⟨1, 0, 0⟩

def args : TblArgs :=
  { stages := 1, gangs := 1, tiles := 2, sliceMax := 4194304, carrier := 4096, nlog := 10, pdead := 40000, sets := [],
    loopEntry := 0x20000, share := [{ x0 := 0, y0 := 0, x1 := 3, y1 := 3 }], root := 0x10000, parkVa := 0x400000, parkDpa := 0x400000 }

def tableau : Tableau :=
  { args := args, shape := some (2, 1), alive := true, queueOnly := false, groups := [], state := [], keys := [(0, [])], peers := [],
    xlate := [], wakes := [], lastPrio := 0, parkbase := 0x40000A, mapBase := 0x700000, xts := (1, 2) }

/-- The first hart of a resident gang runs. -/
def base : State :=
  { State.reset with
    focus := h0, tabs := [(1, tableau)]
    tiles := [(tl, { Tile.reset with entry := { MapEntry.reset with st := .resident } }),
              (⟨1, 1⟩, { Tile.reset with entry := { MapEntry.reset with st := .resident, ptile := 1 } })]
    gangs := [(gg, { Gang.reset with st := .resident, sched := .running, placed := true })]
    harts := [(h0, { Hart.reset with pc := 0x10000, run := .running, live := true })] }

/-- The state with its hart in focus changed. -/
def on (f : Hart → Hart) : State := base.mod f
def g (r : Reg) (v : Word) : Hart → Hart := Hart.setG r v
def vr (r : Reg) (v : VWord) : Hart → Hart := Hart.setV r v
def sy (f : Sys → Sys) (h : Hart) : Hart := { h with sy := f h.sy }
/-- MODE and the other bits of SY.STATUS. -/
def status (w : Word) : Hart → Hart := sy fun y => { y with status := w }
/-- An address in the own slice through the alias. -/
def own (off : Nat) : Word := BitVec.ofNat 64 (0x1F00000000000000 + off)

/-- The hart in focus after an instruction, and what a function of it and of the state after holds. -/
def after {α : Type} (f : State → α) (i : Instr) (s : State) : Option α :=
  match exec i s with
  | .next t => some (f t)
  | _ => none
/-- The value of the oldest vector operation that the hart in focus has queued. -/
def queued (t : State) : Nat := match t.hart.vq with
  | o :: _ => o.val.toNat
  | [] => 0
def gAfter (r : Reg) : Instr → State → Option Word := after fun t => t.hart.gr r

/-- A trap's cause as the supervisor handler of a hart in S mode reads it. -/
def trapsWith (i : Instr) (s : State) : Option Word := after (fun t => t.hart.sy.scause) i s
/-- The base state in S mode with a supervisor handler. -/
def sup (f : Hart → Hart) : State := (on f).mod fun h => { h with sy := { h.sy with status := 1, stvec := 0x30001 } }

/-! ## Ill-formed terms: one for each check of WellFormed -/

theorem test_wf_ld : (Instr.ld 1 2 true .d .h .rel 0).wf = false := by decide
theorem test_wf_lds_ord : (Instr.lds 1 2 true .w .h .acq 0).wf = false := by decide
theorem test_wf_lds_d : (Instr.lds 1 2 true .d .h .none 0).wf = false := by decide
theorem test_wf_st : (Instr.st 1 2 true .d .h .acq 0).wf = false := by decide
theorem test_wf_ldWait : (Instr.ldWait 1 2 true .h .rel 0).wf = false := by decide
theorem test_wf_ldTake : (Instr.ldTake 1 2 true .h .rel 0).wf = false := by decide
theorem test_wf_stFill : (Instr.stFill 1 2 true .h .acq 0).wf = false := by decide
theorem test_wf_stEmpty : (Instr.stEmpty 1 2 true .h .ar 0).wf = false := by decide
theorem test_wf_ship : (Instr.ship 1 2 3 true 0 .h .none).wf = false := by decide
theorem test_wf_logic : ([Instr.vand 1 2 3 true 0 .f32, .vor 1 2 3 true 0 .f16, .vxor 1 2 3 true 0 .f64, .vshl 1 2 3 true 0 .bf16,
    .vshr 1 2 3 true 0 .f32, .vsar 1 2 3 true 0 .f32].all fun i => !i.wf) = true := by decide
theorem test_wf_vsel : (Instr.vsel 1 2 3 true 0 .f32).wf = false := by decide
theorem test_wf_vcvt : (Instr.vcvt 1 2 0x0D true 0 .f32 false).wf = false ∧ (Instr.vcvt 1 2 0x1C true 0 .f32 false).wf = false := by decide
theorem test_wf_trans : ([Instr.vexp2 1 2 true 0 .f64, .vrcp 1 2 true 0 .si32, .vrsq 1 2 true 0 .ui8, .vsig 1 2 true 0 .f64].all
    fun i => !i.wf) = true := by decide
theorem test_wf_vld : (Instr.vld 1 2 true 0 .h .ar .w 0).wf = false := by decide
theorem test_wf_vst : (Instr.vst 1 2 true 0 .h .acq .w 0).wf = false := by decide
theorem test_wf_vldTake : (Instr.vldTake 1 2 true .h .rel 0).wf = false := by decide
theorem test_wf_vstFill : (Instr.vstFill 1 2 true .h .acq 0).wf = false := by decide
theorem test_wf_gather : (Instr.vgath 1 2 3 true 0 .si16).wf = false ∧ (Instr.vscat 1 2 3 true 0 .f16).wf = false := by decide
theorem test_wf_msg : (Instr.msgSend 1 2 true .acq .w).wf = false ∧ (Instr.msgRecv 1 2 .rel .w).wf = false := by decide
theorem test_wf_fillv : (Instr.cpFillv 1 2 3 true 4 1 .w).wf = false := by decide
theorem test_wf_event : (Instr.tblKill 1).wf = false ∧ encode (.tblKill 1) = none := by decide

/-! ## Words written out from the layouts of R205 and the tables of R206 to R208, one family at a time -/

theorem test_decode_alu : decode 0b000000_00011_00001_00010_1_0000000010 = .ok (.sub 3 1 2 true) := by rfl
theorem test_decode_imm : decode 0b000001_00101_00110_0_111111111111111 = .ok (.addi 5 6 false 0x7FFF) := by rfl
theorem test_decode_nop : decode 0x04008000 = .ok (.addi 0 0 true 0) := by rfl
theorem test_decode_lih : decode 0b001001_00111_000000000000000000001 = .ok (.lih 7 1) := by rfl
theorem test_decode_ext : decode 0b001011_00010_00011_1_000_001000_000011 = .ok (.ext 2 3 true 8 3) := by rfl
theorem test_decode_branch : decode 0b010010_00001_00010_1_000000000000100 = .ok (.blt 1 2 true 4) := by rfl
theorem test_decode_jump : decode 0b010110_1_1111111111111111111111111 = .ok (.call 0x1FFFFFF) := by rfl
theorem test_decode_jr : decode 0b010111_00000_01001_00000_1_0000000001 = .ok (.callr 9 true) := by rfl
theorem test_decode_ld : decode 0b011000_00001_00010_1_10_011_01_11111111 = .ok (.ld 1 2 true .w .w .acq 0xFF) := by rfl
theorem test_decode_take : decode 0b011011_00100_00101_1_01_010_00_00000010 = .ok (.ldTake 4 5 true .c .none 2) := by rfl
theorem test_decode_park : decode 0b011100_00000_00000_0_10_000_00_00000000 = .ok .park := by rfl
theorem test_decode_amo : decode 0b011101_00001_00010_00011_1_1_001_10_1011 = .ok (.amoCas 1 2 3 true true .t .rel) := by rfl
theorem test_decode_ship : decode 0x786A2458 = .ok (.ship 3 10 4 true 5 .w .none) := by rfl
theorem test_decode_fence : decode 0x7C00000F = .ok (.fence .sc .w) ∧ decode 0x7C000000 = .ok (.fence .acq .h) := by exact ⟨rfl, rfl⟩
theorem test_decode_vfma : decode 0x8061153F = .ok (.vfma 3 1 2 true 2 .f32) := by rfl
theorem test_decode_vcvt : decode 0x90A49439 = .ok (.vcvt 5 4 0x12 true 0 .f32 true) := by rfl
theorem test_decode_vrand : decode 0x9CC11400 = .ok (.vrand 6 1 2 true) := by rfl
theorem test_decode_kop : decode 0b101000_00001_00010_00000_0_000_0000_100 = .ok (.kopNot 1 2) := by rfl
theorem test_decode_vmem : decode 0xA4258641 = .ok (.vld 1 5 true 0 .w .none .w 1) ∧ decode 0xA8468640 = .ok (.vst 2 6 true 0 .w .none .w 0) := by
  exact ⟨rfl, rfl⟩
theorem test_decode_send : decode 0b110000_00000_00001_00010_1_10_011_00000 = .ok (.msgSend 1 2 true .rel .w) := by rfl
theorem test_decode_bar : decode 0b110010_00000_00000_00000_0_0101_000_001 = .ok (.barArr 5) := by rfl
theorem test_decode_copy : decode 0b110100_00001_00010_00011_1_00100_01_011 = .ok (.cpCopy 1 2 3 true 4 1 .w) := by rfl
theorem test_decode_system : decode 0xF8000001 = .ok .tret ∧ decode 0xF8000005 = .ok .yield ∧ decode 0xF8000007 = .ok .halt ∧
    decode 0xF8000110 = .ok (.trap 17) ∧ decode 0xF800000C = .ok (.brk 0) := by exact ⟨rfl, rfl, rfl, rfl, rfl⟩
theorem test_decode_sy : decode 0xF8400103 = .ok (.syr 2 0x010) ∧ decode 0xF8058104 = .ok (.syw 5 true 0x010) := by exact ⟨rfl, rfl⟩
theorem test_decode_rpt : decode 0b111111_0011_00000101_01_10_11_00000000 = .ok (.rpt 3 5 1 2 3) := by rfl
theorem test_decode_reserved : decode 0 = .error .encoding ∧ decode 0xFFFFFFFF = .error .encoding := by exact ⟨rfl, rfl⟩
theorem test_decode_qualifier : decode 0b011000_00001_00010_1_10_011_10_00000000 = .error .qualifier := by rfl
/-- Bytes are read little-endian (R6). -/
theorem test_decode_bytes : decodeBytes [0x01, 0x00, 0x00, 0xF8, 0x07] = some (.ok .tret, [0x07]) := by rfl
theorem test_table_word : decodeTableWord 32 0xF8000001 = some .tret := by rfl
/-- The first step after reset runs a placed TRAP 17: with no handler the hart halts and the kill of its tableau is asked for (R357). -/
theorem test_first_step : (match step (State.reset.withFetchWord 32 0xF8000110) with
    | .next t => t.agenda == [.tblKill 0]
    | _ => false) = true := by decide

/-! ## One step on a small state -/

theorem test_add_wraps : gAfter 3 (.add 3 1 2 true) (on (g 1 0xFFFFFFFFFFFFFFFF ∘ g 2 2)) = some 1 := by decide +kernel
theorem test_add_g0 : gAfter 0 (.add 0 1 2 true) (on (g 1 5 ∘ g 2 2)) = some 0 := by decide +kernel
theorem test_sub_same : gAfter 1 (.sub 1 1 2 true) (on (g 1 0 ∘ g 2 1)) = some 0xFFFFFFFFFFFFFFFF := by decide +kernel
theorem test_sar : gAfter 3 (.sar 3 1 2 true) (on (g 1 0x8000000000000000 ∘ g 2 65)) = some 0xC000000000000000 := by decide +kernel
theorem test_mulhis : gAfter 3 (.mulhis 3 1 2 true) (on (g 1 (-1) ∘ g 2 1)) = some (-1) := by decide +kernel
/-- The table of R230. -/
theorem test_div : ([((7 : Word), (2 : Word)), (-7, 2), (7, -2), (5, 0), (0x8000000000000000, -1)].map fun p =>
      [gAfter 3 (.div 3 1 2 true) (on (g 1 p.1 ∘ g 2 p.2)), gAfter 3 (.rem 3 1 2 true) (on (g 1 p.1 ∘ g 2 p.2)),
       gAfter 3 (.divs 3 1 2 true) (on (g 1 p.1 ∘ g 2 p.2)), gAfter 3 (.rems 3 1 2 true) (on (g 1 p.1 ∘ g 2 p.2))]) =
    [[some 3, some 1, some 3, some 1], [some 0x7FFFFFFFFFFFFFFC, some 1, some (-3), some (-1)], [some 0, some 7, some (-3), some 1],
     [some (-1), some 5, some (-1), some 5], [some 0, some 0x8000000000000000, some 0x8000000000000000, some 0]] := by decide +kernel
theorem test_sel : gAfter 3 (.sel 3 1 2 true) (on (g 1 7 ∘ g 2 8 ∘ g 3 0)) = some 8 := by decide +kernel
theorem test_bswap : gAfter 3 (.bswap 3 1 true) (on (g 1 0x0102030405060708)) = some 0x0807060504030201 := by decide +kernel
theorem test_addi : gAfter 3 (.addi 3 1 true 0x4000) (on (g 1 0)) = some 0xFFFFFFFFFFFFC000 := by decide +kernel
theorem test_ori : gAfter 3 (.ori 3 1 true 0x4000) (on (g 1 0)) = some 0x4000 := by decide +kernel
theorem test_lih : gAfter 3 (.lih 3 0x100000) base = some 0xFFFFFFFF80000000 := by decide +kernel
/-- The examples of R233. -/
theorem test_ext : gAfter 2 (.ext 2 3 true 8 3) (on (g 3 0xA5C3)) = some 5 := by decide +kernel
theorem test_ins : gAfter 2 (.ins 2 3 true 60 3) (on (g 3 9 ∘ g 2 1)) = some 0x9000000000000001 := by decide +kernel
theorem test_blts : after (·.hart.pc) (.blts 1 2 true 0x7FFF) (on (g 1 (-1))) = some 0xFFFC := by decide +kernel
theorem test_call : after (fun t => (t.hart.pc, t.hart.rstack)) (.call 4) base = some (0x10010, [0x10004]) := by decide +kernel
theorem test_callr_align : trapsWith (.callr 1 true) (sup (g 1 2)) = some 3 := by decide +kernel
theorem test_ret_empty : after (fun t => (t.hart.sy.scause, t.hart.sy.seinfo)) .ret (sup id) = some (1, 0x23) := by decide +kernel
theorem test_empty_reg : after (fun t => (t.hart.sy.scause, t.hart.sy.seinfo)) (.add 3 1 2 false)
    (sup fun h => { h with gFull := 0xFFFFFFF9 }) = some (6, 1) := by decide +kernel
theorem test_waits : after (fun t => (t.hart.run, t.hart.pc)) (.add 3 1 2 true) (on fun h => { h with gFull := 0xFFFFFFFB }) =
    some (.blocked, 0x10000) := by decide +kernel
/-- The example of R241: LDS.H of 0xF080 at offset 0x40. -/
def slice40 : State := (on (g 9 (own 0x40))).writeNat (.slice tl 0x40) 8 0xF080
theorem test_lds : gAfter 2 (.lds 2 9 true .h .h .none 0) slice40 = some 0xFFFFFFFFFFFFF080 := by decide +kernel
theorem test_ld : gAfter 2 (.ld 2 9 true .b .h .none 1) slice40 = some 0xF0 := by decide +kernel
theorem test_st : after (fun t => (t.readNat (.slice tl 0x40) 8, t.tagOf (.slice tl 0x40))) (.st 3 9 true .h .h .none 1)
    ((slice40.mod (g 3 0x123456)).setTag (.slice tl 0x40) .empty) = some (0x3456F080, .full) := by decide +kernel
theorem test_st_poison : after (fun t => (t.readNat (.slice tl 0x40) 8, t.tagOf (.slice tl 0x40))) (.st 3 9 true .h .h .none 1)
    ((slice40.mod (g 3 0x123456)).setTag (.slice tl 0x40) .poison) = some (0xF080, .poison) := by decide +kernel
theorem test_tag_set : after (fun t => (t.readNat (.slice tl 0x40) 8, t.tagOf (.slice tl 0x40))) (.tagSet 0 9 true 0) slice40 =
    some (0xF080, .empty) := by decide +kernel
theorem test_cas : after (fun t => (t.readNat (.slice tl 0x40) 8, t.hart.gr 4)) (.amoCas 4 9 5 true false .h .none)
    (slice40.mod (g 4 0xF080 ∘ g 5 7)) = some (7, 0xF080) := by decide +kernel
theorem test_ld_null : after (fun t => (t.hart.sy.scause, t.hart.sy.sfaddr)) (.ld 2 9 true .d .h .none 0) (sup (g 9 0x4000000000000000)) =
    some (4, 0x4000000000000000) := by decide +kernel
/-- The FIPS 197 example of R267. -/
theorem test_vrand : after (fun t => natBytes 16 (queued t)) (.vrand 6 1 2 true)
    (on (vr 1 0x0F0E0D0C0B0A09080706050403020100 ∘ vr 2 0xFFEEDDCCBBAA99887766554433221100)) =
    some [0x69, 0xC4, 0xE0, 0xD8, 0x6A, 0x7B, 0x04, 0x30, 0xD8, 0xCD, 0xB7, 0x80, 0x70, 0xB4, 0xC5, 0x5A] := by decide +kernel
/-- Integer lanes wrap, and a lane whose mask bit is clear keeps the destination (R259, R261). -/
theorem test_vadd : after (fun t => queued t % 2 ^ 24) (.vadd 3 1 2 true 1 .ui8)
    (on (vr 1 0x0102FF ∘ vr 2 0x010102 ∘ vr 3 0xAABBCC ∘ Hart.setK 1 5)) = some 0x02BB01 := by decide +kernel
/-- The four lanes of R264: 0.3, 500, -2^-20 and NaN to E4M3 with SAT, at NM = 0 and NM = 1. -/
def cvtLanes : VWord := 0x7FC00000B580000043FA00003E99999A
theorem test_vcvt : after (fun t => queued t) (.vcvt 5 4 0x12 true 0 .f32 true) (on (vr 4 cvtLanes)) =
    some 0x7F807E2A := by decide +kernel
theorem test_vcvt_nm : after (fun t => queued t) (.vcvt 5 4 0x12 true 0 .f32 true)
    (on (vr 4 cvtLanes ∘ status 0x800000)) = some 0x00807F2A := by decide +kernel
theorem test_trap : after (fun t => (t.hart.sy.scause, t.hart.sy.seinfo, t.hart.sy.sepc, t.hart.pc)) (.trap 17) (sup id) =
    some (0x11, 17, 0x10004, 0x30000) := by decide +kernel
theorem test_brk : after (fun t => (t.hart.sy.scause, t.hart.sy.sepc)) (.brk 5) (sup id) = some (0x10, 0x10000) := by decide +kernel
theorem test_trap_user : after (fun t => (t.hart.sy.cause, t.hart.sy.epc, t.hart.pc, t.hart.sy.status)) (.trap 1)
    (on (sy fun y => { y with utvec := 0x50001 })) = some (0x11, 0x10004, 0x50000, 4) := by decide +kernel
/-- TRET of the supervisor handler restores MODE, SIE and STEP (R357). -/
theorem test_tret : after (fun t => (t.hart.sy.status, t.hart.pc)) .tret
    (on (sy fun y => { y with status := 0x421, sepc := 0x777000 })) = some (0x530, 0x777000) := by decide +kernel
theorem test_tret_user : trapsWith .tret (on (sy fun y => { y with status := 0, stvec := 0x30001 })) = some 0x8000000000000001 := by decide +kernel
theorem test_syr_caps : gAfter 2 (.syr 2 0x23) base = some 0x10100 := by decide +kernel
theorem test_syw_retry : after (·.hart.sy.retry) (.syw 5 true 0x10) (on (g 5 0xFFF0000000000003)) = some 0x80100003 := by decide +kernel
theorem test_syw_priv : trapsWith (.syw 5 true 0x23) (sup id) = some 2 := by decide +kernel
theorem test_wfe : after (fun t => (t.hart.run, t.hart.wfeDue)) (.wfe 1 true) (on (g 1 10)) = some (.sleeping, some 10) := by decide +kernel
theorem test_esc_mode : trapsWith .esc (sup id) = some 1 := by decide +kernel
theorem test_msg_cnt : gAfter 3 (.msgCnt 3) base = some 0 := by decide +kernel
theorem test_bar_member : after (fun t => (t.hart.sy.scause, t.hart.sy.seinfo)) (.barArr 3) (sup id) = some (1, 0x28) := by decide +kernel
theorem test_acc_owner : after (fun t => (t.hart.sy.scause, t.hart.sy.seinfo)) (.mxZero 5) (sup id) = some (0xD, 5) := by decide +kernel
theorem test_own : after (fun t => (t.hart.gr 3, (t.slotAt { cluster := 0, slot := 0, gen := 1 }).st)) (.mxOwn 3 5) base =
    some (0x10000, .owned) := by decide +kernel
/-- The schedule of R63: with BUDGET 3, BASE 8 and CAP 32 the attempts stand 8, 16 and 32 cycles apart. -/
theorem test_schedule : (List.range 3).map (fun k => interval (8, 32, 3) (k + 1)) = [8, 16, 32] := by decide +kernel

/-! ## The hypotheses of the statements are met, clause by clause -/

theorem witness_ScalarTwoSourceForms : base.hart.ready [gRef 3, gRef 1, gRef 2] = true ∧ base.hart.ready [gRef 0, gRef 31, gRef 31] = true := by
  decide +kernel
theorem witness_ScalarOneSourceForms : base.hart.ready [gRef 3, gRef 1] = true ∧ (60 : BitVec 6).toNat + ((3 : BitVec 6).toNat + 1) ≤ 64 ∧
    (0 : BitVec 6).toNat + ((63 : BitVec 6).toNat + 1) ≤ 64 := by decide +kernel
theorem witness_DivideForms : base.hart.ready [gRef 3, gRef 1, gRef 2] = true := by decide +kernel
theorem witness_BitCountForms : (0 : Word) = 0 ∧ (0x8000000000000000 : Word) ≠ 0 ∧ (1 : Word) ≠ 0 := by decide
theorem witness_RegisterChecks : Instr.add ∈ twoSourceForms ∧
    (on fun h => { h with gFull := 0xFFFFFFFD }).hart.full .g 1 = false ∧
    ((on fun h => { h with gFull := 0x7FFFFFFF }).hart.full .g 1 = true ∧ (on fun h => { h with gFull := 0x7FFFFFFF }).hart.full .g 31 = false) ∧
    ((on fun h => { h with gFull := 0xFFFFFFF7 }).hart.full .g 1 = true ∧ (on fun h => { h with gFull := 0xFFFFFFF7 }).hart.full .g 2 = true ∧
      (on fun h => { h with gFull := 0xFFFFFFF7 }).hart.full .g 3 = false) := by
  exact ⟨List.mem_cons_self, by decide +kernel⟩
theorem witness_RegisterChecks_others : (∃ f, f ∈ oneSourceForms 0x7FFF 63) ∧ (∃ p, p ∈ branches) ∧
    (60 : BitVec 6).toNat + ((3 : BitVec 6).toNat + 1) ≤ 64 ∧
    ((on fun h => { h with gFull := 0xFFFFFFFD }).hart.full .g 1 = false ∧ (on fun h => { h with gFull := 0xFFFFFFFD }).hart.rstack.length < 16) ∧
    ((on fun h => { h with gFull := 0xFFFFFFFB }).hart.full .g 1 = true ∧ (on fun h => { h with gFull := 0xFFFFFFFB }).hart.full .g 2 = false) ∧
    ((on fun h => { h with gFull := 0x7FFFFFFF }).hart.full .g 1 = true ∧ (on fun h => { h with gFull := 0x7FFFFFFF }).hart.full .g 2 = true ∧
      (on fun h => { h with gFull := 0x7FFFFFFF }).hart.full .g 31 = false) := by
  exact ⟨⟨_, List.mem_cons_self⟩, ⟨_, List.mem_cons_self⟩, by decide +kernel⟩
theorem witness_Branches : (∃ p ∈ branches, p.2 ((on (g 1 (-1))).hart.gr 1) 0 ∧ ¬p.2 ((on (g 1 0)).hart.gr 1) ((on (g 1 0)).hart.gr 2)) ∧
    (on (g 1 0)).hart.ready [gRef 1, gRef 2] = true ∧ base.hart.rpt = none := by
  exact ⟨⟨(.blts, fun x y => x.toInt < y.toInt), by simp [branches], by decide +kernel, by decide +kernel⟩, by decide +kernel, rfl⟩
/-- A return stack with n entries, and DEPTH spilled ones. -/
def stacked (n depth : Nat) : State :=
  on fun h => { h with rstack := (List.range n).map (BitVec.ofNat 64 ·), sy := { h.sy with rspill := BitVec.ofNat 64 (2 ^ 48 * depth) } }
theorem witness_Jumps : (stacked 15 0).hart.rstack.length < 16 ∧ (stacked 1 0).hart.rstack = [] ++ [0] ∧
    ((on (g 1 0xFFFFFFFFFFFFFFFC)).hart.ready [gRef 1] = true ∧ ((on (g 1 0xFFFFFFFFFFFFFFFC)).hart.gr 1).toNat % 4 = 0) ∧
    ((on (g 1 3)).hart.ready [gRef 1] = true ∧ ((on (g 1 3)).hart.gr 1).toNat % 4 ≠ 0 ∧ (on (g 1 3)).hart.rstack.length < 16) ∧
    ((stacked 0 0).hart.rstack = [] ∧ bits (stacked 0 0).hart.sy.rspill 48 16 = 0) ∧
    (16 ≤ (stacked 16 65535).hart.rstack.length ∧ bits (stacked 16 65535).hart.sy.rspill 48 16 = 65535) := by decide +kernel
/-- A hart with SY.STATUS, SY.UTVEC and SY.STVEC. -/
def vectors (w u v : Word) : State := on (sy fun y => { y with status := w, utvec := u, stvec := v })
theorem witness_UserTrapEntry :
    let x := ((vectors 0 0x50001 0).hartOf h0)
    bits x.sy.status 0 2 = 0 ∧ x.sy.status.getLsbD 2 = false ∧ (0x11 : Nat) ≠ 0x13 ∧ x.sy.utvec.getLsbD 0 = true ∧
      (((vectors 0 0x50001 0).takeTrap h0 { cause := 0x11, info := 0, addr := none } 4).hartOf h0).sy.rptstate.getLsbD 63 = false ∧
      h0 = (vectors 0 0x50001 0).focus := by decide +kernel
/-- Harts that a trap takes out of a repeat at work, out of one still to be resumed, and out of none. -/
def repeating (n : Nat) : State := (vectors 0 0x50001 0x60001).mod fun h => { h with
  rpt := if n == 0 then some { body := 0x10000, words := [0], n1 := 0, count := 8, pass := 2, pos := 0, sd := 3, sa := 0, sb := 1 } else none
  resume := if n == 1 then some 0x8000000200020000 else none }
theorem witness_TrapEntry_repeats : (let x := (repeating 0).hartOf h0
      x.rpt.isSome = true ∧ bits x.sy.status 0 2 = 0 ∧ x.sy.utvec.getLsbD 0 = true) ∧
    (∀ n ∈ [1, 2], let x := (repeating n).hartOf h0
     x.rpt = none ∧ x.resume.isSome = (n == 1) ∧ bits x.sy.status 0 2 = 0 ∧ x.sy.stvec.getLsbD 0 = true) := by decide +kernel
theorem witness_SupervisorTrapEntry : (∀ w ∈ [1, 4], let x := (vectors (BitVec.ofNat 64 w) 0x50001 0x60001).hartOf h0
      bits x.sy.status 0 2 ≠ 3 ∧ (bits x.sy.status 0 2 ≠ 0 ∨ x.sy.status.getLsbD 2 = true ∨ (0 : Nat) = 0x13) ∧ x.sy.stvec.getLsbD 0 = true) ∧
    (let x := (vectors 0 0 0x60001).hartOf h0
     bits x.sy.status 0 2 ≠ 3 ∧ (0x13 : Nat) < 256 ∧ x.sy.stvec.getLsbD 0 = true) := by decide +kernel
theorem witness_EscalatedTrapEntry : (let x := (vectors 0 0 0x60001).hartOf h0
      bits x.sy.status 0 2 = 0 ∧ x.sy.status.getLsbD 2 = false ∧ (1 : Nat) ≠ 0x13 ∧ x.sy.utvec.getLsbD 0 = false ∧ x.sy.stvec.getLsbD 0 = true) ∧
    (∀ w ∈ [0, 1, 4], let x := (vectors (BitVec.ofNat 64 w) 0 0).hartOf h0
      bits x.sy.status 0 2 ≠ 3 ∧ x.sy.stvec.getLsbD 0 = false ∧
      (bits x.sy.status 0 2 ≠ 0 ∨ x.sy.status.getLsbD 2 = true ∨ x.sy.utvec.getLsbD 0 = false)) := by decide +kernel
theorem witness_TrapAndBrk : (let x := (vectors 0 0x50001 0).hart
      bits x.sy.status 0 2 = 0 ∧ x.sy.status.getLsbD 2 = false ∧ x.sy.utvec.getLsbD 0 = true) ∧
    (let x := (vectors 1 0 0x60001).hart
     bits x.sy.status 0 2 = 1 ∧ x.sy.status.getLsbD 2 = false ∧ x.sy.stvec.getLsbD 0 = true) := by decide +kernel
theorem witness_EscForms : (bits (vectors 0 0 0x60001).hart.sy.status 0 2 = 0 ∧ (vectors 0 0 0x60001).hart.sy.stvec.getLsbD 0 = true) ∧
    (bits (vectors 4 0 0).hart.sy.status 0 2 = 0 ∧ (vectors 4 0 0).hart.sy.stvec.getLsbD 0 = false) ∧
    bits (vectors 3 0 0).hart.sy.status 0 2 ≠ 0 := by decide +kernel
theorem witness_TretForms : (∀ w ∈ [0, 4, 1], let x := (vectors (BitVec.ofNat 64 w) 0 0).hart
      ¬(x.sy.rptstate.getLsbD 63 = true ∧ (bits x.sy.rptstate 14 8 ≤ bits x.sy.rptstate 32 8 ∨ bits x.sy.rptstate 22 4 < bits x.sy.rptstate 28 4))) ∧
    (bits (vectors 4 0 0).hart.sy.status 0 2 = 0 ∧ (vectors 4 0 0).hart.sy.status.getLsbD 2 = true) ∧ bits (vectors 1 0 0).hart.sy.status 0 2 = 1 ∧
    (bits (vectors 0 0 0).hart.sy.status 0 2 = 0 ∧ (vectors 0 0 0).hart.sy.status.getLsbD 2 = false) ∧
    (let w := (on (sy fun y => { y with status := 1, rptstate := 0x8000000100004000 })).hart.sy.rptstate
     w.getLsbD 63 = true ∧ bits w 14 8 ≤ bits w 32 8) := by decide +kernel
theorem witness_SyrForms : (base.hart.ready [gRef 2] = true ∧ (0x00 : BitVec 11).toNat ∈ systemRegisters ∧ (0x51 : BitVec 11).toNat ∈ systemRegisters) ∧
    mayRead (bits base.hart.sy.status 0 2) 0x51 ∧ ¬mayRead (bits base.hart.sy.status 0 2) 0x0C ∧ (0x7FF : BitVec 11).toNat ∉ systemRegisters := by
  unfold mayRead; decide +kernel
theorem witness_SywForms : (base.hart.ready [gRef 2] = true ∧ (0x00 : BitVec 11).toNat ∈ systemRegisters) ∧
    mayWrite (bits base.hart.sy.status 0 2) 0 ∧ mayWrite (bits (status 1 base.hart).sy.status 0 2) 0x41 ∧ base.hart.rpt = none ∧
    readBack 0xFFFFFFFFFFFFFFFF 0x01 = some 0xC0000000000000FF ∧ (0x0D : BitVec 11).toNat ∉ systemRegisters ∧ NoParkRecord base := by
  unfold mayWrite readOnly NoParkRecord; exact ⟨by decide, by decide, by decide, rfl, by decide, by decide, by decide +kernel⟩
theorem witness_SywForms_priv : ¬mayWrite (bits base.hart.sy.status 0 2) 0x41 ∧ ¬mayWrite (bits (status 1 base.hart).sy.status 0 2) 0x23 := by
  exact ⟨fun h => absurd (h.2 (by decide)).2.2 (by decide), fun h => h.1 (by unfold readOnly; decide)⟩
theorem witness_CapsRegister : base.hart.ready [gRef 2] = true := by decide +kernel
theorem witness_YieldAndWfe : base.hart.sy.preq.getLsbD 0 = false ∧
    (let x := (on (sy fun y => { y with preq := 1 })).hart
     x.sy.preq.getLsbD 0 = true ∧ x.posted = [] ∧ x.stepPend = none ∧ x.irqs = [] ∧ x.sy.status.getLsbD 8 = false ∧ x.rpt = none) ∧
    base.hart.ready [gRef 1] = true ∧ base.hart.latch = false ∧ (on fun h => { h with latch := true }).hart.latch = true := by decide +kernel
theorem witness_HaltForms : Settled base.hart ∧ (base.tile base.focus.tile).recordFor base.focus.num = none ∧
    NoParkRecord base ∧
    (let h := (on fun h => { h with gFull := 0x7FFFFFFF, sy := { h.sy with ferec := 0x883E000000000000 } }).hart
     Settled (h.setFull .g h.feReg true) ∧ h.feReg = 31 ∧ h.feV = true ∧ h.feKind = 1) ∧
    (let h := (on fun h => { h with gFull := 0x7FFFFFFF, sy := { h.sy with ferec := 0x803E000000000000 } }).hart
     Settled (h.setFull .g h.feReg true) ∧ h.feV = true ∧ h.feKind = 0) ∧
    (let h := (on fun h => { h with vFull := 0x7FFFFFFF, sy := { h.sy with ferec := 0x983E000000000000 } }).hart
     Settled (h.setFull .v h.feReg true) ∧ h.feReg = 31 ∧ h.feV = true ∧ h.feKind = 3) ∧
    (base.hart.feV = false ∧ (on fun h => { h with gFull := 0x7FFFFFFF }).hart.gFull ≠ 0xFFFFFFFF) := by
  unfold Settled NoParkRecord; decide +kernel
/-- A hart in S mode with an operand in g1. -/
def kinds (m x : Word) : State := on (g 1 x ∘ status m)
theorem witness_MaintenanceForms : ((kinds 1 0).hart.ready [gRef 1] = true ∧ (kinds 1 0).unwritten base.focus none = false) ∧
    (bits (kinds 1 0).hart.sy.status 0 2 ≠ 0 ∧ bits ((kinds 1 0).hart.gr 1) 0 3 = 0) ∧
    bits ((kinds 1 1).hart.gr 1) 0 3 = 1 ∧ (kinds 1 0).unwritten base.focus (some 0) = false ∧
    (3 < bits ((kinds 1 4).hart.gr 1) 0 3 ∧ 2 < bits ((kinds 1 3).hart.gr 1) 0 3 ∧ 1 < bits ((kinds 1 2).hart.gr 1) 0 3) ∧
    (bits (kinds 0 3).hart.sy.status 0 2 = 0 ∧ bits ((kinds 0 3).hart.gr 1) 0 3 ≤ 3 ∧ bits ((kinds 0 2).hart.gr 1) 0 3 = 2) := by decide +kernel
def invMsg (tlb : Bool) (k : Nat) : InvMsg := { id := 7, tile := tl, tlb := tlb, kind := k, addr := 0, src := h0, acked := false }
theorem witness_RemoteInvalidation : (∀ m ∈ [invMsg true 3, invMsg false 2], (({ base with invs := [m] } : State).invs.find?
      (fun q => q.id == m.id)) = some m ∧ m.acked = false) ∧ ((invMsg true 3).tlb = true ∧ (invMsg true 3).kind = 3) ∧
    (invMsg false 2).tlb = false := by decide +kernel
/-- The word at an offset of the own slice has a tag, and g9 and v1 name it. -/
def word (off : Nat) (x : Tag) : State := (on (g 9 (own off))).setTag (.slice tl off) x
theorem witness_OwnSliceLoads : (word 0x3FFFF8 .parked).hart.ready [gRef 2, gRef 9] = true ∧ Unheld (word 0x3FFFF8 .parked) ∧
    OwnBytes ((word 0x3FFFF8 .parked).hart.gr 9 + (0 : BitVec 8).signExtend 64 * BitVec.ofNat 64 (Size.bytes .d)) 0x3FFFF8 8 ∧
    OwnBytes ((word 0x3FFFF8 .parked).hart.gr 9 + (7 : BitVec 8).signExtend 64 * BitVec.ofNat 64 (Size.bytes .b)) 0x3FFFFF 1 ∧
    (word 0x3FFFF8 .parked).tagOf ((word 0x3FFFF8 .parked).ownHome 0x3FFFFF) ≠ .poison ∧
    (word 0x3FFFF8 .poison).tagOf ((word 0x3FFFF8 .poison).ownHome 0x3FFFF8) = .poison := by
  unfold Unheld OwnBytes; decide +kernel
theorem witness_OwnSliceStores : (word 0 .empty).mem.wf = true ∧ Unheld (word 0 .empty) ∧
    OwnBytes ((word 0 .empty).hart.gr 9 + (0 : BitVec 8).signExtend 64 * BitVec.ofNat 64 (Size.bytes .w)) 0 4 ∧
    (word 0 .empty).tagOf ((word 0 .empty).ownHome 0) ≠ .poison ∧
    (Size.w ≠ .d ∧ (word 0 .poison).tagOf ((word 0 .poison).ownHome 0) = .poison) := by
  unfold Unheld OwnBytes; decide +kernel
theorem witness_OwnSliceTags : (word 0x3FFF00 .parked).mem.wf = true ∧ (word 0x3FFF00 .parked).hart.ready [gRef 2, gRef 9] = true ∧
    Unheld (word 0x3FFF00 .parked) ∧ OwnBytes ((word 0x3FFF00 .parked).hart.gr 9 + (0 : BitVec 8).signExtend 64 * 8) 0x3FFF00 8 ∧
    (bits ((word 0x3FFF00 .parked).hart.gr 2) 4 6 = 0 ∧ bits ((word 0x3FFF00 .parked).hart.gr 2) 0 2 = 0 ∧
      bits (((word 0 .full).mod (g 2 1)).hart.gr 2) 0 2 = 1 ∧ bits (((word 0 .full).mod (g 2 3)).hart.gr 2) 0 2 = 3) ∧
    ((word 0x3FFF00 .parked).hart.gr 9 + (0 : BitVec 8).signExtend 64 * 8).toNat = 0x1F00000000000000 + 0x3FFF00 ∧ 0x3FFF00 + 256 ≤ 2 ^ 22 := by
  unfold Unheld OwnBytes; decide +kernel
theorem witness_OperandTraps : 64 < (1 : BitVec 6).toNat + ((63 : BitVec 6).toNat + 1) ∧ (on (g 2 2)).hart.ready [gRef 2, gRef 9] = true ∧
    bits ((on (g 2 2)).hart.gr 2) 0 2 = 2 := by decide +kernel
theorem witness_OwnSliceAtomics_poison : Unheld (word 0 .poison) ∧ OwnBytes ((word 0 .poison).hart.gr 9) 0 4 ∧
    (word 0 .poison).mem.wf = true ∧ (word 0 .poison).tagOf ((word 0 .poison).ownHome 0) = .poison := by
  unfold Unheld OwnBytes; decide +kernel
theorem witness_OwnSliceAtomics : (∃ f ∈ amoForms, f.2 = .cas) ∧ (word 0x3FFFF8 .empty).mem.wf = true ∧
    (word 0x3FFFF8 .empty).hart.ready [gRef 2, gRef 9, gRef 3] = true ∧ Unheld (word 0x3FFFF8 .empty) ∧
    OwnBytes ((word 0x3FFFF8 .empty).hart.gr 9) 0x3FFFF8 8 ∧ OwnBytes ((word 0x3FFFF8 .empty).hart.gr 9) 0x3FFFF8 4 ∧
    (word 0x3FFFF8 .empty).tagOf ((word 0x3FFFF8 .empty).ownHome 0x3FFFF8) ≠ .poison := by
  refine ⟨⟨(.amoCas, .cas), by simp [amoForms], rfl⟩, ?_⟩
  · unfold Unheld OwnBytes; decide +kernel

/-- The page of VA 0x20_0000 maps page 5 of HBM, whose frame is frame 0 of stack 5; g1 names its last words. -/
def leaf : Word := 0x5003F
def page : TlbEntry := { root := 0, base := 0x200000, bits := 16, leaf := leaf }
def mapped : State := { on (g 1 0x20FFC0 ∘ fun h => { h with tlb := [page] }) with
  dpit := [(5, { pin := false, valid := true, frame := 0, stk := 5, exported := false })], routines := [(63, [0x1F00000001])] }
/-- What sends an access (the hypotheses of SendsAccess). -/
def sends (a : Acc) (s : State) : Bool := match accCheck s s.focus a with
  | .ok ps => s.hart.holds == [] && !s.blocked s.focus a ps && (!a.atOnce || match a.kind with | .fe _ => true | _ => false) && ps.all fun p => match p.home with | .dev _ => false | _ => true
  | _ => false
def completes (i : Instr) (s : State) : Bool := match exec i s with | .next _ => true | _ => false
/-- The mapped page as the memory of a return stack with n entries held: DEPTH d, and the next spill word at an address. -/
def spilled (n d va : Nat) : State := mapped.mod fun h =>
  { h with rstack := (List.range n).map (BitVec.ofNat 64 ·), sy := { h.sy with rspill := BitVec.ofNat 64 (2 ^ 48 * d + va) } }
/-- The refill load of that stack, on a route. -/
def refilling (d va : Nat) (r : Route) : State := { spilled 0 d va with
  ops := [{ id := 9, hart := h0, kind := .load 8 false, rel := false, dest := none, val := 0x10040, x := 0x10000, y := BitVec.ofNat 64 (va - 64),
            parts := [{ home := .hbm 0x5FFC0, va := BitVec.ofNat 64 (va - 64), reads := [{ off := 0, pos := 0, len := 8 }], writes := [], route := r }],
            sched := (0, 0, 0), who := [] }] }
/-- The spill store that a CALL would make, and the refill load of a RET. -/
def spillOf (s : State) : Acc := plainStore (spillAddr (bits s.hart.sy.rspill 3 45)) (s.hart.rstack.headD 0)
def refillOf (s : State) : Acc := plainLoad (spillAddr (bits s.hart.sy.rspill 3 45 + (2 ^ 45 - 8))) s.hart.pc
def blockedBy (a : Acc) (s : State) : Bool := match accCheck s s.focus a with
  | .ok ps => s.blocked s.focus a ps
  | _ => false
def faults (a : Acc) (s : State) : Bool := match accCheck s s.focus a with
  | .fault _ => true
  | _ => false
theorem witness_Jumps_spills : (let s := spilled 16 65534 0x20FFF8
      s.hart.holds = [] ∧ 16 ≤ s.hart.rstack.length ∧ bits s.hart.sy.rspill 48 16 < 65535 ∧ sends (spillOf s) s = true) ∧
    (let s := ({ spilled 16 0 0x20FFF8 with nextId := 1 } : State).modTile tl fun t => { t with claims := [(0, (Home.hbm 0x5FFC0).key, (Home.hbm 0x5FFC0).key + 64)] };
      blockedBy (spillOf s) s = true) ∧
    (let s := (spilled 16 0 0x210000).mod fun h => { h with misses := [{ walk := 9, page := 0x21, fault := some (0x05, 1) }] };
      faults (spillOf s) s = true) := by decide +kernel
theorem witness_Jumps_refills : (let s := spilled 0 1 0x210000
      s.hart.rstack = [] ∧ 0 < bits s.hart.sy.rspill 48 16 ∧ (s.refill 0x20FFC0).isNone = true ∧ sends (refillOf s) s = true) ∧
    (let s := (spilled 0 1 0x220000).mod fun h => { h with misses := [{ walk := 9, page := 0x21, fault := some (0x05, 1) }] };
      faults (refillOf s) s = true) ∧
    (let va := spillAddr (bits (spilled 0 1 0x210000).hart.sy.rspill 3 45 + (2 ^ 45 - 8));
      va = 0x20FFC0 ∧ ((refilling 1 0x210000 .l1).refill va).map (·.over) = some false ∧
      ((refilling 1 0x210000 .done).refill va).map (fun o => (o.over, o.poisoned)) = some (true, none) ∧
      ((refilling 65535 0x210000 (.poison 0x20FFC0)).refill va).map (fun o => (o.over, o.poisoned)) = some (true, some 0x20FFC0)) := by decide +kernel
theorem witness_ScalarAccessesIssue_noRoutine : mapped.routineValid 62 = false ∧ mapped.hart.holds = [] ∧
    sends (shipAcc mapped.hart 2 1 3 62 .w .none) mapped = true := by decide +kernel
theorem witness_ScalarAccessesIssue : mapped.hart.ready [gRef 2, gRef 1, gRef 3] = true ∧
    sends (loadAcc false 2 .d 0x20FFF8 .h .none) mapped = true ∧ sends (loadAcc true 2 .b 0x20FFFF .s .acq) mapped = true ∧
    sends (storeAcc 1 .d 0x20FFF8 .t .rel) mapped = true ∧ sends (stEmptyAcc 0x200000 1 .h .none) mapped = true ∧
    sends (tagAcc .tagGet 0x20FF00 32 needR false (some (gRef 2))) mapped = true ∧
    sends (tagAcc (.tagSet .full) 0x20FFF8 1 needW true none) mapped = true ∧ bits (mapped.hart.gr 2) 0 2 ≠ 2 ∧
    sends (amoAcc .add mapped.hart 2 1 3 true .h .none) mapped = true ∧ mapped.routineValid 63 = true ∧
    sends (shipAcc mapped.hart 2 1 3 63 .h .none) mapped = true := by decide +kernel
def vop : VOp := { cost := 4, dest := some (vRef 31), val := 5, op := none }
theorem witness_FullEmptyAccessesIssue : mapped.hart.vq.length < 8 ∧ 8 ≤ (List.replicate 8 vop).length ∧ mapped.hart.feV = false ∧ mapped.hart.ready [gRef 2, gRef 1, vRef 2] = true ∧
    sends (feAcc 0 0x20FFF8 .h .none 2 0) mapped = true ∧ sends (feAcc 2 0x20FFF8 .h .rel 2 5) mapped = true ∧
    sends (feAcc 4 0x20FFC0 .h .none 2 5) mapped = true ∧ completes (.ldTake 2 1 true .h .none 7) mapped = true := by decide +kernel
def recorded (w : Word) : State := on (sy fun y => { y with ferec := w })
theorem witness_RecordGates : (∃ w, (recorded w).hart.feV = true ∧ (recorded w).hart.fePend = false) ∧
    (∃ w, (recorded w).hart.feV = true ∧ (recorded w).hart.fePend = true ∧ (recorded w).hart.ready [gRef 2, gRef 1, vRef 2] = true) ∧
    base.hart.feV = false := by
  exact ⟨⟨0x8000000000000000, by decide +kernel⟩, ⟨0xFFFFFFFFFFFFFFFF, by decide +kernel⟩, by decide +kernel⟩
/-- An exhausted LD.TAKE of a word of the own slice. -/
def exhausted (off : Nat) (x : Tag) : State :=
  (word off x).mod fun h => { h with rbufVa := own off, sy := { h.sy with ferec := 0x8806000000000000 } }
/-- The same with a record of another KIND, which names g3. -/
def exhaustedOf (k off : Nat) (x : Tag) : State := (exhausted off x).mod fun h => { (h.setFe 59 3 k) with rbufVal := 0xA5A5 }
theorem witness_ParkForms : (let s := exhausted 0x3FFFF8 .full
      s.mem.wf = true ∧ Unheld s ∧ NoParkRecord s ∧ s.hart.feV = true ∧ s.hart.fePend = false ∧ s.hart.feLinked = false ∧ s.hart.feKind = 1 ∧ s.hart.more = false ∧
      s.hart.sy.preq.getLsbD 0 = false ∧ OwnBytes s.hart.rbufVa 0x3FFFF8 8 ∧ s.resident s.focus.tile = true ∧
      s.tagOf (s.ownHome 0x3FFFF8) = .full) ∧
    (exhausted 0 .empty).tagOf ((exhausted 0 .empty).ownHome 0) = .empty ∧ (exhausted 0 .poison).tagOf ((exhausted 0 .poison).ownHome 0) = .poison := by
  unfold Unheld OwnBytes NoParkRecord; decide +kernel
theorem witness_ParkForms_fills : (let s := exhaustedOf 2 0x3FFFF8 .parked
      s.mem.wf = true ∧ Unheld s ∧ NoParkRecord s ∧ s.hart.feV = true ∧ s.hart.fePend = false ∧ s.hart.feLinked = false ∧ s.hart.feKind = 2 ∧
      OwnBytes s.hart.rbufVa 0x3FFFF8 8 ∧ s.resident s.focus.tile = true ∧ s.tagOf (s.ownHome 0x3FFFF8) = .parked) ∧
    ((exhaustedOf 2 0 .full).tagOf ((exhaustedOf 2 0 .full).ownHome 0) = .full ∧ ((exhaustedOf 2 0 .full).tile tl).fillWait.length < 16) ∧
    (let s := (exhaustedOf 2 0 .full).modTile tl fun t => { t with fillWait := List.range' 8 16 }
     parkKey (s.ownHome 0) ∉ (s.tile s.focus.tile).fillWait ∧ ¬(s.tile s.focus.tile).fillWait.length < 16) := by
  unfold Unheld OwnBytes NoParkRecord; decide +kernel
theorem witness_PrefetchAndFenceForms : Scope.t ≠ .h := by decide
theorem witness_VectorLaneForms : base.hart.vready ([vRef 1, vRef 2, vRef 3] ++ maskRef 7) ∧ (∃ f ∈ laneForms, f.2.1 3 4 5 = 17) ∧
    (∃ f ∈ bitForms, f.2 8 1 9 = 2) ∧ EType.isInt .ui8 = true ∧ (EType.isTrans .bf16 = true ∧ EType.ffmt .bf16 = some .bf16) := by
  refine ⟨by unfold Hart.vready; decide +kernel, ⟨_, by simp only [laneForms]; exact .tail _ (.tail _ (.tail _ List.mem_cons_self)), rfl⟩,
    ⟨_, by simp only [bitForms]; exact .tail _ (.tail _ (.tail _ List.mem_cons_self)), rfl⟩, rfl, rfl, rfl⟩
theorem witness_VectorMoveForms : base.hart.vready ([vRef 1, vRef 2, vRef 3, gRef 1, gRef 2, gRef 3, kRef 7] ++ maskRef 1) ∧ (7 : KReg) ≠ 0 ∧
    cvtOk 0x12 = true := by
  unfold Hart.vready; decide +kernel
theorem witness_MaskForms : base.hart.ready [kRef 0, kRef 7, kRef 2, gRef 31] = true := by decide +kernel
theorem witness_VectorUnitIssues : (let s := on fun h => { h with vq := [vop], sy := { h.sy with vshare := 4 } }
     (s.mapEntry tl).st = .resident ∧ (s.hartOf ⟨tl, (s.tile tl).turn⟩).vq = [vop] ∧ vop.op = none ∧ vop.dest = some (vRef 31) ∧
       (vop.cost : Int) ≤ min ((s.tile tl).dc.getD 0 0 + (bits (s.hartOf ⟨tl, 0⟩).sy.vshare 0 4 : Int)) (bits (s.hartOf ⟨tl, 0⟩).sy.vshare 0 4 + 63) ∧
       (s.tile tl).opened.getD 0 false = false) := by decide +kernel
theorem witness_VectorAccessesIssue : mapped.hart.vready ([gRef 1, gRef 2, vRef 2, vRef 3] ++ maskRef 0) ∧
    sends (vecAcc true (vecExts mapped.hart 0 8 fun i => 0x20FFC0 + BitVec.ofNat 64 (8 * i)) 8 .w true false 3 0) mapped = true ∧
    sends (vecAcc true (vecExts mapped.hart 0 4 fun i => 0x20FFC0 + BitVec.ofNat 64 i * 4) 4 .w false false 3 0) mapped = true := by
  unfold Hart.vready; decide +kernel
theorem witness_OwnSliceVectors : (let s := (word 0x3FFFC0 .parked).mod (g 9 (own 0x3FFFC0))
      s.mem.wf = true ∧ s.hart.vready ([gRef 9, vRef 1] ++ maskRef 0) ∧ Unheld s ∧ CleanLine s 0x3FFFC0 ∧
      (s.hart.gr 9 + (0 : BitVec 5).signExtend 64 * 64).toNat = 0x1F00000000000000 + 0x3FFFC0 ∧ 0x3FFFC0 + 64 ≤ 2 ^ 22) ∧
    base.hart.active 0 8 7 = true := by
  unfold Hart.vready Unheld CleanLine; decide +kernel
/-- A hart in a mode with an address in g1. -/
def names (m a : Word) : State := on (g 1 a ∘ status m)
theorem witness_AccessTraps : ((names 0 0).hart.ready [gRef 2, gRef 1, gRef 3] = true ∧ (names 0 0).hart.holds = [] ∧ (names 0 0).hart.feV = false) ∧
    range ((names 0 0x1000000000000).hart.gr 1) = .none ∧ range ((names 0 0xFFFFFFFFFFFFFFF8).hart.gr 1) = .none ∧
    (∃ x y, range ((names 0 0x23FFFFFFFFFFFFF8).hart.gr 1) = .peer x y) ∧ (∃ x, range ((names 1 0x3000FFFFFFFFFFF8).hart.gr 1) = .dev x) ∧
    bits (names 0 0).hart.sy.status 0 2 = 0 ∧ bits (names 1 0).hart.sy.status 0 2 ≠ 0 ∧
    ((names 1 0x3000000000000007).hart.gr 1).toNat % 8 ≠ 0 ∧ ((names 1 2).hart.gr 1).toNat % 4 ≠ 0 := by
  refine ⟨by decide +kernel, by decide +kernel, by decide +kernel, ⟨_, _, rfl⟩, ⟨_, rfl⟩, by decide +kernel⟩
/-- A piece at a home on a route, of an access in flight. -/
def part (h : Home) (r : Route) : Part := { home := h, va := 0x200000, reads := [{ off := 0, pos := 0, len := 8 }], writes := [], route := r }
def flight (k : OpKind) (h : Home) (r : Route) : MemOp :=
  { id := 9, hart := h0, kind := k, rel := false, dest := some (gRef 3), val := 0, x := 0, y := 0, parts := [part h r], sched := (8, 1024, 64), who := [] }
def flying (k : OpKind) (h : Home) (r : Route) : State := { mapped with ops := [flight k h r] }
/-- Another tile's slice word. -/
def away : Home := .slice ⟨1, 1⟩ 0x3FFFF8
theorem witness_HomesServe :
    ((flying (.load 8 false) away (.sent 0)).piece 9 0 = some (flight (.load 8 false) away (.sent 0), part away (.sent 0)) ∧
      (flying (.load 8 false) away (.sent 0)).bankServes (flight (.load 8 false) away (.sent 0)) ⟨1, 1⟩ 0 = true ∧
      (flying (.load 8 false) away (.sent 1)).bankServes (flight (.load 8 false) away (.sent 1)) ⟨1, 1⟩ 1 = false) ∧
    ((flying .stEmpty (.hbm 0x5FFF8) (.stack 5 0)).piece 9 0 = some (flight .stEmpty (.hbm 0x5FFF8) (.stack 5 0), part (.hbm 0x5FFF8) (.stack 5 0)) ∧
      mapped.frameOwned 0x5FFF8 5 0 = true ∧ mapped.frameOwned 0x5FFF8 6 0 = false) := by decide +kernel
theorem witness_HomesServe_loft : (let s := (flying (.load 8 false) away .loft).modTile ⟨1, 1⟩ fun t => { t with entry := { t.entry with st := .absent } }
      (s.piece 9 0).isSome = true ∧ (s.mapEntry ⟨1, 1⟩).st = .absent ∧ (s.mapEntry ⟨1, 1⟩).fresh = false) ∧
    (mapped.mapEntry ⟨1, 1⟩).st = .resident ∧ ((flying (.load 8 false) (.host 3 64) .port).piece 9 0).isSome = true ∧
    (let o := flight (.fe 1) away (.retry 3 100)
     o.parts = part away (.retry 3 100) :: [] ∧ ((flying (.fe 1) away (.retry 3 100)).piece 9 0).isSome = true ∧ mapped.homeOpen h0 away = true) := by
  decide +kernel
theorem witness_ResultsArrive : (let o := { flight (.fe 1) away .done with dest := some (vRef 3) }
      ({ mapped with ops := [o] } : State).op? o.id = some o ∧ o.over = true ∧ o.kind.storeLike = false ∧ o.isRefill = false ∧
        o.kind ≠ .load 0 false ∧ o.kind ≠ .flush ∧ (mapped.hartOf o.hart).vq = [] ∧ o.dest = some (.v, 3)) ∧
    (let o := flight (.load 8 true) away (.poison 7)
     (flying (.load 8 true) away (.poison 7)).op? o.id = some o ∧ o.over = true ∧ o.poisoned = some 7 ∧ o.kind.storeLike = false ∧
       o.isRefill = false ∧ o.dest = some (.g, 3) ∧ (mapped.hartOf o.hart).run ≠ .sleeping) ∧
    ((on fun h => { h with run := .sleeping }).hartOf h0).run = .sleeping ∧
    (let o := flight .store away .done
     (flying .store away .done).op? o.id = some o ∧ o.over = true ∧ o.kind.storeLike = true ∧ o.who = [] ∧ o.poisoned = none) ∧
    (flight (.fe 2) away .done).kind.storeLike = true ∧
    (let o := flight .flush (.host 3 64) .done
     (flying .flush (.host 3 64) .done).op? o.id = some o ∧ o.over = true) ∧
    ({ flight (.load 0 false) (.hbm 0x5FFC0) .done with dest := none } : MemOp).isPref = true := by decide +kernel
theorem witness_RoutingSteps : (let s := flying (.load 8 false) (.hbm 0x5FFF8) .anchor
      (s.piece 9 0).isSome = true ∧ (s.dpitOf 0x5FFF8).valid = true ∧ (s.dpitOf 0x60000).valid = false) ∧
    ((flying (.load 8 false) (.hbm 0x60000) .anchor).piece 9 0).isSome = true ∧ ((flying (.load 8 false) (.hbm 0x60000) .reroute).piece 9 0).isSome = true ∧
    ((flying (.load 8 false) away .stale).piece 9 0).isSome = true ∧
    (let s := mapped.modTile tl fun t => { t with mapWants := [1] }
     (1 : BitVec 20) ∈ (s.tile tl).mapWants ∧ (s.mapEntry ⟨1, 1⟩).bad = false ∧ routeOf (s.mapEntry ⟨1, 1⟩) ≠ .held) := by decide +kernel
/-- A walk of a page at a level, whose table stands in the last entries of page 5. -/
def walk (level : Nat) : Walk := { id := 4, root := 0, va := 0x1F0000, level := level, table := 0x5FF00, harts := [h0], prefs := [] }
def walking (level : Nat) (e : Nat) : State :=
  (mapped.modTile tl fun t => { t with walks := [walk level] }).writeNat (.hbm (pteAddr 0x5FF00 0x1F0000 level)) 8 e
theorem witness_WalkAndCacheSteps_walks : ∀ p ∈ [(3, 0), (3, 1), (3, 0x5003F), (0, 0x50001)],
    (((walking p.1 p.2).tile tl).active.find? fun x => x.id == (walk p.1).id) = some (walk p.1) ∧
      ((walking p.1 p.2).dpitOf (pteAddr 0x5FF00 0x1F0000 p.1)).valid = true ∧ (walking p.1 p.2).tagOf (.hbm (pteAddr 0x5FF00 0x1F0000 p.1)) ≠ .poison ∧
      (walking p.1 p.2).readWord (.hbm (pteAddr 0x5FF00 0x1F0000 p.1)) = BitVec.ofNat 64 p.2 ∧ mapped.latentUE = [] := by decide +kernel
theorem witness_WalkAndCacheSteps_misses : let m : Miss := { walk := 4, page := 0x1F, fault := none }
    let s := (walking 3 0).mod fun h => { h with misses := [m, { m with walk := 3 }] }
    h0 ∈ (walk 3).harts ∧ m ∈ (s.hartOf h0).misses ∧ m.walk = (walk 3).id := by decide +kernel
theorem witness_WalkAndCacheSteps_entries : (0 : Word).getLsbD 0 = false ∧ ((1 : Word).getLsbD 0 = true ∧ pteReserved 1 3 = true) ∧
    ((0x5003F : Word).getLsbD 0 = true ∧ pteReserved 0x5003F 3 = false ∧ (0x5003F : Word).getLsbD 1 = true) ∧
    ((0x50001 : Word).getLsbD 0 = true ∧ pteReserved 0x50001 0 = false ∧ (0x50001 : Word).getLsbD 1 = false) := by decide +kernel
def bufLine : WbLine := { va := 0x200000, home := .hbm 0x50000, writes := [(h0, 3, { off := 0, mask := 1, data := 5, whole := false })], closed := true, rel := false }
def l1Line : L1Line := { line := 0x200000, home := .hbm 0x50000, data := 0, tags := [], filled := 0, bad := false }
theorem witness_WalkAndCacheSteps : (let s := mapped.modTile tl fun t => { t with wbuf := [bufLine] }
      (s.tile tl).wbuf = bufLine :: [] ∧ bufLine.rel = false) ∧
    (let s := flying (.load 8 false) (.hbm 0x5FFF8) .l1
     (s.piece 9 0).isSome = true ∧ s.lineBuffered tl none 9 (.hbm 0x5FFC0) = false ∧ s.writesTo tl (.hbm 0x5FFC0) = [] ∧ s.pageOk (.hbm 0x5FFC0) = true ∧ s.l1Find tl (.hbm 0x5FFC0) = none ∧
       (Home.hbm 0x5FFF8).align 64 = .hbm 0x5FFC0) ∧
    (let s := mapped.modTile tl fun t => { t with l1 := [l1Line] }
     (s.tile tl).l1.find? (fun x => x.line == l1Line.line) = some l1Line) := by decide +kernel
theorem witness_WalkAndCacheSteps_prefetch : (let s := mapped.mod fun x => { (status 1 x) with pc := 0x20FF80, sy := { (status 1 x).sy with flimit := 0x210000 } }
      let va := (s.hart.pc.toNat / 64 + 1) * 64
      let home := leafHome leaf 16 va
      va < 2 ^ 48 ∧ va / 64 < bits s.hart.sy.flimit 6 42 ∧ s.tlbFind h0 va = some page ∧ leafX leaf = true ∧ leafMT leaf = 0 ∧
        s.pageOk home = true ∧ (∀ w ∈ blockWords home, s.tagOf w ≠ .poison) ∧ s.hart.opFind va = none) ∧
    (let s := mapped.modTile tl fun t => { t with streams := [5120] }
     s.hart.tlb.find? (fun e => e.covers mapped.hart.root 0x20FFFF) = some page ∧ range 0x20FFFF = .paged ∧ leafNC leaf = false ∧ leafMT leaf = 0 ∧
      leafR leaf = true ∧ s.streamed tl (.hbm 0x5FFC0) = true ∧ s.pageOk (.hbm 0x5FFC0) = true ∧ s.lineBuffered tl none s.nextId (.hbm 0x5FFC0) = false ∧
      s.writesTo tl (.hbm 0x5FFC0) = [] ∧ s.l1Find tl (.hbm 0x5FFC0) = none ∧ (leafHome leaf 16 0x20FFFF).align 64 = .hbm 0x5FFC0) := by decide +kernel
/-- A park record of the hart for the word at 0x40 of its slice. -/
def rec (kind : Nat) (h : HartId) (seq : Nat) : ParkRec :=
  { tab := 1, key := 0x40, seq := seq, kind := kind, hart := some h, queue := 0, woken := false, more := false }
def h1 : HartId := ⟨tl, 3⟩
def requested (r : ParkReq) (ps : List ParkRec) : State := { base with parkReqs := [(5, r)], parks := ps }
theorem witness_ParkSteps : (requested (.link (rec 1 h0 0)) []).parkReq? 5 = some (.link (rec 1 h0 0)) ∧
    (let s := requested (.loads 1 [0x40]) [rec 1 h0 4, rec 1 h1 5, rec 0 h1 2]
     s.parkReq? 5 = some (.loads 1 [0x40]) ∧ (∀ k ∈ [0x40, 0x48], lineKey k = lineKey 0x40) ∧ (∀ r ∈ s.parks, r.names 1 0x40 = true) ∧ rec 1 h0 4 ∈ s.parks ∧ (rec 1 h0 4).takes = true ∧
       (∀ q ∈ s.parks, q.names 1 0x40 = true → q.takes = true → q = rec 1 h0 4 ∨ (rec 1 h0 4).seq < q.seq) ∧ (rec 0 h1 2).kind = 0) ∧
    (let s := requested (.filler 1 [0x40]) [rec 4 h0 4, rec 2 h1 5]
     s.parkReq? 5 = some (.filler 1 [0x40]) ∧ (rec 4 h0 4).names 1 0x40 = true ∧ (rec 4 h0 4).fills = true ∧
       (∀ q ∈ s.parks, q.names 1 0x40 = true → q.fills = true → q = rec 4 h0 4 ∨ (rec 4 h0 4).seq < q.seq)) := by decide +kernel
def wakeMsg : WakeMsg := { id := 5, tab := 1, hart := some h0, queue := 0, more := true }
def linked (x : Tag) : State :=
  { (word 0x40 x).mod fun h => { h with run := .parked, sy := { h.sy with ferec := 0x8807800000000000 } } with
    parks := [{ rec 1 h0 4 with woken := true }], wakes := [wakeMsg] }
theorem witness_ParkSteps_hart : ((linked .full).wakes.find? (fun m => m.id == 5) = some wakeMsg ∧ (linked .full).resident h0.tile = true ∧
      (linked .full).hart.feV = true ∧ (linked .full).hart.feLinked = true) ∧
    (let s := linked .full
     ReadyToRetry (s.hartOf h0) ∧ s.parks.find? (fun r => r.isOf 1 (some h0) 0) = some { rec 1 h0 4 with woken := true } ∧ s.latentUE = [] ∧
       (s.hartOf h0).feKind = 1 ∧ (s.hartOf h0).sy.preq.getLsbD 0 = false ∧ s.parkReady h0 (homeOfKey 1 0x40) = true ∧
       s.pageOk (homeOfKey 1 0x40) = true ∧ s.tagOf (homeOfKey 1 0x40) = .full ∧ (linked .empty).tagOf (homeOfKey 1 0x40) = .empty) ∧
    (let s := on fun h => { h with run := .parked, parkDue := some 9 }
     s.hart.parkDue = some 9 ∧ s.hart.run = .parked) := by
  unfold ReadyToRetry; decide +kernel
/-- A message of the hart to tile 1, and an inbox of it. -/
def msg (nm : Word) : Msg := { header := nm * 2 ^ 22, payload := 7 }
def sent (r : MsgRoute) : Sent := { id := 5, src := some h0, queue := 0, dst := ⟨1, 1⟩, msg := msg 0, route := r }
def posted (r : MsgRoute) (inbox : Nat) : State :=
  ({ base with msgs := [sent r] } : State).modTile ⟨1, 1⟩ fun t => { t with inbox := List.replicate inbox (msg 0) }
theorem witness_Messages_send : base.hart.holds = [] ∧ base.hart.ready [gRef 1, vRef 2] = true ∧ 4 < bits ((on (g 1 0x50000000000)).hart.gr 1) 40 3 ∧
    (bits ((on (g 1 0x40000000002)).hart.gr 1) 40 3 ≤ 4 ∧ base.validVt ⟨1, 2⟩ = false ∧ base.validVt ⟨1, 1⟩ = true ∧
      find (1 : BitVec 20) (base.tile tl).mapCache = none ∧ base.hart.hostWrote = [] ∧
      find (1 : BitVec 20) ((base.modTile tl fun t => { t with mapCache := [(1, base.mapEntry ⟨1, 1⟩)] }).tile tl).mapCache = some (base.mapEntry ⟨1, 1⟩) ∧
      (base.mapEntry ⟨1, 1⟩).st ≠ .invalid) ∧ base.unplaced h0 < 16 ∧
    base.pendingOp h0 true true (fun _ => true) = false := by decide +kernel
theorem witness_Messages_receive : base.hart.ready [gRef 2, vRef 3] = true ∧ base.eligibles = [] ∧
    (let s := base.modTile tl fun t => { t with inbox := [msg 1] }
     s.eligibles = msg 1 :: [] ∧ (msg 1).nm ≠ s.hart.sy.status.getLsbD 23 ∧ s.hart.sy.status.getLsbD 9 = false) ∧
    ((base.modTile tl fun t => { t with inbox := [msg 0] }).eligibles = msg 0 :: [] ∧ (msg 0).nm = base.hart.sy.status.getLsbD 23) := by
  decide +kernel
theorem witness_Messages_steps : (let s := posted (.sent 0) 63
      s.msg? 5 = some (sent (.sent 0)) ∧ s.first (sent (.sent 0)) = true ∧ (s.mapEntry ⟨1, 1⟩).st = .resident ∧ (s.mapEntry ⟨1, 1⟩).gen = 0 ∧
        (s.tile ⟨1, 1⟩).backlog = [] ∧ (s.tile ⟨1, 1⟩).inbox.length < 64) ∧ 64 ≤ ((posted (.sent 0) 64).tile ⟨1, 1⟩).inbox.length ∧
    ((posted .append 0).msg? 5 = some (sent .append) ∧ (posted .append 0).first (sent .append) = true ∧ (posted .append 0).carrierRoom 1 = true ∧
      ({ base with tabs := [(1, { tableau with args := { args with carrier := 8 } })] } : State).carrierRoom 1 = false) ∧
    (posted .placed 0).msg? 5 = some (sent .placed) ∧
    (let s := base.modTile tl fun t => { t with backlog := [msg 0] }
     s.resident tl = true ∧ (s.tile tl).backlog = msg 0 :: [] ∧ (s.tile tl).inbox.length < 64) := by decide +kernel
/-- A group of all four harts of the two tiles, and the hart's part in it. -/
def decl : GroupDecl := { grp := 3, s0 := 0, s1 := 0, n0 := 0, n1 := 0, t0 := 0, t1 := 1, hmask := 15 }
def inPhase (plane : Option (BitVec 3)) (b : HartBar) : State :=
  { on fun h => { h with bars := [(3, b)] } with
    tabs := [(1, { tableau with groups := [(3, decl)], state := [(3, { phase := 7, plane := plane })] })] }
def bar (p : BitVec 32) (passed : Bool) : HartBar := { member := true, phase := p, passed := passed, sent := true, seen := 6, faulted := [] }
theorem witness_Barriers_waits : (let s := inPhase none (bar 7 false)
      s.hart.holds = [] ∧ (s.hart.bar 3).member = true ∧ (s.hart.bar 3).passed = false ∧ (s.hart.bar 3).over = false ∧
        s.absentees 3 (s.hart.bar 3).phase = [] ∧ s.unplaced s.focus = 0) ∧
    (let s := inPhase none (bar 6 true);
      (s.hart.bar 3).passed = true ∧ s.unplaced s.focus = 0 ∧ (s.arriving.arrive 3).absentees 3 ((s.hart.bar 3).phase + 1) = []) := by
  decide +kernel
theorem witness_Barriers : (base.hart.bar 3).member = false ∧ base.inGroup h0 3 = false ∧
    (let s := inPhase none (bar 7 false)
     s.inGroup h0 3 = true ∧ s.hart.ready [gRef 1, gRef 2] = true ∧ (s.hart.bar 3).member = true ∧ (s.hart.gr 1).getLsbD 0 = false ∧
       (s.hart.bar 3).phase ≠ (s.group 1 3).phase - 1 ∧ s.pendingOp h0 true true (fun _ => true) = false) ∧
    ((on (g 1 1)).hart.gr 1).getLsbD 0 = true ∧ ((inPhase none (bar 6 true)).hart.bar 3).passed = true ∧ ((inPhase none (bar 6 true)).hart.bar 3).over = true ∧
    (((inPhase none (bar 6 false)).hart.bar 3).passed = false ∧ ((inPhase none (bar 6 false)).hart.bar 3).over = true ∧
      (inPhase none (bar 6 false)).unplaced h0 = 0) ∧
    (let s := inPhase (some 0) (bar 7 false)
     (s.tab? 1).isSome = true ∧ (s.group 1 3).plane.isSome = true ∧ s.phaseDone 1 3 = true) ∧
    (let s := inPhase none { bar 7 false with sent := false }
     ((s.hartOf h0).bar 3).sent = false) ∧
    (let s := inPhase none { bar 6 false with seen := 5 }
     s.resident h0.tile = true ∧ ((s.hartOf h0).bar 3).seen ≠ (s.group 1 3).phase - 1) := by decide +kernel
/-- Operands that pass, by a run of the checks. -/
def passes (os : List Operand) (s : State) : Bool := os.all fun o => extentFault o == none && match operandTr s s.focus o o.va with
  | .ok _ _ => true
  | _ => false
theorem operandsPass {os : List Operand} {s : State} (h : passes os s = true) : OperandsPass os s := by
  intro o ho
  have e := List.all_eq_true.1 h o ho
  simp only [Bool.and_eq_true] at e
  refine ⟨by simpa using e.1, ?_⟩
  have f := e.2
  split at f
  · exact ⟨_, _, by assumption⟩
  · exact absurd f (by decide)
theorem witness_CopyForms : base.hart.ready [gRef 1, gRef 2, gRef 3, gRef 4, vRef 1] = true ∧ base.hart.cps.length < 8 ∧ base.hart.holds = [] ∧
    (base.hart.gr 4).toNat % 8 = 0 ∧ 7 % 8 ≠ 0 ∧ 2 ^ 34 < (0x400000001 : Word).toNat ∧ (0x400000000 : Word).toNat ≤ 2 ^ 34 ∧ ((2 ^ 34 + 8) % 8 = 0 ∧ 2 ^ 34 < 2 ^ 34 + 8) ∧ 2 ^ 34 % 8 = 0 ∧
    base.hart.cps = [] := by decide +kernel
theorem witness_CopyForms_operands :
    OperandsPass [dstOperand 0x20FF00 0x100 true, srcOperand (own 0x3FFF00) 0x100 1, cwOperand 0x200000] mapped ∧
    OperandsPass [dstOperand (own 0) 8 false, cwOperand (own 0x3FFFF8)] mapped ∧
    OperandsPass [{ va := 0x200000, len := max 1 (min 0x10000 imgMax), need := needR, peer := true, tags := false, priv := true, al := false }, cwOperand (own 0)] mapped :=
  ⟨operandsPass (by decide +kernel), operandsPass (by decide +kernel), operandsPass (by decide +kernel)⟩
/-- A descriptor of two rows of eight bytes. -/
def desc (k : Nat) : VWord := BitVec.ofNat 512 (2 ^ 192 * 0 + 2 ^ 128 * 0x10000 + 2 ^ 64 * 0x10000 + (k * 2 ^ 48 + 2 ^ 32 + 8))
def described (k : Nat) : State := (on (g 2 (own 0x3FFFE0))).writeNat (.slice tl 0x3FFFE0) 32 (desc k).toNat
theorem witness_CopyForms_copy2 : (Unheld (described 0) ∧ OwnBytes ((described 0).hart.gr 2) 0x3FFFE0 32 ∧
      (∀ j, j < 32 → (described 0).tagOf ((described 0).ownHome (0x3FFFE0 + j)) ≠ .poison)) ∧
    BitVec.ofNat 512 ((described 2).readNat ((described 2).ownHome 0x3FFFE0) 32) = desc 2 ∧ descBad (desc 3) 0 0 0 = true ∧ descBad (desc 1) 0 0 1 = true ∧
    (descBad (desc 0) 8 8 3 = false ∧ descBad (desc 1) 0x10000 8 0 = false ∧ descBad (desc 2) 8 0x10000 0 = false) ∧
    ((descOf (desc 0)).sstride.toNat % 8 = 0 ∧ (descOf (desc 0)).rows * max 8 8 ≤ 2 ^ 34) ∧
    OperandsPass [{ dstOperand (own 0) 0x10008 true with peer := true }, { srcOperand (own 0x10000) 0x10008 1 with tags := false, peer := true },
      cwOperand (own 0x3FFFF8)] (described 0) := by
  refine ⟨by unfold Unheld OwnBytes; decide +kernel, by decide +kernel, by decide +kernel, by decide +kernel, by decide +kernel, by decide +kernel,
    operandsPass (by decide +kernel)⟩
def cpc (k : CpKind) (mode next : Nat) (dst src : Word) : CpCmd :=
  { id := 9, hart := h0, kind := k, mode := mode, scope := .h, dst := dst, src := src, count := 16, rows := 1, sstride := 0, dstride := 0, pattern := 3,
    key := 0, cwHome := .slice tl 0x80, user := true, root := 0, started := true, next := next, nerr := 0, firstBad := none, reason := 0,
    stopped := none, tags := 0, length := 16, pages := [], pieces := [], read := [] }
def copying (c : CpCmd) (x y : Tag) : State := ((on fun h => { h with cps := [c] }).setTag (.slice tl 0x108) x).setTag (.slice tl 0x208) y
theorem witness_CopySteps : (let c := cpc .copy 2 1 (own 0x200) (own 0x100)
      let s := copying c .full .parked
      c ∈ (s.hartOf c.hart).cps ∧ s.resident c.hart.tile = true ∧ s.cp? c.id = some c ∧ c.started = true ∧ c.stopped = none ∧ s.mem.wf = true ∧
        s.latentUE = [] ∧ c.rows = 1 ∧ c.total = c.next + 1 ∧ AliasWord (c.dstAt c.next) 0x208 ∧ AliasWord (c.srcAt c.next) 0x108 ∧ 0x108 ≠ 0x208) ∧
    (let c := { cpc .copy 2 0 (own 0x200) (own 0x100) with started := false }
     let s := copying c .full .full
     let cps := c.hart.tile.harts.flatMap fun h => (s.hartOf h).cps
     c ∈ cps ∧ (∀ x ∈ cps, x.started = false → x = c ∨ c.id < x.id) ∧ (cps.filter (·.started)).length < 4 ∧
       s.pendingOp c.hart true true (fun n => decide (n < c.id)) = false) := by
  unfold AliasWord; decide +kernel
/-- A hart that is to issue a copy of count 0, its completion word at an address in g3, with an earlier load pending or none. -/
def copyless (cw : Word) (pending : Bool) : State :=
  { (if pending then { flying (.load 8 false) (.host 3 64) .port with nextId := 10 } else mapped) with
    harts := [(h0, { mapped.hart with gFull := 0xFFFFFFFF, vFull := 0xFFFFFFFF }.setG 3 cw)] }
theorem witness_CopyForms_none : (∀ p ∈ [(own 0x3FFFF8, Home.slice tl 0x3FFFF8), (0x20FFC0, .hbm 0x5FFC0)], ∀ pending : Bool,
      let s := copyless p.1 pending
      s.hart.ready [gRef 1, gRef 2, gRef 3, gRef 4, vRef 1] = true ∧ (s.hart.gr 2).toNat = 0 ∧ (s.hart.gr 1).toNat % 8 = 0 ∧ (s.hart.gr 3).toNat % 8 = 0 ∧
        extentFault (cwOperand (s.hart.gr 3)) = none ∧ (match operandTr s s.focus (cwOperand (s.hart.gr 3)) (s.hart.gr 3) with | .ok h _ => h == p.2 | _ => false) = true ∧
        s.pendingOp s.focus true true (fun m => decide (m < s.nextId)) = pending ∧ p.2.tagged = true ∧ s.plain p.2 = true ∧ s.homeOpen s.focus p.2 = true ∧
        s.pageOk p.2 = true ∧ s.mem.wf = true ∧ s.latentUE = [] ∧ s.hart.hostWrote = []) ∧
    (let d := descOf (BitVec.ofNat 512 (2 ^ 48 - 1 - 7))
     descBad (BitVec.ofNat 512 (2 ^ 48 - 1 - 7)) 0 0 0 = false ∧ d.kind = 0 ∧ 2 ^ 34 < d.rows * max d.rowBytes d.rowBytes) := by
  decide +kernel
theorem witness_CopyForms_wait : (copying (cpc .copy 0 0 0 0) .full .full).hart.cps ≠ [] := by decide +kernel
theorem witness_CopySteps_tags : (∀ x ∈ [Tag.full, .empty, .parked, .poison], (copying (cpc .copy 0 1 0 0) x .empty).tagOf (.slice tl 0x108) = x) ∧
    (∀ x ∈ [Tag.full, .empty], (copying (cpc .copy 3 1 0 0) .full x).tagOf (.slice tl 0x208) = x) := by
  refine ⟨fun x _ => ?_, fun x _ => ?_⟩ <;> cases x <;> decide +kernel
theorem witness_CopySteps_end : (let c := cpc .copy 0 2 (own 0x200) (own 0x100)
      c.total ≤ c.next ∧ c.cwHome.tagged = true ∧ (copying c .full .full).homeOpen c.hart c.cwHome = true ∧ c.nerr = 0) ∧
    (∃ x y, range (cpc .copy 0 0 0x23FFFFFFFFFFFFF0 0).dst = .peer x y) ∧ (∃ x y, range (cpc .copy 0 0 (own 0) 0x2000000000000000).src = .peer x y) ∧
    (∀ c ∈ [cpc .copy 0 0 0x23FFFFFFFFFFFFF0 0, cpc .copy 0 1 (own 0) 0x2000000000000000], let s := copying c .full .full
      s.cp? c.id = some c ∧ c.started = true ∧ c.stopped = none ∧ s.mem.wf = true ∧ s.latentUE = [] ∧ c.next < c.total) := by
  exact ⟨by decide +kernel, ⟨_, _, rfl⟩, ⟨_, _, rfl⟩, by decide +kernel⟩
def pagesPass (os : List (Operand × List Word)) (s : State) : Bool := os.all fun o => extentFault o.1 == none && o.2.all fun va =>
  match operandTr s s.focus o.1 va with
  | .ok _ _ => true
  | _ => false
theorem pagesPass_sound {os : List (Operand × List Word)} {s : State} (h : pagesPass os s = true) : PagesPass os s := by
  intro o ho
  have e := List.all_eq_true.1 h o ho
  simp only [Bool.and_eq_true] at e
  refine ⟨by simpa using e.1, fun va hv => ?_⟩
  have f := List.all_eq_true.1 e.2 va hv
  split at f
  · exact ⟨_, _, by assumption⟩
  · exact absurd f (by decide)
/-- The hart owns slot 7 of cluster 0 under name 5, granule 3 stands in its tile's map under name 6, and g1, g2 and g4 hold operands. -/
def sref : SlotRef := { cluster := 0, slot := 7, gen := 9 }
def bname : BName := { fmt := 0x11, k := 512, n := 256, gid := 3 }
def matrix (ctx x y wd : Word) (q : List MxCmd) : State :=
  { ((on (g 1 x ∘ g 2 y ∘ g 4 wd ∘ fun h => { h with ctx := ctx, slots := [(5, sref)], mxq := q })).modSlot sref fun z =>
      { z with st := .pinned, owner := h0, gen := 9 }).modTile tl fun t => { t with bmap := [(6, bname)] } with
    granules := [(3, { tab := 1, key := 0, cluster := some 0, k := 512, n := 256, units := [] })] }
def plainMx (x y wd : Word) : State := matrix 0x141111 x y wd []
theorem witness_MatrixForms : (plainMx 0 0 0).hart.ready [gRef 1, gRef 2, gRef 4, vRef 1, vRef 4] = true ∧ (plainMx 0 0 0).hart.mxq.length < 16 ∧
    (plainMx 0 0 0).hart.holds = [] ∧ badCtx 0x7B1B1B = false ∧ badCtx 0x1400 = true ∧ find (4 : KReg) (plainMx 0 0 0).hart.slots = none ∧
    find (5 : KReg) (plainMx 0 0 0).hart.slots = some sref ∧ (plainMx 0 0 0).hart.mxq = [] ∧ sref.slot < 8 ∧
    bits (0xFFFF : Word) 16 48 = 0 ∧ ctxO (plainMx 0 0 0).hart.ctx ∈ [0x0E, 0x0F, 0x10, 0x11, 0x14] ∧ isBlock (ctxO 0xD1111) = true := by decide +kernel
/-- MX.MACT over the whole granule: K = 512 behind K0 = 0, M = 2, rows of 64 bytes each in the own slice. -/
theorem witness_MatrixForms_mac :
    let s := plainMx 0x02000001 0x0000004000000006 (own 0)
    let K := bits (s.hart.gr 1) 16 16
    let rows := fun (n : Nat) => (List.range n).map fun i => s.hart.gr 4 + BitVec.ofNat 64 i * BitVec.ofNat 64 64
    (find ((s.hart.gr 2).setWidth 6) (s.tile tl).bmap = some bname ∧ bname.k ≠ 0 ∧ bname.fmt.toNat = ctxB s.hart.ctx ∧ bits (s.hart.gr 1) 32 32 = 0 ∧
      bits (s.hart.gr 2) 6 10 = 0 ∧ 0 < K ∧ bits (s.hart.gr 2) 16 16 + K ≤ kMax (ctxB s.hart.ctx) ∧
      bits (s.hart.gr 2) 16 16 % fmtLine (ctxB s.hart.ctx) = 0 ∧ (s.hart.gr 4).toNat % 64 = 0 ∧ bits (s.hart.gr 2) 32 32 % 64 = 0 ∧
      isBlock (ctxA s.hart.ctx) = false ∧ K = 512) ∧
      PagesPass ((rows 2).map fun q => ((mxOperand q (runBytes 0x11 2) needR).1, [q])) s :=
  ⟨by decide +kernel, pagesPass_sound (by decide +kernel)⟩
theorem witness_MatrixForms_rows : ∀ i < 2, InSlices (own (64 * i)) := by
  intro i hi
  match i, hi with
  | 0, _ => exact .inr ⟨_, rfl⟩
  | 1, _ => exact .inr ⟨_, rfl⟩
/-- MX.DELTA with R, MX.QRY, MX.SPILL, MX.LOAD and MX.BLD at operands in the own slice. -/
theorem witness_MatrixForms_units :
    (let x : Word := 0x0000040000000000
     let y := own 0x10000
     bits x 20 12 = 0 ∧ bits x 32 32 % 64 = 0 ∧ y.toNat % 8 = 0 ∧ deltaBytes 1 1 false true ≤ bits x 32 32 ∧ padded 1 true ≤ bits x 32 32 ∧
       PagesPass [mxOperand (own 0) (deltaBytes 1 1 false true) needR, mxOperand y 8 needW] base ∧
       PagesPass [mxOperand (own 0) (padded 1 true) needR, mxOperand y 8 needW] base) ∧
    (let img : ImgHdr := { fmt := bits (0x140000 : Word) 16 5, rows := 1, cols := 1 }
     (own 0).toNat % 8 = 0 ∧ bits (0x140000 : Word) 21 43 = 0 ∧ bits (0 : Word) 4 60 = 0 ∧ imgElem img.fmt ≠ 0 ∧ (base.imageKey 1 0).isSome = true ∧
       PagesPass [mxOperand (own 0) img.length needW] base) ∧
    ((0x50 : Word) ≠ 0 ∧ PagesPass [mxOperand (own 0) (min 0x50 imgMax) needR] base ∧ bits (16 : Word) 4 60 ≠ 0) ∧
    (48 ≤ (48 : Word).toNat ∧ (47 : Word).toNat < 48) ∧
    (let x : Word := 0x0000004000000200
     bits x 24 8 = 0 ∧ bits x 32 32 % 64 = 0 ∧ 0 < bits x 0 16 ∧ bits x 0 16 ≤ kMax 0x11 ∧ bldRegion [own 0] (runBytes 0x11 512) = false ∧
       PagesPass [mxOperand (own 0) (runBytes 0x11 512) needR] base) := by
  refine ⟨⟨by decide +kernel, by decide +kernel, by decide +kernel, by decide +kernel, by decide +kernel, pagesPass_sound (by decide +kernel),
    pagesPass_sound (by decide +kernel)⟩, ⟨by decide +kernel, by decide +kernel, by decide +kernel, by decide +kernel, by decide +kernel,
    pagesPass_sound (by decide +kernel)⟩, ⟨by decide +kernel, pagesPass_sound (by decide +kernel), by decide +kernel⟩, by decide +kernel,
    ⟨by decide +kernel, by decide +kernel, by decide +kernel, by decide +kernel, by decide +kernel, pagesPass_sound (by decide +kernel)⟩⟩
/-- Slots 0 to 6 taken, or all eight. -/
def taken (n : Nat) : State := (List.range n).foldl (fun s p => s.modSlot { cluster := 0, slot := p, gen := 0 } fun z => { z with st := .owned }) base
theorem witness_MatrixForms_own : (∀ p, p < 8 → ¬(((taken 8).slotAt { cluster := (taken 8).clusterAt tl, slot := p, gen := 0 }).st = .free)) ∧
    (((taken 7).slotAt { cluster := 0, slot := 7, gen := 0 }).st = .free ∧ ((taken 7).slotAt { cluster := 0, slot := 7, gen := 0 }).zeroing = false ∧
      ∀ q, q < 7 → ¬(((taken 7).slotAt { cluster := 0, slot := q, gen := 0 }).st = .free)) ∧ find (5 : KReg) base.hart.slots = none ∧
    (bits (0 : Word) 24 8 = 0 ∧ bits (0 : Word) 32 32 % 128 = 0 ∧ bits (0 : Word) 0 16 = 0) ∧ base.hart.mxErr.nerr = 0 ∧ (on fun h => { h with mxErr := { reason := 0x30, nerr := 1, first := 0, count := 1 } }).hart.mxErr.nerr ≠ 0 ∧
    OperandsPass [cwOperand (own 0x3FFFF8)] base :=
  ⟨by decide +kernel, by decide +kernel, by decide +kernel, by decide +kernel, by decide +kernel, by decide +kernel,
    operandsPass (by decide +kernel)⟩
def mxc (k : MxKind) (wd wa wb : Word) (started : Bool) (progress : Nat) : MxCmd :=
  { id := 9, hart := h0, kind := k, n := 5, ctx := 0x141111, wd := wd, wa := wa, wb := wb, vv := 0x3F80, name := some 6, gid := 3, entry := some bname, index := 4,
    started := started, progress := progress, user := true, root := 0, pages := [] }
def queued1 (c : MxCmd) : State := matrix 0x141111 0 0 0 [c]
theorem witness_MatrixForms_sync : (queued1 (mxc .zero 0 0 0 false 0)).hart.mxq ≠ [] := by decide +kernel
/-- A command at the head of its queue starts, with the lane's pointer at its hart. -/
def starts (lane : Nat) (c : MxCmd) : Bool :=
  let s := queued1 c
  let l := (s.cluster 0).laneOf lane
  l.run == none && decide (l.ptr < 16) && s.clusterHart 0 l.ptr == some h0 && s.headFor lane h0 == some c && decide (0 ≤ findD h0 l.dc 0)
theorem witness_MatrixSteps_start : starts 0 (mxc (.mac false true) (own 0) 0 6 false 0) = true ∧ starts 0 (mxc (.delta true true) 0 0 0 false 0) = true ∧
    starts 0 (mxc (.qry true) 0 0 0 false 0) = true ∧ starts 1 (mxc .zero 0 0 0 false 0) = true ∧ starts 1 (mxc .free 0 0 0 false 0) = true ∧
    starts 1 (mxc (.wr true) 0 0 0 false 0) = true ∧ fmtOf (ctxO 0x141111) = .flt .a40 ∧ starts 1 (mxc (.rd false 3) 0 0 0 false 0) = true ∧
    starts 1 (mxc .spill 0 0 0 false 0) = true ∧ starts 1 (mxc .load 0 0 0 false 0) = true ∧ starts 2 (mxc .bld 0 0 0 false 0) = true := by decide +kernel
theorem witness_MatrixSteps_slot : HasSlot (mxc .zero 0 0 0 false 0) sref (queued1 (mxc .zero 0 0 0 false 0)) := by
  unfold HasSlot; decide +kernel
theorem witness_MatrixSteps_runs : Runs (mxc .load 0 0 0 true 0) (queued1 (mxc .load 0 0 0 true 0)) ∧ (queued1 (mxc .load 0 0 0 true 0)).latentUE = [] := by
  unfold Runs; decide +kernel
/-- A read succeeds and leaves the harts alone. -/
def reads {α : Type} (s : State) : State × Pages × EngRead α → Bool
  | (s', _, .ok _) => decide (s'.harts = s.harts)
  | _ => false
theorem witness_MatrixSteps_reads : (let c := mxc (.mac true true) (own 0) 0x210000 0x4000000006 true 1
      reads (queued1 c) ((queued1 c).readRuns c.engCtx (ctxA c.ctx) (ctxNm c.ctx) 0 1 [c.rowAt 32] c.pages) = true) ∧
    (let c := mxc (.delta false false) (own 0) 0x10000000000 0 true 0
     reads (queued1 c) ((queued1 c).readRun c.engCtx c.wd 0 (deltaBytes c.dk c.dv false false) c.pages) = true) ∧
    (let c := mxc (.qry false) (own 0) 0x10000000000 (own 0x3FFFF8) true 0
     reads (queued1 c) ((queued1 c).readRun c.engCtx c.wd 0 (padded c.dk false) c.pages) = true ∧
       reads (queued1 c) ((queued1 c).placesOf c.engCtx c.outWords (c.readout 0) c.pages) = true) ∧
    (let c := mxc .bld (own 0) 0x4000000200 47 true 0
     reads (queued1 c) ((queued1 c).readRun c.engCtx c.wd 0 (runBytes (ctxB c.ctx) c.bldK) c.pages) = true ∧ runBytes (ctxB c.ctx) c.bldK ≤ 1024 ∧
       0 < c.bldK ∧ (find c.gid (queued1 c).granules).isSome = true) ∧
    (let c := mxc .spill (own 0) 0x140000 0 true 0
     c.progress < c.spillUnits ∧ reads (queued1 c) ((queued1 c).placesOf c.engCtx 1 (c.wd + 64) c.pages) = true) := by decide +kernel
/-- An image of one element, 1.0 in A40, with its tag under the empty key. -/
def image : Nat := 242605095098067640585387621940846147818 * 2 ^ 576 +
  0x3F80000000 * 2 ^ 512 + 5 * 2 ^ 192 + 0x10001 * 2 ^ 128 + 0x1400000001 * 2 ^ 64 + imgMagic
def loading (c : MxCmd) (n : Nat) : State := (queued1 c).writeNat (.slice tl 0) 88 n
def imageEnd (c : MxCmd) (s : State) : Option (Option Nat) :=
  match s.readImage c.engCtx (BitVec.ofNat 4 (bits c.wb 0 4)) c.wd c.wa.toNat c.pages with
  | (s', _, .ok _ _) => if s'.harts = s.harts then some none else none
  | (s', _, .bad _ r) => if s'.harts = s.harts then some (some r) else none
  | _ => none
theorem witness_MatrixSteps_image : (let c := mxc .load (own 0) 88 0 true 0
      imageEnd c (loading c image) = some none) ∧
    (let c := mxc .load (own 0) 87 0 true 0
     imageEnd c (loading c image) = some (some 0x33)) := by decide +kernel
theorem witness_MatrixSteps : (let c := { mxc (.sync .h) 0 0 0 true 0 with pages := [(own 0x40, Home.slice tl 0x40)] }
      c.pages = (own 0x40, Home.slice tl 0x40) :: [] ∧ ((queued1 c).hartOf h0).mxq.head? = some c ∧ (Home.slice tl 0x40).tagged = true ∧
      (queued1 c).pendingOp h0 true true (fun n => decide (n < c.id)) = false ∧ (queued1 c).homeOpen h0 (Home.slice tl 0x40) = true ∧ (queued1 c).mem.wf = true ∧ ((queued1 c).hartOf h0).mxErr.nerr = 0) ∧
    (let s := base.modSlot sref fun z => { z with zeroing := true }
     sref.slot < 8 ∧ (s.slotAt sref).zeroing = true) := by decide +kernel
/-- Page tables in page 1, with the root of the tableau; they map VA 0x20_0000 to page 5. -/
def paged2 : State := { mapped with dpit := mapped.dpit ++ [(1, { pin := false, valid := true, frame := 1, stk := 1, exported := false })] }
def tables : State := (((paged2.writeNat (.hbm 0x10000) 8 0x11001).writeNat (.hbm 0x11000) 8 0x12001).writeNat (.hbm 0x12008) 8 0x13001).writeNat (.hbm 0x13000) 8 leaf.toNat
def coded (ws : List Nat) : State :=
  { (ws.zipIdx.foldl (fun s p => s.writeNat (.hbm (0x50000 + 4 * p.2)) 4 p.1) mapped) with
    harts := [(h0, { mapped.hart with pc := 0x200000 })] }
def repeated (pos pass count : Nat) : State :=
  on fun h => { h with rpt := some { body := 0x10000, words := [], n1 := 1, count := count, pass := pass, pos := pos, sd := 0, sa := 0, sb := 0 } }
theorem witness_Repeats : (∀ p ∈ [(0, 0x04008000, true), (1, 0xF8000001, false)],
      (match (coded [p.1, p.2.1]).fetchBody h0 ((coded []).hart.pc + 4) 255 0 0 0 1 with
       | (s', .ok _) => p.2.2 && decide (s'.focus = h0)
       | (_, .error (.fault _)) => !p.2.2
       | _ => false) = true) ∧ (255 : BitVec 8) ≠ 0 := by decide +kernel
/-- The body SUB r3, r1, r2 of an RPT at VA 0x20_0000, held decoded. -/
def held : State := (coded []).mod fun h => { h with
  ops := [{ root := 0, block := 0x200000 / 32, major := h.major, minor := h.minor, words := [0, 0x00611402] }] }
theorem witness_Repeats_held : HoldsWord held (held.hart.pc + 4 + BitVec.ofNat 64 0) 0x00611402 ∧ FourWays held.hart ∧ Captures 8 3 0 0 0x00611402 := by
  refine ⟨⟨by decide +kernel, by decide +kernel, by decide +kernel, ⟨_, _, rfl⟩, by decide +kernel⟩, fun n => ?_, ⟨_, _, rfl, rfl, by decide +kernel⟩⟩
  exact Nat.le_trans (List.length_filter_le _ _) (by decide +kernel)
/-- A body that ends in TRET, which no repeat captures. -/
def heldTret : State := (coded []).mod fun h => { h with
  ops := [{ root := 0, block := 0x200000 / 32, major := h.major, minor := h.minor, words := [0, 0x00611402, 0xF8000001] }] }
theorem witness_Repeats_fault :
    (∀ k, k < 2 → HoldsWord heldTret (heldTret.hart.pc + 4 + BitVec.ofNat 64 (4 * k)) ([(0x00611402 : IWord), 0xF8000001].getD k 0)) ∧
    (∀ k, k < 1 → bodyFault k ([(0x00611402 : IWord), 0xF8000001].getD k 0) 8 3 0 0 = none) ∧
    (∃ f, bodyFault 1 ([(0x00611402 : IWord), 0xF8000001].getD 1 0) 8 3 0 0 = some f) ∧ FourWays heldTret.hart := by
  refine ⟨fun k hk => ?_, fun k hk => ?_, ⟨_, rfl⟩, fun n => ?_⟩
  · match k, hk with
    | 0, _ => exact ⟨by decide +kernel, by decide +kernel, by decide +kernel, ⟨_, _, rfl⟩, by decide +kernel⟩
    | 1, _ => exact ⟨by decide +kernel, by decide +kernel, by decide +kernel, ⟨_, _, rfl⟩, by decide +kernel⟩
  · match k, hk with
    | 0, _ => rfl
  · exact Nat.le_trans (List.length_filter_le _ _) (by decide +kernel)
/-- SUB r3, r1, r2 on the third pass of a repeat with a stride of 3 on d. -/
def strides : State := on fun h =>
  { h with rpt := some { body := 0x10000, words := [0x00611402], n1 := 0, count := 8, pass := 2, pos := 0, sd := 3, sa := 0, sb := 1 } }
theorem witness_Repeats_strides : ∃ r fs, (strides.hartOf h0).rpt = some r ∧ decode (r.words.getD r.pos 0) = .ok (.sub 3 1 2 true) ∧
    strided (.sub 3 1 2 true) = some fs ∧ ∀ f ∈ fs, f.2.2 + r.pass * strideOf r.sd r.sa r.sb f.1 ≤ f.2.1 :=
  ⟨_, _, rfl, rfl, rfl, by decide +kernel⟩
/-- The strides 1, 0 and 2 of thirty passes take d of that word to 32. -/
theorem witness_Repeats_range : ∃ f after, strided (.sub 3 1 2 true) = some ([] ++ f :: after) ∧
    ¬f.2.2 + (30 - 1) * strideOf 1 0 2 f.1 ≤ f.2.1 := ⟨_, _, rfl, by decide +kernel⟩
/-- A hart that is to resume a repeat of one word at its place: COUNT 8, PASS 2. -/
def resumed (w : Nat) : State := { (coded [w]).mod fun h => { h with resume := some 0x8000000200020000 } with
  factors := { (coded []).factors with started := true } }
theorem witness_Repeats_resumes : ∀ p ∈ [(0x04008000, true), (0xF8000001, false)], let s := resumed p.1
    s.agenda = [] ∧ s.factors.started = true ∧ s.boundary s.focus = none ∧ s.hart.run = .running ∧ s.reissueDue s.focus = false ∧
      s.hart.resume.isSome = true ∧ (match s.fetchBody s.focus s.hart.pc 8 0 0 0 1 with
       | (_, .ok _) => p.2
       | (_, .error (.fault _)) => !p.2
       | _ => false) = true := by decide +kernel
theorem witness_Repeats_positions : (∀ p ∈ [(0, 0, 2), (1, 0, 2), (1, 1, 2)], (repeated p.1 p.2.1 p.2.2).hart.rpt.isSome = true) ∧ (0 : Nat) < 1 ∧
    (1 ≤ 1 ∧ 0 + 1 < 2) ∧ 2 ≤ 1 + 1 := by decide +kernel
theorem witness_Repeats_bodies : (decode 0xF8000001 = .ok .tret ∧ strided .tret = none) ∧
    (decode 0b000000_00011_00001_00010_1_0000000010 = .ok (.sub 3 1 2 true) ∧
      ∃ fs, strided (.sub 3 1 2 true) = some fs ∧ ∀ f ∈ fs, f.2.2 + (8 - 1) * strideOf 3 0 0 f.1 ≤ f.2.1) := by
  exact ⟨⟨rfl, rfl⟩, rfl, _, rfl, by decide +kernel⟩
theorem witness_BoundaryEvents : (let x := (on fun h => { h with stepPend := some true }).hart
      x.stepPend = some true ∧ x.run = .running) ∧
    (∀ c ∈ [0x08, 0x0E], let x := (on fun h => { h with posted := [{ cause := c, info := 0, addr := none }] }).hart
      x.posted = [{ cause := c, info := 0, addr := none }] ∧ x.run ≠ .halted) ∧
    (let x := (on fun h => { h with irqs := [7, 8] }).hart
     x.irqs = 7 :: [8] ∧ x.run ≠ .halted ∧ bits x.sy.status 0 2 = 0) ∧
    (bits (status 0x11 base.hart).sy.status 0 2 = 1 ∧ (status 0x11 base.hart).sy.status.getLsbD 4 = true) ∧
    (let x := (on fun h => { h with wfeDue := some 9, run := .sleeping }).hart
     x.wfeDue = some 9 ∧ x.run = .sleeping) := by decide +kernel
def entry (khdr : Word) (reserved : Word) : List Word := [khdr, 0, reserved, 0x1000000000000040, 1, 9, 0, 0]
def launch (khdr : Word) (st : LaunchState) (left : List HartId) : Launch :=
  { id := 4, index := 2, words := entry khdr 0, state := st, header := none, status := 0, readable := true, fill := false, waits := none, vector := 0,
    left := left, ended := [] }
def q5 : Queue := { Queue.reset with cfg0 := 0x200002, cfg1 := 0x10001, head := 3, tail := 3 }
def fe (q : Queue) : State := { tables with queues := [(5, q)] }
/-- Words of page 5 from an offset on. -/
def stored (off : Nat) (ws : List Word) (s : State) : State := ws.zipIdx.foldl (fun s p => s.writeNat (.hbm (0x50000 + off + 8 * p.2)) 8 p.1.toNat) s
theorem witness_QueueSteps_registers : (((4 : BitVec 32) - q5.head).toNat ≤ 2 ^ q5.lsize ∧ ((7 : BitVec 32) - q5.head).toNat ≤ 2 ^ q5.lsize ∧
      2 ^ q5.lsize < ((8 : BitVec 32) - q5.head).toNat) ∧ (q5.head = q5.tail ∧ q5.launches = []) ∧
    (let l := launch 0 .pending []
     let q := { q5 with launches := [l] }
     q.launches = [l] ∧ l.readable = true ∧ l.seq = (9 : Word).toNat % 2 ^ 32 ∧ (q.head - BitVec.ofNat 32 l.index).toNat ≤ 2 ^ q.lsize ∧
       l.state = .pending ∧ (launch 0 .dispatched []).state = .dispatched ∧ (launch 0 .done []).state = .done) ∧
    ((fe q5).queueLocked 5 = false ∧ Queue.reset.en = false ∧ q5.en = true ∧ q5.killed = false) := by decide +kernel
theorem witness_QueueSteps_entry : ∀ r ∈ [0, 2 ^ 28],
    let q := { q5 with tail := 4 }
    let s := stored 0xC0 (entry 0x208000 (BitVec.ofNat 64 r)) (fe q)
    q.head ≠ q.tail ∧ q.current = none ∧ (∀ l ∈ q.launches, l.index ≠ q.head.toNat) ∧ entryOk (entry 0x208000 (BitVec.ofNat 64 r)) = (r == 0) ∧
      (match s.feRead q.tabId false 8 (q.entryVa q.head.toNat) with
       | (s', some ws) => ws == entry 0x208000 (BitVec.ofNat 64 r) && decide (s'.queues = s.queues) && s'.nextId == s.nextId &&
           (match s'.feHome q.tabId needW (ws.getD 3 0) with | (_, some h) => h.isHost == false | _ => false) &&
           (s'.cachedHeader q.tabId (ws.getD 0 0)).isNone
       | _ => false) = true := by decide +kernel
/-- A header of one stage of gangs of two tiles: native, or of another form, or none. -/
def hdr : List (Nat × List Word) :=
  [(1, [0x000100014B444D55, 0x0000000101020101, 0x40, 0, 0x200, 0x100, 0, 0]), (2, [0x000101014B444D55, 0x0000000101020101, 0x40, 0, 0x200, 0x100, 0x180, 0]),
   (0, [0])]
theorem witness_QueueSteps_header : ∀ p ∈ hdr,
    let l := launch 0x208000 .pending []
    let q := { q5 with launches := [l] }
    let s := stored 0x8000 p.2 (fe q)
    q.current = some l ∧ l.header = none ∧ l.waits = none ∧
      (match s.selectImage q.tabId l.khdr with
       | (s', .bad) => p.1 == 0 && decide (s'.queues = s.queues)
       | (s', .evi _) => p.1 == 2 && decide (s'.queues = s.queues)
       | (s', .native h) => p.1 == 1 && decide (s'.queues = s.queues) && (match s'.tab? q.tabId with
           | some y => decide (h.slice ≤ y.args.sliceMax) && y.shape == some (h.gw, h.gh) && decide (l.s0 + l.stages ≤ y.args.stages) &&
               decide (l.g0 + l.gangs ≤ y.args.gangs)
           | none => false)) = true := by decide +kernel
def chosen : Header :=
  { queueOnly := false, stages := 1, gw := 2, gh := 1, entry := 0x200100, cend := 0x200200, slice := 64, ng := 1, nv := 1, major := 1, minor := 0, groups := [] }
theorem witness_QueueSteps : (let l := { launch 0x208000 .pending [] with header := some chosen }
      let q := { q5 with launches := [l] }
      q.current = some l ∧ l.header = some chosen ∧ q.gate = none ∧ l.serial = false) ∧
    (let l := launch 0x208000 .dispatched []
     let q := { q5 with launches := [l] }
     q.launches.find? (fun k => k.id == l.id) = some l ∧ l.state = .dispatched ∧ l.left = [] ∧ l.readable = true ∧ l.cword.toNat % 8 = 0 ∧
       tl.tab = q.tabId ∧ (fe q).launchQuiet l = true) ∧ ReachedSlice (fe q5) tl 0x1000000000000040 0x40 := by
  unfold ReachedSlice; decide +kernel
def gate (tries : Nat) (linked : Option Home) : Gate :=
  { va := 0x1000000000000040, tries := tries, due := 0, linked := linked, woken := linked.isSome, full := none }
/-- A launch that is ready behind a gate whose word has a tag. -/
def readied : Launch := { launch 0x208000 .pending [] with header := some chosen }
def gated (g : Gate) (x : Tag) : State := { (fe { q5 with gate := some g, launches := [readied] }).setTag (.slice tl 0x40) x with
  wakes := [{ id := 5, tab := 1, hart := none, queue := 5, more := false }] }
theorem witness_GateAndKillSteps : ∀ g ∈ [gate 63 none, gate 64 (some (.slice tl 0x40))], let s := gated g .full
    s.latentUE = [] ∧ (s.queue 5).gate = some g ∧ (s.queue 5).ready = some (readied, chosen) ∧ g.full ≠ some readied.id ∧
      tl.tab = (s.queue 5).tabId ∧ ReachedSlice s tl g.va 0x40 ∧ (g.linked = none ∨ g.woken = true) ∧ s.tagOf (.slice tl 0x40) = .full ∧
      (gated g .empty).tagOf (.slice tl 0x40) = .empty ∧ (g.linked = none → g.tries < Hart.reset.schedule.2.2) ∧
      s.wakes.any (fun m => m.hart.isNone && m.queue == 5) = true := by
  unfold ReachedSlice; decide +kernel
/-- A tableau that is being killed while an array works for it. -/
def working : State :=
  { base with tabs := [(1, { tableau with alive := false })], clusters := [(0, { Cluster.reset with array := { Lane.reset with run := some (h0, 9) } })] }
/-- A killed tableau's store to page 5 in flight while an array works for it. -/
def finishing : State :=
  { mapped with clusters := working.clusters, queues := [], ops :=
      [{ id := 9, hart := h0, kind := .store, rel := false, dest := none, val := 0, x := 0, y := 0, sched := (0, 0, 0), who := [(h0, 9)],
         parts := [{ home := .hbm 0x5FFC0, va := 0x20FFC0, reads := [], writes := [{ off := 0, mask := 255, data := 7, whole := true }], route := .anchor }] }] }
theorem witness_GateAndKillSteps_finish : finishing.enginesQuiet 1 = false ∧ (finishing.tab? 1).any (fun x => x.alive) = true ∧
    (∀ p ∈ finishing.harts, p.2.mxq = []) ∧ Hart.reset.mxq = [] ∧ (∀ y ∈ finishing.tiles, y.2.wbuf = []) ∧ (finishing.ops.all fun o => o.parts.all fun p => !p.over) = true ∧
    finishing.pageOk (.hbm 0x5FFC0) = true ∧ (∀ j < 128, finishing.plain (.hbm (0x5FFC0 + j)) = true) ∧
    (match execTblKill 1 finishing with | .next t => t.readNat (.hbm 0x5FFC0) 8 | _ => 0) = 7 := by decide +kernel
theorem witness_GateAndKillSteps_kill : (base.tab? 1 = some tableau ∧ base.enginesQuiet 1 = true ∧ tableau.alive = true) ∧
    (working.enginesQuiet 1 = false ∧ (working.tab? 1).any (fun x => !x.alive) = true) := by decide +kernel
/-- A gang in a scheduling state, its tiles' entries in a map state. -/
def scheduled (st : GangState) (sc : SchedState) (e : MapState) (f : Gang → Gang) (h : Hart → Hart) : State :=
  { on h with
    gangs := [(gg, f { Gang.reset with st := st, sched := sc })]
    tiles := [(tl, { Tile.reset with entry := { MapEntry.reset with st := e } }), (⟨1, 1⟩, { Tile.reset with entry := { MapEntry.reset with st := e, ptile := 1 } })] }
def pass : State := { scheduled .absent .runnable .absent id id with ostler := { State.reset.ostler with due := true } }
theorem witness_OstlerSteps_pass : (base.ostler.due = false ∧ pass.ostler.due = true ∧ pass.factors.deciding = true) ∧
    (let s := ({ pass with ostler := { pass.ostler with due := false, lastPass := pass.now } } : State).answers'
     s.runnable = [[gg]] ∧ s.starving [gg] = false ∧ s.leavers [] [[gg]] = [] ∧
       (s.choose gg (fun q => freeFor [] [gg] q && !(s.occupancy.any fun o => o.1 == q))).isSome = true) := by decide +kernel
def halted (h : Hart) : Hart := { h with run := .halted, stopped := true }
theorem witness_OstlerSteps : (base.gang gg).sched = .running ∧ (base.gang gg).expired = false ∧
    (let s := base.modTile tl fun t => { t with slotClearing := true, entry := { t.entry with lslot := some 0 } }
     (s.tile tl).slotClearing = true ∧ (s.mapEntry tl).lslot.isSome = true ∧ s.mem.wf = true ∧ s.validVt tl = true ∧ (s.mapHome tl).key + 8 ≤ 2 ^ 42) ∧
    (let s := scheduled .resident .stopping .resident id (sy fun y => { y with preq := 1 })
     (s.gang gg).sched = .stopping ∧ (s.hartOf h0).preqPend = true ∧ (base.hartOf h0).preqPend = false ∧
       ((on fun h => { h with run := .parked }).hartOf h0).run ≠ .running) := by decide +kernel
theorem witness_OstlerSteps_forced : (let s := { scheduled .resident .stopping .resident id id with
        harts := (base.gangHarts gg).map fun h => (h, { Hart.reset with sy := { Sys.reset with preq := 1 } }) }
      ∀ h ∈ s.gangHarts gg, (s.hartOf h).preqPend = true) := by decide +kernel
theorem witness_OstlerSteps_swap : (let s := scheduled .resident .saving .resident id halted
      (s.gang gg).sched = .saving ∧ s.lives gg.tab = true ∧ (∀ h ∈ s.gangHarts gg, (s.hartOf h).run = .halted) ∧ s.shadowRoom gg = true ∧ (s.gang gg).st ≠ .settlingOut) ∧
    (let s := scheduled .settlingOut .runnable .settling (fun g => { g with inShadow := true }) halted
     (s.gang gg).inShadow = true ∧ (s.gang gg).st = .settlingOut ∧ s.latentUE = []) ∧
    (let s := scheduled .settlingIn .placing .settling id halted
     s.tab? gg.tab = some tableau ∧ tableau.alive = true ∧ (s.gang gg).sched = .placing ∧ tableau.args.tiles ≤ 64 ∧ s.latentUE = [] ∧ (s.hartOf h0).stopped = true ∧
       s.gangTiles gg = [tl, ⟨1, 1⟩] ∧ (s.rectOf gg).length = 2) := by decide +kernel
theorem witness_OstlerSteps_granules : (let s := matrix 0x111111 0 0 0 []
      find (6 : BitVec 6) (s.tile tl).bmap = some bname ∧ (find bname.gid s.granules).isSome = true ∧ (s.gang tl.gang).inShadow = false ∧
        (some 1 ≠ s.standsOn tl) ∧ s.resident tl = true) := by decide +kernel
/-- A firmware call of a hart or of a port, by its code, with its arguments in its block. -/
def calling (c : Caller) (code : Nat) (args : List Nat) (s : State) : State :=
  let s := args.zipIdx.foldl (fun s p => s.writeNat (.hbm (0x50008 + 8 * p.2)) 8 p.1) s
  { s with calls := [(c, { FwCall.reset with busy := true, reg := BitVec.ofNat 64 (2 ^ 48 * code), block := some (.hbm 0x50000) })] }
def port : Caller := .port 3
def store (va : Word) : StoreArgs := { port := 0, nspace := 0, lba := 0, count := 1, tab := 1, va := va, key := none }
/-- The words of TBL_CREATE's block that name the arguments of the small tableau. -/
def tblBlock : List Nat := [0x200010001, 4194304, 4096, 40000 * 2 ^ 32 + 10, 0, 0, 0x20000]
/-- The arguments of one call of each code, in the order of R399, and whether PF0 alone makes it. -/
def callWords : List (Nat × Bool × List Nat) :=
  [(1, false, [1]), (2, false, [5, 1]), (3, false, [5, 1, 1, 0]), (4, false, [0x1000000000400000]), (5, false, [1, 15, 7]), (6, false, [64, 2 ^ 31, 65535]),
   (7, false, 1 :: (digestWords (List.replicate 32 9) ++ [0x208000])), (8, false, [1, 575, 0xFFFF, 2]), (9, true, tblBlock),
   (0x0A, true, [5, 3, 255]), (0x0B, false, [5, 0x1000000000000040]), (0x0C, true, [5, 6, 0, 100]), (0x0D, false, storeBlock (store 0x200000)),
   (0x0E, false, storeBlock (store 0x200000)), (0x0F, false, [1, 1, 3, 9])]
theorem witness_CallRuns : ∀ p ∈ callWords,
    CallRuns port p.1 (some 1) p.2.1 p.2.2 (calling port p.1 p.2.2 mapped) ∧
    (p.2.1 = false → CallRuns (.hart h0) p.1 (some 1) false p.2.2 (calling (.hart h0) p.1 p.2.2 mapped)) ∧
    (p.2.1 = true ∨ p.1 = 0x0F → CallAsked (.hart h0) p.1 p.2.2 (calling (.hart h0) p.1 p.2.2 mapped)) := by
  have asked : ∀ p ∈ callWords, CallAsked port p.1 p.2.2 (calling port p.1 p.2.2 mapped) ∧
      CallAsked (.hart h0) p.1 p.2.2 (calling (.hart h0) p.1 p.2.2 mapped) := by unfold CallAsked; decide +kernel
  intro p hp
  refine ⟨⟨(asked p hp).1, fun h e => by cases e⟩, fun _ => ⟨(asked p hp).2, fun h e => ?_⟩, fun _ => (asked p hp).2⟩
  cases e; exact ⟨rfl, .inr rfl⟩
theorem witness_FirmwareSteps_denied : (2 : BitVec 16) ≠ h0.tile.tab := by decide
theorem witness_FirmwareSteps_memory : mapped.mem.wf = true ∧ mapped.findRun (2 ^ 26) = none ∧ mapped.findRun 1 = some 0 ∧ mapped.freeFrame 0 = some 0 ∧
    mapped.namesPages 5 2 = false ∧ mapped.namesPages 5 1 = true ∧ mapped.looseFrom 5 1 = true ∧
    ({ mapped with dpit := [(112, { pin := true, valid := true, frame := 0, stk := 48, exported := false })] } : State).looseFrom 112 1 = false ∧ (5 ≤ 5 ∧ 5 < 5 + 1) ∧ (find 5 mapped.dpit).isSome = true := by decide +kernel
/-- The sixty-four entries of a routine table at offset 0 of slice 1, the last with a header word. -/
def routines (hd : Nat) : State := ((calling (.hart h0) 4 [0x1000000000400000] mapped).writeNat (.slice ⟨1, 1⟩ 0xFC0) 8 hd)
def readsRoutines (hd : Nat) (good : Bool) : Bool :=
  match (routines hd).callRead (.hart h0) ((routines hd).call (.hart h0) |>.reg.getLsbD 56) 512 0x1000000000400000 with
  | (_, some ws) => (List.range 64).all fun k => routineOk ((ws.drop (8 * k)).take 8) == (good || k != 63)
  | _ => false
theorem witness_FirmwareSteps_routines : readsRoutines 0 true = true ∧ readsRoutines 16 false = true ∧
    (routines 0).holdsArgs (.hart h0) [0x1000000000400000] = true := by decide +kernel
theorem witness_FirmwareSteps_tableau : mapped.tab? 1 = some tableau ∧ (15 : BitVec 4) ≠ 0 ∧ ((64 : Word).toNat % 64 = 0 ∧ 31 < 32 ∧ 65535 < 65536) ∧
    (List.replicate 32 (0 : Byte)).length = 32 ∧ 576 ≤ 576 ∧ (575 < 576 ∧ 0xFFFF ≤ 0xFFFF) ∧
    (mapped.tblOk { args with stages := 17 } = false ∧ mapped.tblOk args = true ∧ mapped.newTab = some 2 ∧ mapped.findRun (areaPages args) = some 6 ∧
      ({ mapped with loftSize := 2 ^ 19 } : State).findRun (areaPages args) = none ∧ mapped.mem.wf = true) ∧
    mapped.validVt ⟨1, 1⟩ = true := by decide +kernel
theorem witness_FirmwareSteps_queues : (fe q5).queueLocked 5 = false ∧ ({ fe q5 with tdis := [(0, 0)] } : State).queueLocked 5 = true ∧
    (let va : Word := 0x1000000000000040
     va ≠ 0 ∧ range va = .slice 0 0x40 ∧ (fe q5).feHome ((fe q5).queue 5).tabId needR va = (fe q5, some (.slice tl 0x40)) ∧ va.toNat % 8 = 0 ∧
       range (va + 1) = .slice 0 0x41 ∧ (va + 1).toNat % 8 ≠ 0 ∧
       (fe q5).feHome ((fe q5).queue 5).tabId needR (va + 1) = (fe q5, some (.slice tl 0x41))) ∧
    ((fe q5).queue 6).active = false ∧ ((fe q5).queue 5).migration = none ∧ (5 : BitVec 12) ≠ 6 := by decide +kernel
def migrating (g : Option Gate) : State :=
  fe { q5 with gate := g, migration := some { caller := port, dst := 6, wafer := 0, newGate := 0, deadline := 0 } }
def gateNow (s : State) : Option (Option Bool) :=
  match s.gateOpen 5 with
  | (s', b) => if s'.queue 5 = s.queue 5 ∧ s'.queue 6 = s.queue 6 then some b else none
theorem witness_FirmwareSteps_migrate : (((migrating none).queue 5).migration.isSome = true ∧ ((migrating none).queue 5).still = true ∧ (6 : BitVec 12) ≠ 5) ∧
    gateNow (migrating none) = some (some true) ∧
    (let s := (migrating (some (gate 0 none))).setTag (.slice tl 0x40) .empty
     gateNow (s.reach 0) = some (some false) ∧ (s.queue 5).gate = some (gate 0 none)) := by decide +kernel
theorem witness_FirmwareSteps_store : (∀ p ∈ [(0x200000, true), (0x400000, false)], ∀ need ∈ [needR, needW],
      let s := calling (.hart h0) 0x0D (storeBlock (store (BitVec.ofNat 64 p.1))) tables
      (match s.storeArgs (store (BitVec.ofNat 64 p.1)) need with
       | (s', b) => b == p.2 && decide (s'.calls = s.calls)) = true) ∧
    (let t : Transfer := { caller := .hart h0, write := false, args := store 0x200000 }
     let s : State := { tables with transfer := [t] }
     s.transfer.find? (fun t => t.caller = .hart h0) = some t ∧ t.args.key = none) ∧
    (let s : State := { tables with transfer := [] }
     (s.feRead 1 false 512 0x1000000000000000).2.isSome = true) := by decide +kernel
def answered (b : Home) : State :=
  { mapped with calls := [(port, { FwCall.reset with busy := true, block := some b, status := some 0x4000000000000007, started := true })] }
theorem witness_FirmwareSteps : (let s := answered (.host 3 64)
      (s.call port).busy = true ∧ (s.call port).status = some 0x4000000000000007 ∧ (s.call port).block = some (.host 3 64) ∧ (s.call port).outs = [] ∧
        (Home.host 3 64).isHost = true ∧ s.mem.wf = true) ∧
    (let s := (answered (.hbm 0x50000)).setTag (.hbm 0x50000) .empty
     s.latentUE = [] ∧ s.mem.wf = true ∧ s.tagOf (.hbm 0x50000) = .empty ∧ (0x4000000000000007 : Word).getLsbD 63 = false) := by decide +kernel
def powered (m : BitVec 2) : State := { base with power := { mode := 0, next := some m } }
theorem witness_DeviceSteps : ((0x0104000000000000 : Word).getLsbD 56 = true ∧ mapped.factors.started = true ∧ ((calling port 1 [1] mapped).call port).busy = true ∧
      (mapped.call port).busy = false) ∧ (3 : Word).setWidth 2 = (3 : BitVec 2) ∧ (2 : Word).setWidth 2 ≠ (3 : BitVec 2) ∧
    (powered 1).power.next = some 1 ∧
    (let s : State := { mapped with cxlPorts := 8 }
     ((dpaWords 0x5FFFC 4).all fun w => s.hostReaches 3 w.key) = true ∧ ((dpaWords 0x5FFFC 4).all fun w => s.pageOk w) = true ∧ s.latentUE = [] ∧
       (∀ w ∈ dpaWords 0x5FFFC 4, s.tagOf w ≠ .poison) ∧ (∃ w ∈ dpaWords 0x5FFFC 4, (s.setTag (.hbm 0x5FFF8) .poison).tagOf w = .poison)) ∧
    (let s : State := { mapped with cxlPorts := 8 }
     (0x5FFF8 : BitVec 42).toNat % 8 = 0 ∧ s.hostReaches 3 0x5FFF8 = true ∧ s.pageOk (.hbm 0x5FFF8) = true ∧ s.mem.wf = true ∧ s.tagOf (.hbm 0x5FFF8) ≠ .poison ∧
       (s.setTag (.hbm 0x5FFF8) .poison).tagOf (.hbm 0x5FFF8) = .poison) := by decide +kernel
theorem witness_DeviceSteps_drover : ({ base.drover with ctl := 0 } : Drover).en = false ∧ base.drover.en = true ∧
    (let s : State := { mapped with drover := { mapped.drover with moves := [(5, 63)] } }
     s.drover.moves.find? (fun m => m.1 == 5) = some (5, 63) ∧ s.movable (5, 63) = true ∧ 5 ∉ s.drover.moved ∧ s.freeFrame 63 = some 0 ∧
       s.drover.used + 1 ≤ s.drover.limit ∧ (find 5 s.dpit).isSome = true ∧ s.latentUE = []) ∧
    ((63 < 64 ∧ 1 ≤ 16 ∧ 16 ≤ 16) ∧ 64 ≤ 64) ∧ 2 ^ 42 - 1 < 2 ^ 42 ∧ mapped.mem.wf = true := by decide +kernel
theorem witness_DeviceSteps_part : (let s : State := { base with factors := { base.factors with started := false, recovery := true } }
      s.factors.started = false ∧ s.factors.recovery = true) ∧ base.factors.started = true ∧ base.tab? 1 = some tableau ∧
    (∀ c ∈ corners [{ x0 := 0, y0 := 0, x1 := 1, y1 := 1 }], inShare [{ x0 := 0, y0 := 0, x1 := 1, y1 := 1 }] (c.2 * 112 + c.1) = true →
      inShare tableau.args.share (c.2 * 112 + c.1) = true) ∧ (255 : BitVec 8) ≠ 0 ∧ base.factors.deciding = true ∧
    (let s : State := { base with factors := { base.factors with deciding := false, live := (Vector.replicate 64 false).set! 63 true } }
     s.factors.deciding = false ∧ s.factors.live.getD 63 false = true ∧ ∀ g, g < 63 → s.factors.live.getD g false = false) := by decide +kernel
theorem eraseDups_nodup {l : List Nat} (h : l.Nodup) : l.eraseDups = l := by
  induction l with
  | nil => rfl
  | cons a l ih =>
    have h' := List.nodup_cons.1 h
    rw [List.eraseDups_cons, List.filter_eq_self.2, ih h'.2]
    intro b hb
    have : b ≠ a := fun e => h'.1 (e ▸ hb)
    simpa using this
theorem witness_DeviceSteps_start : binOk (retiredBy { tiles := [0, 1], engines := [3135] }) = true ∧
    binOk (retiredBy { tiles := List.range 1281, engines := [] }) = false ∧ binOk State.reset.retired = true := by
  refine ⟨by decide, ?_, by decide⟩
  have f : (List.range 1281).filter (fun p => decide (p < 12544)) = List.range 1281 :=
    List.filter_eq_self.2 fun p hp => by simpa using Nat.lt_trans (List.mem_range.1 hp) (by decide)
  simp only [retiredBy, f, List.filter_nil, List.flatMap_nil, List.append_nil, eraseDups_nodup List.nodup_range, binOk, List.length_range]
  decide
theorem witness_DeviceSteps_map : base.validVt ⟨1, 2⟩ = false ∧ base.validVt tl = true ∧
    (∀ i j, i ≤ j → j < 8 → 1 ≤ [1, 1, 1, 16, 16, 16, 16, 16].getD i 0 ∧ [1, 1, 1, 16, 16, 16, 16, 16].getD i 0 ≤ [1, 1, 1, 16, 16, 16, 16, 16].getD j 0 ∧
      [1, 1, 1, 16, 16, 16, 16, 16].getD j 0 ≤ 16) := by
  refine ⟨by decide +kernel, by decide +kernel, fun i j hi hj => ?_⟩
  have h : ∀ j < 8, ∀ i ≤ j, 1 ≤ [1, 1, 1, 16, 16, 16, 16, 16].getD i 0 ∧ [1, 1, 1, 16, 16, 16, 16, 16].getD i 0 ≤ [1, 1, 1, 16, 16, 16, 16, 16].getD j 0 ∧
      [1, 1, 1, 16, 16, 16, 16, 16].getD j 0 ≤ 16 := by decide
  exact h j hj i hi
theorem witness_DeviceSteps_shrink : ¬(∀ c ∈ corners [{ x0 := 0, y0 := 0, x1 := 4, y1 := 0 }],
    inShare [{ x0 := 0, y0 := 0, x1 := 4, y1 := 0 }] (c.2 * 112 + c.1) = true → inShare tableau.args.share (c.2 * 112 + c.1) = true) := by decide +kernel
/-- A record of a KIND, exhausted or outstanding, that names register 3. -/
def recordOf (k : Nat) (pend : Bool) : State := on fun h => (({ h with sy := { h.sy with ferec := 0x8006000000000000 } }).setFe 59 3 k).setFe 62 1 (b2n pend)
theorem witness_SywForms_record : (∀ k ∈ [0, 1, 2, 3, 4], (0x7FFFFFFFFFFFFFFF : Word).getLsbD 63 = false ∧ (recordOf k false).hart.feV = true ∧
      (recordOf k false).hart.fePend = false ∧ (recordOf k false).hart.feKind = k) ∧
    ((1 <<< 63 : Word).getLsbD 63 = true ∧ base.hart.feV = false ∧ (recordOf 1 true).hart.fePend = true) ∧
    ((0x11 : BitVec 11).toNat ∈ systemRegisters ∧ (0x15 : BitVec 11).toNat ∈ systemRegisters ∧ mayWrite (bits base.hart.sy.status 0 2) 0x11 ∧
      mayWrite (bits base.hart.sy.status 0 2) 0x15 ∧ base.hart.ready [gRef 31] = true) := by
  unfold mayWrite readOnly; exact ⟨by decide +kernel, by decide +kernel, by decide, by decide, by decide, by decide, by decide +kernel⟩
/-- The hart asks for a tableau-wide form, with the other tile resident or not, and messages of the form under way. -/
def asking (k : Word) (there : Bool) (ms : List InvMsg) : State :=
  let s := { kinds 1 k with invs := ms }
  if there then s else s.modTile ⟨1, 1⟩ fun t => { t with entry := { t.entry with st := .absent } }
theorem witness_RemoteInvalidation_issue : ∀ p ∈ [((2 : Nat), true), (3, true), (2, false)],
    let k : Word := BitVec.ofNat 64 p.1
    let m := fun (acked : Bool) => { invMsg p.2 p.1 with tile := ⟨1, 1⟩, addr := k, acked := acked }
    let rest := fun (s : State) => (s.tiles.map (·.1)).filter fun u => u.tab == s.focus.tile.tab && decide (u ≠ s.focus.tile)
    (∀ b ∈ [true, false], let s := asking k b []
      s.hart.ready [gRef 1] = true ∧ bits s.hart.sy.status 0 2 ≠ 0 ∧ bits (s.hart.gr 1) 0 3 = p.1 ∧ s.unwritten s.focus none = false ∧
        s.sentInvs p.2 p.1 (s.hart.gr 1) = [] ∧ rest s = [⟨1, 1⟩] ∧ s.resident ⟨1, 1⟩ = b) ∧
    (∀ b ∈ [true, false], (asking k true [m b]).sentInvs p.2 p.1 k = [m b]) := by
  unfold State.sentInvs; decide +kernel
theorem witness_RemoteInvalidation_kinds : (({ base with invs := [invMsg true 2] } : State).invs.find? (fun q => q.id == 7)) = some (invMsg true 2) := by
  decide +kernel
/-- The turn passes by a hart, by a run of the test. -/
def passesBy (s : State) (h : HartId) : Bool := match (s.hartOf h).vq with
  | [] => true
  | o :: _ => decide (s.turnCredit h < o.cost)
theorem passesBy_sound {s : State} {h : HartId} (e : passesBy s h = true) : s.turnPasses h := by
  unfold passesBy at e; unfold State.turnPasses
  split <;> simp_all
/-- A vector memory access at the head of a queue. -/
def vmem (cost : Nat) : VOp := { cost := cost, dest := none, val := 0, op := some 3 }
def queues (w : Word) (os : List VOp) (h : Hart) : Hart := { h with vq := os, sy := { h.sy with vshare := w } }
theorem witness_VectorUnitIssues_turns : (let s := (on (queues 4 [])).modHart ⟨tl, 1⟩ (queues 4 [vop, vmem 1])
      (s.mapEntry tl).st = .resident ∧ passesBy s (s.turnAt tl 0) = true ∧ (s.hartOf (s.turnAt tl 1)).vq = vop :: [vmem 1] ∧
        (vop.cost : Int) ≤ s.turnCredit (s.turnAt tl 1)) ∧
    (let s := on (queues 4 [vmem 64])
     ∀ m < 4, passesBy s (s.turnAt tl m) = true) ∧
    (let s := (on (queues 4 [vmem 64])).modHart ⟨tl, 3⟩ (queues 1 [vmem 1])
     (∀ m < 3, passesBy s (s.turnAt tl m) = true) ∧ (1 : Int) ≤ s.turnCredit (s.turnAt tl 3)) := by decide +kernel
/-- An exhausted record of a line of the own slice, whose words have these tags. -/
def lined (k off : Nat) (xs : List Tag) : State :=
  let s := xs.zipIdx.foldl (fun s p => s.setTag (.slice tl (off + 8 * p.2)) p.1) (exhaustedOf k off .full)
  s
/-- The tags of a line, all alike but for one word. -/
def tagsBut (x : Tag) (i : Nat) (y : Tag) : List Tag := (List.range 8).map fun j => if j = i then y else x
theorem witness_ParkForms_words : (∀ k ∈ [0, 1, 2], Parks (exhaustedOf k 0x3FFFF8 .parked) 0x3FFFF8 8 ∧ (exhaustedOf k 0x3FFFF8 .parked).hart.feKind = k) ∧
    (exhaustedOf 1 0 .full).hart.sy.preq.getLsbD 0 = false ∧ (exhaustedOf 2 0 .poison).tagOf ((exhaustedOf 2 0 .poison).ownHome 0) = .poison ∧
    ((exhaustedOf 1 0 .full).mod fun h => { h with more := true }).hart.more = true := by
  unfold Parks Unheld OwnBytes NoParkRecord; decide +kernel
theorem witness_ParkForms_lines : (∀ k ∈ [3, 4], ∀ x ∈ [Tag.full, .empty, .poison], ∀ i ∈ [0, 7], let s := lined k 0x3FFFC0 (tagsBut .parked i x)
      Parks s 0x3FFFC0 64 ∧ s.hart.feKind = k ∧ s.lineTag 0x3FFFC0 i = x ∧ (∀ j < 8, j ≠ i → s.lineTag 0x3FFFC0 j = .parked) ∧
        s.hart.sy.preq.getLsbD 0 = false) ∧
    (∀ k ∈ [3, 4], ∀ x ∈ [Tag.full, .empty], ∀ i < 8, (lined k 0 (tagsBut x 0 x)).lineTag 0 i = x) := by
  unfold Parks Unheld OwnBytes NoParkRecord State.lineTag; decide +kernel
theorem witness_ResultsArrive_none : (let o := { flight (.load 8 true) away .done with dest := none }
     ({ mapped with ops := [o] } : State).op? o.id = some o ∧ o.over = true ∧ o.kind.storeLike = false ∧ o.isRefill = false ∧ o.dest = none) := by
  decide +kernel
theorem witness_HomesServe_held : (let o := flight (.fe 1) away (.retry 3 100)
      let s := (flying (.fe 1) away (.retry 3 100)).modTile ⟨1, 1⟩ fun t => { t with entry := { t.entry with st := .absent, fresh := true } }
      (s.piece 9 0).isSome = true ∧ o.parts = part away (.retry 3 100) :: [] ∧ s.homeServes h0 away = false) ∧ mapped.homeServes h0 away = true := by
  decide +kernel
/-- The map entry of tile 1 has an uncorrectable error. -/
def badEntry (s : State) : State := s.modTile ⟨1, 1⟩ fun t => { t with entry := { t.entry with bad := true } }
theorem witness_RoutingSteps_bad : (let s := badEntry (mapped.modTile tl fun t => { t with mapWants := [1] })
      (1 : BitVec 20) ∈ (s.tile tl).mapWants ∧ s.entryBad ⟨1, 1⟩ = true) ∧ mapped.entryBad ⟨1, 1⟩ = false := by decide +kernel
theorem witness_Messages_stale : (let s := posted (.sent 1) 0
      s.msg? 5 = some (sent (.sent 1)) ∧ s.first (sent (.sent 1)) = true ∧ (s.mapEntry ⟨1, 1⟩).gen ≠ 1 ∧ s.entryBad ⟨1, 1⟩ = false) ∧
    (let s := badEntry (posted (.sent 1) 0)
     s.msg? 5 = some (sent (.sent 1)) ∧ s.first (sent (.sent 1)) = true ∧ s.entryBad ⟨1, 1⟩ = true) ∧
    (({ posted (.sent 1) 0 with latentUE := [((posted (.sent 1) 0).mapHome ⟨1, 1⟩).key / 32 * 32] } : State).mapEntry ⟨1, 1⟩).bad = false ∧
    ({ posted (.sent 1) 0 with latentUE := [((posted (.sent 1) 0).mapHome ⟨1, 1⟩).key / 32 * 32] } : State).entryBad ⟨1, 1⟩ = true := by decide +kernel
/-- A message, or a launch record, on its way to the backlog of an absent gang that is idle. -/
def toBacklog (fe : Bool) : State :=
  let s : State := { base with msgs := [{ sent .append with msg := { header := BitVec.ofNat 64 (if fe then 2 ^ 23 else 0), payload := 0 } }] }
  (s.modTile ⟨1, 1⟩ fun t => { t with entry := { t.entry with st := .absent } }).modGang (TileId.gang ⟨1, 1⟩) fun x => { x with sched := .idle }
theorem witness_Messages_absent : ∀ b ∈ [true, false], let s := toBacklog b
      (s.msg? 5).any (fun m => m.route == .append && s.first m && m.msg.header.getLsbD 23 == b) = true ∧ s.carrierRoom 1 = true ∧
        (s.mapEntry ⟨1, 1⟩).st = .absent ∧ (s.gang (TileId.gang ⟨1, 1⟩)).sched = .idle := by decide +kernel
theorem witness_Messages_held : (∀ b ∈ [true, false], let s := if b then badEntry (posted .mapRead 0) else posted .mapRead 0
      s.msg? 5 = some (sent .mapRead) ∧ s.entryBad ⟨1, 1⟩ = b) ∧
    (let s : State := { base with latentUE := [(base.mapHome tl).key / 32 * 32] }
     find tl.vt (s.tile tl).mapCache = none ∧ s.entryBad tl = true) := by decide +kernel
theorem witness_Barriers_leaves : ∀ r ∈ [RunState.sleeping, .running],
    let s := (inPhase (some 0) { bar 7 false with member := false }).modHart h0 fun h => { h with run := r }
    (s.group 1 3).plane.isSome = true ∧ s.phaseDone 1 3 = true ∧ (∃ p ∈ s.harts, p.1 = h0 ∧ s.hartOf h0 = p.2 ∧
      (p.2.bar 3).member = false ∧ (p.2.bar 3).passed = false ∧ p.2.run = r) := by decide +kernel
theorem witness_Barriers_joins : (let s := (inPhase (some 0) { bar 6 false with member := false }).mod (g 1 1)
      s.inGroup h0 3 = true ∧ s.hart.ready [gRef 1] = true ∧ (s.hart.gr 1).getLsbD 0 = true ∧ (s.hart.bar 3).member = false) ∧
    (let s := inPhase none (bar 6 true)
     s.inGroup h0 3 = true ∧ (s.hart.gr 1).getLsbD 0 = false ∧ (s.hart.bar 3).member = true ∧ (s.hart.bar 3).phase = (s.group 1 3).phase - 1 ∧
       s.pendingOp h0 true true (fun _ => true) = false) ∧
    (let s := (inPhase none (bar 7 false)).modHart ⟨⟨1, 1⟩, 0⟩ fun h => { h with bars := [(3, bar 6 true)] }
     let s := s.modTile ⟨1, 1⟩ fun t => { t with entry := { t.entry with st := .absent } }
     (s.hart.bar 3).over = false ∧ s.hart.sy.preq.getLsbD 0 = false ∧ s.absentees 3 (s.hart.bar 3).phase = [⟨⟨1, 1⟩, 0⟩]) := by decide +kernel
/-- The hart parked on a woken record of a KIND, whose word or line at 0x40 has these tags. -/
def wokenOf (k : Nat) (xs : List Tag) : State :=
  (xs.zipIdx.foldl (fun s p => s.setTag (.slice tl (0x40 + 8 * p.2)) p.1) (linked .full)).mod fun h => { h.setFe 59 3 k with rbufVal := 0xA5A5 }
theorem witness_ParkSteps_kinds : (∀ k ∈ [0, 1, 2], ∀ x ∈ [Tag.full, .empty, .parked, .poison], let s := wokenOf k [x]
      ReadyToRetry (s.hartOf h0) ∧ (s.hartOf h0).feKind = k ∧ s.parkReady h0 (homeOfKey 1 0x40) = true ∧ s.pageOk (homeOfKey 1 0x40) = true ∧
        s.tagOf (homeOfKey 1 0x40) = x ∧ (s.hartOf h0).sy.preq.getLsbD 0 = false ∧ s.latentUE = [] ∧
        s.parks.find? (fun r => r.isOf 1 (some h0) 0) = some { rec 1 h0 4 with woken := true }) ∧
    (∀ k ∈ [3, 4], ∀ x ∈ [Tag.full, .empty, .poison], ∀ i ∈ [0, 7], let s := wokenOf k (tagsBut .parked i x)
      ReadyToRetry (s.hartOf h0) ∧ (s.hartOf h0).feKind = k ∧ s.parkReady h0 (homeOfKey 1 0x40) = true ∧
        (∀ j < 8, s.tagOf ((homeOfKey 1 0x40).plus (8 * j)) = if j = i then x else .parked)) ∧
    (∀ x ∈ [Tag.full, .empty], ∀ j < 8, (wokenOf 3 (tagsBut x 0 x)).tagOf ((homeOfKey 1 0x40).plus (8 * j)) = x) ∧
    ((wokenOf 2 [.full]).fillWait (homeOfKey 1 0x40)).length < 16 := by
  unfold ReadyToRetry; decide +kernel
theorem witness_ParkSteps_fillWait : (let s := (wokenOf 2 [.full]).modTile tl fun t => { t with fillWait := List.range' 8 16 }
    parkKey (homeOfKey 1 0x40) ∉ s.fillWait (homeOfKey 1 0x40) ∧ ¬(s.fillWait (homeOfKey 1 0x40)).length < 16) := by decide +kernel
theorem witness_CopySteps_words : ∀ k ∈ [CpKind.fill, .copy, .rows], ∀ m ∈ [0, 1, 2, 3], ∀ x ∈ [Tag.full, .empty, .parked, .poison],
    ∀ y ∈ [Tag.full, .empty, .parked, .poison], let c := cpc k m 1 (own 0x200) (own 0x100)
    (copying c x y).tagOf (.slice tl 0x108) = x ∧ (copying c x y).tagOf (.slice tl 0x208) = y ∧ c.peer = false ∧ c.kind = k ∧ c.mode = m ∧
      c.total = c.next + 1 ∧ AliasWord (c.dstAt c.next) 0x208 ∧ AliasWord (c.srcAt c.next) 0x108 := by
  unfold AliasWord; decide +kernel
theorem witness_CopySteps_images : (let c := cpc .imageOut 0 7 (own 0x200) (own 0x100)
      c.peer = false ∧ c.next + 1 < c.total ∧ (c.dstAt (c.next + 1)).toNat % 64 = 0 ∧ AliasWord (c.dstAt c.next) 0x238 ∧ c.next % 8320 < 8192 ∧
        AliasWord (c.src + BitVec.ofNat 64 (c.next / 8320) * c.sstride + BitVec.ofNat 64 (8 * (c.next % 8320))) 0x138) ∧
    (let c := cpc .imageOut 0 8319 (own 0x20000) (own 0x100)
     c.peer = false ∧ c.total = c.next + 1 ∧ AliasWord (c.dstAt c.next) (0x20000 + 8 * 8319) ∧ 8192 ≤ c.next % 8320) ∧
    (let c := cpc .imageIn 0 8191 (own 0x20000) (own 0x100)
     c.peer = false ∧ c.total = c.next + 1 ∧ AliasWord (c.dstAt c.next) 0x2FFF8 ∧
       AliasWord (c.src + BitVec.ofNat 64 (c.next / 8192) * c.sstride + BitVec.ofNat 64 (65536 + 8 * (c.next % 8192 / 64))) 0x104F8 ∧
       AliasWord (c.src + BitVec.ofNat 64 (c.next / 8192) * c.sstride + BitVec.ofNat 64 (8 * (c.next % 8192))) 0x100F8) ∧
    (∀ x ∈ [Tag.full, .empty, .parked, .poison], (base.setTag (.slice tl 0x138) x).tagOf (.slice tl 0x138) = x ∧
      (base.setTag (.slice tl 0x104F8) x).tagOf (.slice tl 0x104F8) = x) := by
  unfold AliasWord; decide +kernel
/-- A CP.VERIFY with a limit and a key, of the image of one element, changed by a number, of which it has read some bytes. -/
def verifying (limit key change read : Nat) : CpCmd × State :=
  let c := { cpc .verify 0 0 (own 0) 0 with count := limit, key := BitVec.ofNat 4 key, read := (leBytes 88 (image ^^^ change)).take read }
  (c, (copying c .full .full).writeNat (.slice tl 0) 88 (image ^^^ change))
theorem witness_CopySteps_verify : (∀ n ∈ [0, 64], let (c, s) := verifying 88 0 0 n
      s.cp? c.id = some c ∧ c.next < c.total ∧ c.dst.toNat = 0x1F00000000000000 + 0 ∧ (s.imageKey 1 c.key).isSome = true ∧
        c.read.length / 8 < (min c.count (if n = 0 then 64 else 88) + 7) / 8 ∧ (∀ i < 11, s.tagOf (.slice tl (8 * i)) ≠ .poison) ∧
        (s.setTag (.slice tl (n + 16)) .poison).tagOf (.slice tl (n + 16)) = .poison) ∧
    ((verifying 88 5 0 0).2.imageKey 1 (verifying 88 5 0 0).1.key = none) ∧
    (imgSize (verifying 88 0 (2 ^ 128) 88).1.read = none) ∧
    (∀ p ∈ [(88, 0, true), (88, 2 ^ 256, false), (87, 0, true), (64, 0, true)], let c := (verifying p.1 0 p.2.1 (if p.1 = 64 then 64 else 88)).1
      (min c.count 88 + 7) / 8 ≤ c.read.length / 8 ∧ imgSize c.read = some ⟨0x14, 1, 1⟩ ∧ (⟨0x14, 1, 1⟩ : ImgHdr).length = 88 ∧
        (p.1 ≠ 64 → imgFields ⟨0x14, 1, 1⟩ c.read = p.2.2)) := by
  refine ⟨by decide +kernel, by decide +kernel, by decide +kernel, by decide +kernel⟩
theorem witness_CopySteps_tag : (∀ p ∈ [(0, true), (2 ^ 576, false)], let b := (verifying 88 0 p.1 88).1.read
      decide (imageTag [] (b.take 72) = (b.drop 72).take 16) = p.2) := by decide +kernel
theorem witness_CopySteps_ends : (let c := { cpc .copy 0 2 (own 0x200) (own 0x100) with scope := .s }
      let s := (copying c .full .full).mod fun h => { h with hostWrote := [3] }
      c.pieces = [] ∧ c.total ≤ c.next ∧ c.stopped = none ∧ c.scope = .s ∧ s.hart.hostWrote ≠ [] ∧ (copying c .full .full).hart.hostWrote = []) ∧
    (let c := { cpc .copy 0 1 (own 0x200) (own 0x100) with scope := .s, stopped := some 1 }
     let s := { copying c .full .full with ops := [flight .flush (.host 3 0) .port] }
     s.hart.hostWrote = [] ∧ c.stopped.isSome = true ∧ ∃ o ∈ s.ops, o.hart = c.hart ∧ o.kind = .flush ∧ o.over = false) ∧
    (let c := { cpc .copy 0 2 (own 0x200) (own 0x100) with cwHome := .hbm 0x60000, nerr := 3, firstBad := some 1 }
     let s := copying c .full .full
     c.cwHome.tagged = true ∧ s.homeOpen h0 c.cwHome = true ∧ s.pageOk c.cwHome = false ∧ c.nerr ≠ 0 ∧ s.pageOk (.slice tl 0x80) = true) := by decide +kernel
theorem witness_CopySteps_pieces : (let c := cpc .copy 0 0 0x2000000000000000 (own 0)
      c.peer = true ∧ c.kind = .copy ∧ c.pieces = [] ∧ c.next = 0 ∧ c.stopped = none ∧ 0 < c.total) ∧
    (let p : CpPiece := { next := 1, last := 512, plane := 71 }
     (∀ tick, { cpc .copy 0 2 0x2000000000000000 (own 0) with pieces := [p] }.pick tick = some ([], p, [])) ∧ (3 < 72 ∧ 3 ≠ p.plane) ∧
       (cpc .copy 0 0 0 0).next < (cpc .copy 0 0 0 0).total) := by
  refine ⟨by decide +kernel, fun tick => ?_, by decide +kernel⟩
  simp [CpCmd.pick, Nat.mod_one]
theorem witness_MatrixForms_refusals : (let s := matrix 0xD1111 0x800000000 0 0 []
      bits (s.hart.gr 2) 16 48 = 0 ∧ find (5 : KReg) s.hart.slots = some sref ∧ ctxO s.hart.ctx ∉ [0x0E, 0x0F, 0x10, 0x11, 0x14] ∧
        bits (s.hart.gr 1) 32 32 % 64 ≠ 0 ∧ bits (0x100000 : Word) 20 12 ≠ 0) := by decide +kernel
/-- What a unit reads, then the places that it writes. -/
def readsAndPlaces (c : MxCmd) (len : Nat) (s : State) : Bool :=
  match s.readRun c.engCtx (c.wd + BitVec.ofNat 64 (c.progress * c.tstride)) 0 len c.pages with
  | (s', ps, .ok _) => decide (s'.harts = s.harts) && reads s (s'.placesOf c.engCtx c.outWords (c.readout c.progress) ps)
  | _ => false
theorem witness_MatrixSteps_delta : (let c := mxc (.delta false true) (own 0) 0x10000000000 (own 0x3FFFF8) true 0
      readsAndPlaces c (deltaBytes c.dk c.dv false true) (queued1 c) = true ∧ HasSlot c sref (queued1 c)) ∧
    (let c := mxc (.qry true) (own 0) 0x10000000000 (own 0x3FFFF8) true 0
     readsAndPlaces c (padded c.dk true) (queued1 c) = true) := by
  unfold HasSlot; decide +kernel
theorem witness_MatrixSteps_bld : (let c := mxc .bld (own 0) 0x4000000200 0 true 0
      let s := (queued1 c).setTag (.slice tl 0x3F8) .poison
      (match s.readRun c.engCtx (c.wd + BitVec.ofNat 64 c.progress * c.bldStride) 0 (runBytes (ctxB c.ctx) c.bldK) c.pages with
       | (s', _, .fail _) => decide (s'.harts = s.harts) && (find c.gid s'.granules).isSome
       | _ => false) = true ∧ 0 < c.bldK ∧ c.name.isSome = true) ∧
    (mxc .bld (own 0) 0 0 true 0).bldK = 0 := by decide +kernel
theorem witness_MatrixSteps_spill : (let c := mxc .spill (own 0) 0x140000 0 true 1
      c.spillUnits ≤ c.progress ∧ (let s := queued1 c
        s.imageKey c.hart.tile.tab (BitVec.ofNat 4 (bits c.wb 0 4)) = some [] ∧ reads s (s.placesOf c.engCtx 8 c.wd c.pages) = true ∧
          reads s (s.placesOf c.engCtx 2 (c.wd + BitVec.ofNat 64 (64 + c.imgHdr.plen8)) c.pages) = true)) ∧
    (let c := mxc .spill (own 0) 0x140000 5 true 1
     (queued1 c).imageKey c.hart.tile.tab (BitVec.ofNat 4 (bits c.wb 0 4)) = none) := by decide +kernel
theorem witness_MatrixSteps_sync : (let c := { mxc (.sync .s) 0 0 0 true 0 with pages := [(0x210000, .hbm 0x60000)] }
      let s := queued1 c
      c.kind = .sync .s ∧ s.mx? c.id = some c ∧ s.resident c.hart.tile = true ∧ c.pages = (0x210000, .hbm 0x60000) :: [] ∧ s.pageOk (.hbm 0x60000) = false ∧
        s.homeOpen h0 (.hbm 0x60000) = true ∧ s.latentUE = [] ∧ s.hart.hostWrote = [] ∧ s.ops = [] ∧
        (s.mod fun h => { h with hostWrote := [3] }).hart.hostWrote ≠ []) := by decide +kernel
/-- A command at work in page 5 of HBM, which is VALID or not any more. -/
def writing (c : MxCmd) (valid : Bool) : State := { queued1 c with dpit := if valid then mapped.dpit else [] }
/-- A unit's writes go through, or not. -/
def writesGo (c : MxCmd) (s : State) : Option Bool :=
  match s.placesOf c.engCtx c.outWords (c.readout c.progress) c.pages with
  | (s', _, .ok ps) => some (s'.putBytesAt h0 ps [1, 2, 3, 4, 5, 6, 7, 8]).2
  | _ => none
theorem witness_MatrixSteps_writes : (let c := { mxc (.qry false) (own 0) 0x10000000000 0x20FFF8 true 0 with pages := [(pageKey 0x20FFF8 true, .hbm 0x50000)] }
    writesGo c (writing c true) = some true ∧ writesGo c (writing c false) = some false) := by decide +kernel
theorem witness_GateAndKillSteps_parks : (fe q5).entryBad tl = false ∧ ∀ g ∈ [gate 64 none, gate 0 (some (.slice tl 0x40))], ∀ x ∈ [Tag.empty, .parked], let s := gated g x
    s.mem.wf = true ∧ s.latentUE = [] ∧ s.entryBad tl = false ∧ ReachedSlice s tl g.va 0x40 ∧ s.tagOf (.slice tl 0x40) = x ∧
      (g.linked ≠ none ∨ Hart.reset.schedule.2.2 ≤ g.tries) ∧ (g.linked = none ∨ g.woken = true) := by
  unfold ReachedSlice; decide +kernel
theorem witness_OstlerSteps_decides : (let s : State := { pass with now := pass.factors.renewed + 36000000 }
      s.factors.decides s.now = false ∧ pass.now < pass.factors.renewed + 36000000) ∧
    (let s := scheduled .settlingIn .placing .settling id fun h => { h with bars := [(3, bar 7 false)] }
     find (3 : BitVec 4) (s.hartOf h0).bars = some (bar 7 false) ∧ (s.gang gg).placed = false ∧
       ((scheduled .settlingIn .placing .settling (fun g => { g with placed := true }) id).gang gg).placed = true ∧
       find (3 : BitVec 4) ({ tableau with state := [(3, { phase := 8, plane := none })] } : Tableau).state = some { phase := 8, plane := none }) := by decide +kernel
theorem witness_TblAsked : TblAsked port args (calling port 9 tblBlock mapped) ∧ TblAsked (.hart h0) args (calling (.hart h0) 9 tblBlock mapped) ∧
    ((calling port 9 tblBlock mapped).callSets port).1 = calling port 9 tblBlock mapped ∧ ∀ h, port ≠ .hart h := by
  have e : ∀ c ∈ [port, .hart h0], ((calling c 9 tblBlock mapped).call c).busy = true ∧ ((calling c 9 tblBlock mapped).call c).started = false ∧
      ((calling c 9 tblBlock mapped).call c).code = 9 ∧ (calling c 9 tblBlock mapped).holdsTbl c args = true := by decide +kernel
  exact ⟨e _ List.mem_cons_self, e _ (.tail _ List.mem_cons_self), rfl, fun h e => by cases e⟩
/-- KEY_LOAD of a wrapped key of eight bytes in page 5. -/
def keyed : State := (calling port 5 [1, 15, 7, 0x50100, 8] mapped).writeNat (.hbm 0x50100) 8 0x1122
theorem witness_FirmwareSteps_key : CallRuns port 5 (some 1) false [1, 15, 7] keyed ∧
    (match keyed.wrappedKey port with | (s, some w) => s.tab? 1 == some tableau && w == [0x22, 0x11, 0, 0, 0, 0, 0, 0] | _ => false) = true ∧
    (calling port 5 [1, 15, 7, 0x50100, 4097] mapped).callBad port = true ∧
    (calling (.hart h0) 0x0C [5, 4096, 0, 100] mapped).callBad (.hart h0) = true ∧ ((calling (.hart h0) 0x0C [5, 4096, 0, 100] mapped).call (.hart h0)).code = 12 := by
  unfold CallRuns CallAsked; exact ⟨⟨by decide +kernel, fun h e => by cases e⟩, by decide +kernel, by decide +kernel, by decide +kernel, by decide +kernel⟩
theorem witness_FirmwareSteps_irq : (mapped.validVt ⟨1, 1⟩ = true ∧ mapped.validVt ⟨1, 2⟩ = false ∧ mapped.tab? 1 = some tableau ∧ tableau.alive = true) ∧
    (working.tab? 1).any (fun y => !y.alive) = true := by decide +kernel
/-- What the front end finds at an address of a queue, with every queue as it was. -/
def gateHome (s : State) (n : Need) (va : Word) : Option (Option Home) :=
  match s.feHome (s.queue 5).tabId n va with
  | (s', o) => if s'.queues = s.queues then some o else none
theorem witness_FirmwareSteps_gates : let n := { needR with r := false }
    gateHome ((fe q5).writeNat (.hbm 0x13000) 8 (leaf.toNat + 0x100)) n 0x200008 = some (some (.host 0 0x50008)) ∧
    gateHome (fe q5) n 0x200004 = some (some (.hbm 0x50004)) ∧ (0x200004 : Word).toNat % 8 ≠ 0 ∧
    gateHome (fe q5) n 0x900008 = some none ∧ gateHome (fe q5) n 0x1000000000000040 = some (some (.slice tl 0x40)) := by decide +kernel
/-- A queue that migrates to a wafer, with a gate on a word of a tag. -/
def leaving (wafer : Nat) (x : Tag) : State :=
  (fe { q5 with gate := some (gate 0 none), migration := some { caller := port, dst := 6, wafer := wafer, newGate := 0x1000000000000048, deadline := 9 } }).setTag
    (.slice tl 0x40) x
theorem witness_FirmwareSteps_migrates : gateHome (fe q5) needRW 0x1000000000000048 = some (some (.slice tl 0x48)) ∧ gateHome (fe q5) needRW 0 = some none ∧
    ({ fe q5 with tdis := [(0, 0)] } : State).queueLocked 6 = true ∧ ((fe { q5 with tail := 4 }).queue 5).active = true ∧
    ((leaving 0 .full).queue 5).migration ≠ none ∧ ((leaving 1 .full).queue 5).still = true ∧ gateNow (leaving 1 .full) = some (some true) ∧
    (∀ w ∈ [0, 1], gateNow ((leaving w .empty).reach 9) = some (some false)) ∧
    (let s := leaving 0 .empty
     gateHome (s.reach 9) needRW 0x1000000000000048 = some (some (.slice tl 0x48)) ∧ (s.reach 9).feOpen (.slice tl 0x48) = true ∧
       s.pageOk (.slice tl 0x48) = true ∧ s.mem.wf = true ∧ s.latentUE = []) ∧
    (let s := (leaving 0 .empty).modTile tl fun t => { t with entry := { t.entry with st := .settling } }
     (s.reach 9).feOpen (.slice tl 0x48) = false ∧ gateNow (s.reach 9) = some none) := by decide +kernel
theorem witness_DeviceSteps_msix : (let s : State := { mapped with tdis := [(3, 0)] }
    ((3, 0) ∈ s.tdis ∧ (3, 5) ∉ s.tdis) ∧ 4095 < 4096) := by decide +kernel
theorem witness_DeviceSteps_lease : (base.factors.deciding = true ∧ base.now < base.factors.renewed + 36000000) ∧
    (let s : State := { base with now := 36000000 }
     s.factors.renewed + 36000000 ≤ s.now) ∧ (∀ i ∈ [1, 2, 3, 4, 5, 6], (base.measured i).isSome = true) ∧ base.measured 0 = none ∧ base.measured 7 = none ∧
    0x5FFFC + 4 ≤ mapped.loftBase := by decide +kernel
theorem witness_DeviceSteps_moves : (let s : State := { mapped with drover := { mapped.drover with counts := [(quadKey 5 3, 3), (quadKey 5 0, 2)], moves := [(5, 63)] } }
      s.drover.en = true ∧ s.movable (5, 63) = true ∧ s.drover.mostly (5, 63) = true ∧ (s.drover.moves.find? fun m => m.1 == 5) = some (5, 63)) ∧
    ({ mapped.drover with ctl := 0x2802 } : Drover).en = false := by decide +kernel
theorem witness_DeviceSteps_starts : (∀ w ∈ [true, false], let s : State := { base with factors := { base.factors with whole := w } }
      (true && true && s.factors.whole) = w) ∧ base.mem.wf = true ∧ base.latentUE = [] ∧ base.validVt tl = true := by decide +kernel
theorem witness_DecodeEncode : (Instr.cpFillv 1 2 3 true 4 3 .w).wf = true ∧ decode 0xF8000001 = .ok .tret ∧ (0x33 : BitVec 6) ∈ [0x0D, 0x0E, 0x0F, 0x2E, 0x2F, 0x33] := by
  exact ⟨by decide, rfl, by decide⟩
theorem witness_StepRunsDecoded : Fetches (coded [0xF8000110]) ∧
    (∃ s', (coded [0xF8000110]).nextWord h0 = (s', .word 0xF8000110) ∧ ∃ t, exec (.trap 17) s' = .next t) ∧ decode 0xF8000110 = .ok (.trap 17) ∧
    (∃ s', (coded [0]).nextWord h0 = (s', .word 0) ∧ ∃ t, exec (.unallocatedEncoding 0x20) s' = .next t) ∧ decode 0 = .error .encoding := by
  refine ⟨by unfold Fetches; decide +kernel, ⟨_, rfl, _, rfl⟩, rfl, ⟨_, rfl, _, rfl⟩, rfl⟩
theorem witness_StepRunsDecoded_fetch : (let s := coded [0xF8000110]
      s.hart.rpt = none ∧ s.hart.pc.toNat % 4 = 0 ∧ range s.hart.pc = .paged ∧ trPaged s h0 needX s.hart.pc = .ok (.hbm 0x50000) true ∧
        s.hart.opFind s.hart.pc.toNat = none ∧ s.pageOk (.hbm 0x50000) = true ∧ s.latentUE = [] ∧ s.tagOf (.hbm 0x50000) ≠ .poison) ∧
    (let s : State := { base with agenda := [.passTimer] }
     s.agenda = .passTimer :: [] ∧ s.factors.started = true ∧ s.heeds .passTimer = true ∧ completes .passTimer { s with agenda := [] } = true) ∧
    (let s : State := { base with agenda := [.passTimer], factors := { base.factors with started := false } }
     s.agenda = .passTimer :: [] ∧ s.factors.started = false ∧ s.heeds .passTimer = false) := by
  refine ⟨⟨by decide +kernel, by decide +kernel, by decide +kernel, rfl, by decide +kernel, by decide +kernel, by decide +kernel, by decide +kernel⟩,
    by decide +kernel, by decide +kernel⟩
theorem witness_StepKeepsMemoryCanonical : (coded [0xF8000110]).mem.wf = true ∧ (∃ t, step (coded [0xF8000110]) = .next t) := by
  exact ⟨by decide +kernel, _, rfl⟩
theorem witness_ParkSteps_memory : (∀ k ∈ [0, 1, 2, 3, 4], (wokenOf k [.full]).mem.wf = true) ∧ (linked .full).mem.wf = true ∧
    (linked .full).plain (homeOfKey 1 0x40) = true ∧ (linked .full).latentUE = [] := by decide +kernel
theorem witness_Messages_placed : (let s := posted .append 63
      (s.mapEntry ⟨1, 1⟩).st = .resident ∧ (s.tile ⟨1, 1⟩).backlog = [] ∧ (s.tile ⟨1, 1⟩).inbox.length < 64 ∧ s.first (sent .append) = true) ∧
    ¬((posted .append 64).tile ⟨1, 1⟩).inbox.length < 64 := by decide +kernel
/-- All harts of group 3 have arrived, but the last has yet to be counted. -/
def arriving (b : HartBar) : State :=
  let s := inPhase none { b with sent := false }
  { s with harts := s.harts ++ ((s.barHarts 1 3).filter (· ≠ h0)).map fun h => (h, { Hart.reset with bars := [(3, bar 7 false)] }) }
theorem witness_Barriers_counts : (let s := arriving (bar 7 false)
      (s.tab? 1).isSome = true ∧ ((s.hartOf h0).bar 3).sent = false ∧ (s.group 1 3).plane = none ∧ h0 ∈ s.barHarts 1 3 ∧
        ((s.hartOf h0).bar 3).phase ≠ (s.group 1 3).phase - 1 ∧
        ∀ j ∈ s.barHarts 1 3, j ≠ h0 → ((s.hartOf j).bar 3).sent = true ∧ ((s.hartOf j).bar 3).phase ≠ (s.group 1 3).phase - 1) ∧
    (let s := arriving (bar 6 false)
     ((s.hartOf h0).bar 3).sent = false ∧ h0 ∈ s.barHarts 1 3 ∧ ((s.hartOf h0).bar 3).phase = (s.group 1 3).phase - 1) := by decide +kernel
theorem witness_QueueSteps_fill : (let l := launch 0x208000 .dispatched []
      let s := fe { q5 with launches := [l] }
      s.entryBad tl = false ∧ s.mem.wf = true ∧ s.latentUE = [] ∧
        (match ((s.completionFill (.slice tl 0x40) (BitVec.ofNat 64 l.seq)).qcbHome 5).2 with
         | some h => decide (h.plus 8 ≠ .slice tl 0x40)
         | none => true) = true) := by decide +kernel
theorem witness_MatrixSteps_plain : (let c := { mxc (.sync .s) 0 0 0 true 0 with pages := [(0x20FFF8, .hbm 0x5FFF8)] }
    (writing c true).plain (.hbm 0x5FFF8) = true ∧ (writing c true).pageOk (.hbm 0x5FFF8) = true ∧ (writing c true).mem.wf = true) := by decide +kernel
theorem witness_FirmwareSteps_bad : (let s := calling (.hart h0) 5 [2, 2 ^ 16, 7, 0x50100, 8] mapped
      s.callBad (.hart h0) = true ∧ tabWord (s.call (.hart h0)).code = some 1 ∧ (s.argAt (.hart h0) 1).toNat ≠ h0.tile.tab.toNat) ∧
    (let s := calling (.hart h0) 5 [1, 2 ^ 16, 7, 0x50100, 8] mapped
     s.callBad (.hart h0) = true ∧ (s.call (.hart h0)).code ∉ [9, 10, 12] ∧ tabWord (s.call (.hart h0)).code = some 1 ∧
       (s.argAt (.hart h0) 1).toNat = h0.tile.tab.toNat) ∧
    (answered (.hbm 0x50000)).plain (.hbm 0x50000) = true := by decide +kernel
theorem witness_FirmwareSteps_ungated : ((fe q5).queue 5).gate = none ∧ ((fe { q5 with gate := some (gate 0 none) }).queue 5).gate ≠ none ∧
    ∀ h s', ¬GateWordAt (fe { q5 with gate := some (gate 0 none) }) 5 0 h s' := by
  have k : gateHome (fe { q5 with gate := some (gate 0 none) }) needRW 0 = some none := by decide +kernel
  refine ⟨by decide +kernel, by decide +kernel, fun h s' e => ?_⟩
  simp only [gateHome, e.1] at k
  split at k <;> simp at k
theorem witness_OstlerSteps_units : (gg ∈ base.unitOf gg ∧ ∀ m ∈ base.unitOf gg, (base.gang m).sched ≠ .placing) ∧
    (let s := scheduled .absent .placing .absent id halted
     (s.gang gg).sched = .placing ∧ (s.gang gg).st = .absent ∧ s.tab? gg.tab = some tableau ∧ tableau.alive = true) ∧
    (let s := scheduled .settlingIn .placing .settling id fun h => { halted h with saved := [(5, AccSlot.reset)] }
     (s.gang gg).st = .settlingIn ∧ (s.keepSlots gg).slotsKept gg = true ∧ s.slotsKept gg = false) := by decide +kernel
theorem witness_DeviceSteps_plain : (let s : State := { mapped with cxlPorts := 8 }
    s.plain (.hbm 0x5FFF8) = true) ∧ ({ base.factors with started := false, failedAt := 2, recovery := false } : Factors).mustCold = true := by decide +kernel
theorem witness_CopySteps_plain : (copying (cpc .copy 0 2 (own 0x200) (own 0x100)) .full .full).plain (cpc .copy 0 2 0 0).cwHome = true := by decide +kernel
/-- The tile's context stands in slot 1 of the loft. -/
def lofted : State :=
  { (on (g 31 7)).modTile tl fun t => { t with entry := { t.entry with st := .absent, fresh := false, lslot := some 1 } } with
    loftSize := 2, cxlPorts := 8 }
theorem witness_LoftContexts : lofted.latentUE = [] ∧ lofted.mem.wf = true ∧ (∀ off ∈ [0x3FFFF8, 0x41FFF8, 0x42FFF8, 0x4380F8, 0x4309F8, 0x6C0000, 0x7FFFF8],
      LoftWord lofted 3 tl 1 off ∧ lofted.tagOf (.hbm (lofted.loftBase + 2 ^ 23 * 1 + off)) ≠ .poison) ∧
    (0x4380F8 = 0x430000 + 0x4000 * (2 : BitVec 2).toNat + 8 * (31 : Reg).toNat ∧ 0x4309F8 = 0x430200 + 0x4000 * (0 : BitVec 2).toNat + 64 * (31 : Reg).toNat + 8 * 7) := by
  unfold LoftWord; decide +kernel
/-- A host's write at the DPA of g31 in a saved context changes the register (R378, R379). -/
theorem test_loft_register : (match execHostMemoryWrite 3 (BitVec.ofNat 42 (2 ^ 42 - 2 ^ 23 + 0x430000 + 0x4000 * h0.num.toNat + 248)) [9, 0, 0, 0, 0, 0, 0, 1] lofted with
    | .next t => decide ((t.hartOf h0).gr 31 = 0x0100000000000009)
    | _ => false) = true := by decide +kernel
end Sys2Proof.Tests
end

section
/-!
SUPPORT. A step runs what the hart in focus fetches: the caches that a fetch fills are no part of what its word reads, and a step is the
chosen instruction followed by the end of the step.
-/

namespace Sys2Proof.Machine

/-! ## What a fetch fills -/

/-- The keys of a map whose entries meet a test are as before where one entry is replaced that meets it as before; an entry that was not
listed counts as the default, which fails the test. -/
theorem map_filter_put {κ α β : Type} [DecidableEq κ] (p : κ × α → Bool) (f : κ → β) (k : κ) (v d : α) (m : Map κ α)
    (same : p (k, v) = p (k, findD k m d)) (fails : p (k, d) = false) :
    ((put k v m).filter p).map (fun e => f e.1) = (m.filter p).map fun e => f e.1 := by
  induction m with
  | nil => simp [put, same.trans fails]
  | cons e m ih =>
    obtain ⟨k', v'⟩ := e
    by_cases h : k' = k
    · subst h
      have same' : p (k', v) = p (k', v') := by simpa [findD, find] using same
      cases q : p (k', v') <;> simp [put, same', q]
    · have rest := ih (by simpa [findD, find, h] using same)
      cases q : p (k', v') <;> simp [put, h, q, rest]

/-- A hart set with its barrier groups as they were is a member as before. -/
theorem groupGangs_setHart {s : State} {h : HartId} {x : Hart} (bars : x.bars = (s.hartOf h).bars) (u : BitVec 16) (g : BitVec 4) :
    (s.setHart h x).groupGangs u g = s.groupGangs u g :=
  congrArg List.eraseDups (map_filter_put _ (fun i : HartId => i.tile.gang) h x Hart.reset s.harts (by rw [bars]; rfl) (Bool.and_false _))

/-- Nothing of the machine has changed but the L1 TLBs and the decoded-op caches of harts. A hart that was not listed counts as one with
its reset values. -/
structure FetchCachesOnly (s t : State) : Prop where
  rest : t = { s with harts := t.harts }
  harts : ∀ j, t.hartOf j = { s.hartOf j with tlb := (t.hartOf j).tlb, ops := (t.hartOf j).ops }
  groupGangs : ∀ u g, t.groupGangs u g = s.groupGangs u g

theorem FetchCachesOnly.refl (s : State) : FetchCachesOnly s s := ⟨rfl, fun _ => rfl, fun _ _ => rfl⟩

theorem FetchCachesOnly.trans {s t u : State} (a : FetchCachesOnly s t) (b : FetchCachesOnly t u) : FetchCachesOnly s u :=
  ⟨by rw [b.rest, a.rest], fun j => by rw [b.harts j, a.harts j], fun v g => (b.groupGangs v g).trans (a.groupGangs v g)⟩

/-- A hart set with other entries in its two caches. -/
theorem FetchCachesOnly.setHart (s : State) (h : HartId) (tlb : List TlbEntry) (ops : List OpLine) :
    FetchCachesOnly s (s.setHart h { s.hartOf h with tlb := tlb, ops := ops }) := by
  refine ⟨rfl, fun j => ?_, groupGangs_setHart rfl⟩
  by_cases e : j = h
  · subst e; simp
  · simp [e]

theorem fetchCachesOnly_tlbFill (h : HartId) (e : TlbEntry) (s : State) : FetchCachesOnly s (s.tlbFill h e) := by
  unfold State.tlbFill
  split
  · exact .refl s
  · exact .setHart s h _ _

theorem fetchCachesOnly_fillOps (h : HartId) (va : Nat) (home : Home) (s : State) : FetchCachesOnly s (s.fillOps h va home) := by
  unfold State.fillOps
  split
  · exact .refl s
  · exact .setHart s h _ _

theorem FetchCachesOnly.mem {s t : State} (c : FetchCachesOnly s t) : t.mem = s.mem := by rw [c.rest]
theorem FetchCachesOnly.tick {s t : State} (c : FetchCachesOnly s t) : t.tick = s.tick := by rw [c.rest]
theorem FetchCachesOnly.focus {s t : State} (c : FetchCachesOnly s t) : t.focus = s.focus := by rw [c.rest]
theorem FetchCachesOnly.latentUE {s t : State} (c : FetchCachesOnly s t) : t.latentUE = s.latentUE := by rw [c.rest]
theorem FetchCachesOnly.pageOk {s t : State} (c : FetchCachesOnly s t) (home : Home) : t.pageOk home = s.pageOk home := by rw [c.rest]; rfl
theorem FetchCachesOnly.tagOf {s t : State} (c : FetchCachesOnly s t) (home : Home) : t.tagOf home = s.tagOf home := by rw [c.rest]; rfl

theorem FetchCachesOnly.hart {s t : State} (c : FetchCachesOnly s t) :
    t.hart = { s.hart with tlb := t.hart.tlb, ops := t.hart.ops } := by
  have e : t.hart = t.hartOf s.focus := by rw [← c.focus, State.hartOf_focus]
  rw [e]
  exact c.harts s.focus

/-! ## What a plain read finds does not rest on those caches (R378, R379)

A read of the loft computes the words of a saved context, the duty in force (R183) and SY.BARMASK (R178) among them, so it rests on the
harts; it rests on their registers and barrier groups. -/

theorem FetchCachesOnly.barmask {s t : State} (c : FetchCachesOnly s t) (h : HartId) : t.barmask h = s.barmask h := by
  unfold State.barmask
  rw [c.harts h, c.rest]
  rfl

theorem FetchCachesOnly.dutyField {s t : State} (c : FetchCachesOnly s t) (u : TileId) :
    t.fieldDuty (fieldOf (t.mapEntry u).ptile) (t.gang u.gang).prio = s.fieldDuty (fieldOf (s.mapEntry u).ptile) (s.gang u.gang).prio := by
  rw [c.rest]; rfl

theorem FetchCachesOnly.demand {s t : State} (c : FetchCachesOnly s t) (g : GangId) : t.demand g = s.demand g := by rw [c.rest]; rfl
theorem FetchCachesOnly.fieldsOf {s t : State} (c : FetchCachesOnly s t) (g : GangId) : t.fieldsOf g = s.fieldsOf g := by rw [c.rest]; rfl
theorem FetchCachesOnly.gangs {s t : State} (c : FetchCachesOnly s t) : t.gangs = s.gangs := by rw [c.rest]
theorem FetchCachesOnly.gang {s t : State} (c : FetchCachesOnly s t) (g : GangId) : t.gang g = s.gang g := by rw [c.rest]; rfl
theorem FetchCachesOnly.tab? {s t : State} (c : FetchCachesOnly s t) (u : BitVec 16) : t.tab? u = s.tab? u := by rw [c.rest]; rfl

theorem FetchCachesOnly.gangDuty {s t : State} (c : FetchCachesOnly s t) (n : Nat) (g : GangId) : t.gangDuty n g = s.gangDuty n g := by
  induction n generalizing g with
  | zero => exact c.demand g
  | succ n ih => simp only [State.gangDuty, c.demand, c.fieldsOf, c.gangs, c.gang, ih]

theorem FetchCachesOnly.wiredGangs {s t : State} (c : FetchCachesOnly s t) (u : BitVec 16) (n : Nat) (gs : List GangId) :
    t.wiredGangs u n gs = s.wiredGangs u n gs := by
  induction n generalizing gs with
  | zero => rfl
  | succ n ih => simp only [State.wiredGangs, c.tab?, funext (c.groupGangs u), ih]

theorem FetchCachesOnly.dutyOf {s t : State} (c : FetchCachesOnly s t) (u : TileId) : t.dutyOf u = s.dutyOf u := by
  simp only [State.dutyOf, c.wiredGangs, c.gangDuty]

theorem FetchCachesOnly.routineCount {s t : State} (c : FetchCachesOnly s t) : t.routineCount = s.routineCount := by rw [c.rest]; rfl
theorem FetchCachesOnly.cxlPorts {s t : State} (c : FetchCachesOnly s t) : t.cxlPorts = s.cxlPorts := by rw [c.rest]
theorem FetchCachesOnly.now {s t : State} (c : FetchCachesOnly s t) : t.now = s.now := by rw [c.rest]

theorem FetchCachesOnly.syRead {s t : State} (c : FetchCachesOnly s t) (h : HartId) (n : Nat) : t.syRead h n = s.syRead h n := by
  simp only [State.syRead, c.barmask, c.dutyField, c.dutyOf, c.routineCount, c.cxlPorts, c.now]
  rw [c.harts h]

theorem FetchCachesOnly.hartWord {s t : State} (c : FetchCachesOnly s t) (h : HartId) (i : Nat) : t.hartWord h i = s.hartWord h i := by
  unfold State.hartWord
  rw [c.syRead h, c.harts h]
  rfl

theorem FetchCachesOnly.hartByte {s t : State} (c : FetchCachesOnly s t) (h : HartId) (off : Nat) : t.hartByte h off = s.hartByte h off := by
  unfold State.hartByte
  rw [c.hartWord h, c.tick]

theorem FetchCachesOnly.images {s t : State} (c : FetchCachesOnly s t) (u : TileId) : t.images u = s.images u := by
  have e : ∀ h, (t.hartOf h).saved = (s.hartOf h).saved := fun h => by rw [c.harts h]
  simp only [State.images, e]

theorem FetchCachesOnly.tagByte {s t : State} (c : FetchCachesOnly s t) (u : TileId) (i : Nat) : t.tagByte u i = s.tagByte u i := by
  simp only [State.tagByte, c.mem]

theorem FetchCachesOnly.slotByte {s t : State} (c : FetchCachesOnly s t) (u : TileId) (off : Nat) : t.slotByte u off = s.slotByte u off := by
  simp only [State.slotByte, c.hartByte, c.images, c.tagByte, c.mem, c.tick]

theorem FetchCachesOnly.slotTile {s t : State} (c : FetchCachesOnly s t) (n : Nat) : t.slotTile n = s.slotTile n := by rw [c.rest]; rfl
theorem FetchCachesOnly.inLoft {s t : State} (c : FetchCachesOnly s t) (u : TileId) : t.inLoft u = s.inLoft u := by rw [c.rest]; rfl
theorem FetchCachesOnly.loftBase {s t : State} (c : FetchCachesOnly s t) : t.loftBase = s.loftBase := by rw [c.rest]; rfl

theorem FetchCachesOnly.loftSlotAt {s t : State} (c : FetchCachesOnly s t) (dpa : Nat) : t.loftSlotAt dpa = s.loftSlotAt dpa := by
  rw [c.rest]; rfl

theorem FetchCachesOnly.loftByte {s t : State} (c : FetchCachesOnly s t) (n dpa : Nat) : t.loftByte n dpa = s.loftByte n dpa := by
  simp only [State.loftByte, c.slotTile, c.inLoft, c.slotByte, c.loftBase, c.tick]

theorem FetchCachesOnly.loadByte {s t : State} (c : FetchCachesOnly s t) (home : Home) (i : Nat) : t.loadByte home i = s.loadByte home i := by
  delta State.loadByte
  rw [funext c.loftSlotAt, funext fun n => funext (c.loftByte n), c.mem]

theorem FetchCachesOnly.plain {s t : State} (c : FetchCachesOnly s t) (home : Home) : t.plain home = s.plain home := by
  cases home with
  | hbm dpa => simp only [State.plain, c.loftSlotAt]
  | slice _ _ | host _ _ | dev _ => rfl

theorem FetchCachesOnly.loadNat {s t : State} (c : FetchCachesOnly s t) (home : Home) (n : Nat) : t.loadNat home n = s.loadNat home n := by
  simp only [State.loadNat, State.readNat, c.plain, funext (c.loadByte home), c.mem]

/-! ## A fetch that reads memory (R12, R31, R424) -/

/-- Where no uncorrectable error stands in memory, a home's read detects none. -/
theorem detect_of_no_latent (home : Home) {s : State} (h : s.latentUE = []) : s.detect home = s := by
  simp [State.detect, State.detectBy, State.latent, h]

theorem foldl_detect_of_no_latent (ws : List Home) {s : State} (h : s.latentUE = []) : ws.foldl (fun s w => s.detect w) s = s := by
  induction ws with
  | nil => rfl
  | cons w ws ih => rw [List.foldl_cons, detect_of_no_latent w h, ih]

/-- A read of code from a valid page that holds no error answers the word of the four bytes, and fills the decoded-op cache. -/
theorem fetchMiss_of_clean {s : State} {h : HartId} {va : Word} {home : Home} (valid : s.pageOk home = true) (clean : s.latentUE = [])
    (tag : s.tagOf home ≠ .poison) :
    s.fetchMiss h va home = (s.fillOps h va.toNat home, .word (BitVec.ofNat 32 (s.loadNat home 4))) := by
  simp [State.fetchMiss, valid, foldl_detect_of_no_latent _ clean, tag]

/-- A translation is an entry that a TLB holds. -/
theorem tlbFind_of_trPaged_ok {s : State} {h : HartId} {n : Need} {va : Word} {home : Home} {k : Bool} (tr : trPaged s h n va = .ok home k) :
    ∃ e, s.tlbFind h va.toNat = some e := by
  cases f : s.tlbFind h va.toNat with
  | some e => exact ⟨e, rfl⟩
  | none =>
    simp only [trPaged, f] at tr
    split at tr <;> cases tr

/-- Filling the L1 TLB leaves the decoded-op cache. -/
theorem opFind_tlbFill (s : State) (h : HartId) (e : TlbEntry) (va : Nat) :
    ((s.tlbFill h e).hartOf h).opFind va = (s.hartOf h).opFind va := by
  unfold State.tlbFill
  split
  · rfl
  · rw [State.modHart_eq, State.hartOf_setHart_same]; rfl

/-- A fetch with a translation, of a word that the decoded-op cache does not hold, reads memory once the L1 TLB is filled. -/
theorem fetch_of_opMiss {s : State} {h : HartId} {va : Word} {home : Home} {k : Bool} (aligned : va.toNat % 4 = 0) (paged : range va = .paged)
    (tr : trPaged s h needX va = .ok home k) (miss : (s.hartOf h).opFind va.toNat = none) :
    ∃ e, s.fetch h va = (s.tlbFill h e).fetchMiss h va home := by
  obtain ⟨e, found⟩ := tlbFind_of_trPaged_ok tr
  refine ⟨e, ?_⟩
  have miss' := (opFind_tlbFill s h e va.toNat).trans miss
  simp only [State.fetch, aligned, paged, tr, found, miss']
  rfl

/-- Such a fetch from a valid page without errors answers the word of the four bytes, and changes the hart's caches alone. -/
theorem fetch_of_clean {s : State} {h : HartId} {va : Word} {home : Home} {k : Bool} (aligned : va.toNat % 4 = 0) (paged : range va = .paged)
    (tr : trPaged s h needX va = .ok home k) (miss : (s.hartOf h).opFind va.toNat = none) (valid : s.pageOk home = true)
    (clean : s.latentUE = []) (tag : s.tagOf home ≠ .poison) :
    ∃ t, s.fetch h va = (t, .word (BitVec.ofNat 32 (s.loadNat home 4))) ∧ FetchCachesOnly s t := by
  obtain ⟨e, fetched⟩ := fetch_of_opMiss aligned paged tr miss
  have c := fetchCachesOnly_tlbFill h e s
  rw [fetchMiss_of_clean ((c.pageOk home).trans valid) (c.latentUE.trans clean) (by rwa [c.tagOf]), c.loadNat] at fetched
  exact ⟨_, fetched, c.trans (fetchCachesOnly_fillOps ..)⟩

theorem nextWord_of_no_repeat {s : State} {h : HartId} (n : (s.hartOf h).rpt = none) : s.nextWord h = s.fetch h (s.hartOf h).pc := by
  simp [State.nextWord, n]

/-! ## One step -/

/-- A hart that fetches a word has executed it when its turn ends. -/
theorem step_of_fetches {s s' : State} {w : IWord} (f : Fetches s) (n : s.nextWord s.focus = (s', .word w)) :
    step s = finish s.errors (turned (execWord w s')) := by
  obtain ⟨idle, started, boundary, running, duty⟩ := f
  simp [step, idle, started, turn, boundary, running, duty, runHart, n]

theorem execWord_of_decoded {w : IWord} {i : Instr} (d : decode w = .ok i) (s : State) : execWord w s = exec i s := by
  simp [execWord, d]

/-- A word that does not decode raises ILLEGAL with the decoder's reason. -/
theorem execWord_of_undecoded {w : IWord} {e : Illegal} (d : decode w = .error e) (s : State) :
    execWord w s = exec (.unallocatedEncoding e.code) s := by
  simp only [execWord, d]

/-- A step on the agenda is made before the hart in focus has its turn. -/
theorem step_of_agenda {s : State} {i : Instr} {rest : List Instr} (a : s.agenda = i :: rest) :
    step s = finish s.errors (if s.heeds i then exec i { s with agenda := rest } else .next { s with agenda := rest }) := by
  simp only [step, a]

/-- Settles O58: the step follows its turn or its agenda by definition; the fetched word is that of memory because the TLB entry which the
fetch keeps first is nothing that a read finds, even a read of a saved context in the loft. -/
theorem stepRunsDecoded : Obligations.StepRunsDecoded := by
  unfold Obligations.StepRunsDecoded
  intro s
  refine ⟨fun f s' w n => ⟨fun i t d x => ?_, fun e t d x => ?_⟩, fun home k rpt aligned paged tr miss valid clean tag => ?_,
    fun i rest t a heeds x => ?_, fun i rest a heeds => ?_, fun started i => ?_, fun a f x y p d e => ?_,
    fun stopped p a n q r h w c o => ?_⟩
  · rw [step_of_fetches f n, execWord_of_decoded d, x]; rfl
  · rw [step_of_fetches f n, execWord_of_undecoded d, x]; rfl
  · obtain ⟨t, fetched, c⟩ := fetch_of_clean aligned paged tr miss valid clean tag
    exact ⟨t, (nextWord_of_no_repeat rpt).trans fetched, c.mem, c.focus, by rw [c.hart], fun r => by rw [c.hart]; rfl,
      by rw [c.hart], by rw [c.hart]⟩
  · rw [step_of_agenda a, if_pos heeds, x]; rfl
  · rw [step_of_agenda a, heeds]; rfl
  · simp [State.heeds, started]
  · simp [State.heeds, Instr.starts]
  · simp [State.heeds, Instr.starts, stopped]

end Sys2Proof.Machine
end
